-- ==== Sys2Proof/Word.lean ====
section
/-! DEFINITION. The plain words of the machine: 64-bit registers, 32-bit words with their lane check code (R95), and the
finite map by number in which every register file and sparse store is held as plain data. -/

namespace Sys2Proof

/-- A 64-bit register or address (R38, R76). -/
abbrev Word := BitVec 64

/-- A byte. -/
abbrev Byte := BitVec 8

/-- A 32-bit word and the 4-bit lane check code that travels with it (R95); code 15 is poison. -/
structure CW where
  v : BitVec 32
  c : BitVec 4
  deriving DecidableEq, Repr, Inhabited

/-- The word zero with its code. -/
def CW.zero : CW := ⟨0, 0⟩

/-- A finite map from numbers, in rising order of its keys. -/
abbrev NMap (α : Type) := List (Nat × α)

/-- What a map holds at `k`: the default where nothing is listed. -/
def NMap.get {α : Type} (d : α) : NMap α → Nat → α
  | [], _ => d
  | (k, v) :: m, i => bif Nat.beq k i then v else NMap.get d m i

/-- The map with `v` at `i`. -/
def NMap.set {α : Type} : NMap α → Nat → α → NMap α
  | [], i, v => [(i, v)]
  | (k, w) :: m, i, v =>
    if k = i then (i, v) :: m
    else if i < k then (i, v) :: (k, w) :: m
    else (k, w) :: NMap.set m i v

/-- The map with nothing listed at `i`. -/
def NMap.del {α : Type} : NMap α → Nat → NMap α
  | [], _ => []
  | (k, w) :: m, i => if k = i then NMap.del m i else (k, w) :: NMap.del m i

/-- What a map lists at `k`, if anything. -/
def NMap.find {α : Type} : NMap α → Nat → Option α
  | [], _ => none
  | (k, v) :: m, i => bif Nat.beq k i then some v else NMap.find m i

end Sys2Proof
end

