-- ==== Sys2Proof/Config.lean ====
section
/-! DEFINITION. What one module fixes, and the free values: values that the spec leaves open, so that no proof can see
them. A free value is a constant without a body, applied to plain data. -/

namespace Sys2Proof.Config

/-- FREE VALUE. The byte that the second face of a publishable page holds at a physical address before anything was
written there (R110, "an unspecified value"). Log entry 4. -/
opaque altByte : Nat → BitVec 8

/-- FREE VALUE. The n-th draw of 64 conditioned bits from the entropy source (R168). Log entry 5. -/
opaque entropy : Nat → BitVec 64

/-- FREE VALUE. The n-th eye measured by LNKCTL MARGIN: the worst eye width, "any value from 0 to 1,000", and its lane
(R291). Log entry 5. -/
opaque eye : Nat → BitVec 16

/-- FREE VALUE. The lane that the n-th margin measurement names (R291). Log entry 5. -/
opaque eyeLane : Nat → BitVec 8

/-- FREE VALUE. Words that a failed collective leaves in a hidden face (R197, "unspecified bytes"). Log entry 5. -/
opaque junk : Nat → BitVec 32

/-- FREE VALUE. The data of a word of code 15 that stands, at a physical address, for a word that was refused or withheld
(R97, R187, R315). Log entry 5. -/
opaque lost : Nat → BitVec 32

/-- FREE VALUE. Where the spec states no value (named at each use). Log entry 5. -/
opaque freeWord : Nat → BitVec 64

/-- FREE VALUE. A reset or other choice of firmware that the spec leaves to firmware. Log entry 5. -/
opaque firmware : Nat → BitVec 64

/-- Ranks and files of an acre (R8). -/
def ranks : Nat := 16
def files : Nat := 8
def acres : Nat := 12

/-- What a byte of memory that nothing has written reads as. DESIGN CHOICE (log entry 3, unsafe). -/
def blankByte : BitVec 8 := 0

/-- Words of a plot's code store: 256 KiB (R115). -/
def codeWords : Nat := 32768

/-- Journal slots (R351), seed-log entries (R373). -/
def journalSlots : Nat := 1048576
def seedSlots : Nat := 524288

/-- Physical bases in tier-2 memory of the journal, the seed log, the dump region, the launch-RCB region and the
records of launches that the host sends. The spec
places them outside every partition and gives no address. DESIGN CHOICE (log entry 6). -/
def journalBase : Nat := 0x1000_0000_0000
def seedBase : Nat := 0x1000_0400_0000
def dumpBase : Nat := 0x1000_1000_0000
def launchRcbBase : Nat := 0x1000_8000_0000
def recordBase : Nat := 0x1000_9000_0000
def rootRcb : Nat := 0x1000_7FFF_0000

end Sys2Proof.Config
end

