-- ==== Sys2Proof/Syntax.lean ====
section
/-! DEFINITION. The instruction set and the machine's own events, one constructor for each row of the opcode table.
An instruction holds the fields of its format as the word lays them out (R117 to R124), so that a bit that must be zero
is still there to be checked. What names the place of an event stands in the event record of the state (`EvArgs`).
The constructors without fields stand last: the compiler numbers at most 245 constructors that have fields. -/

namespace Sys2Proof

/-- Format S3 (R117); `z` is bits [15:0]. -/
structure S3 where
  sd : BitVec 5
  sa : BitVec 5
  sb : BitVec 5
  sc : BitVec 5
  mod : BitVec 16
  z : BitVec 16
  deriving DecidableEq, Repr, Inhabited

/-- Format SI (R118). -/
structure SI where
  sd : BitVec 5
  sa : BitVec 5
  mod : BitVec 10
  imm : BitVec 32
  deriving DecidableEq, Repr, Inhabited

/-- Format SM (R119); `s` and `zz` are the S and Z bits. -/
structure SM where
  s : BitVec 1
  zz : BitVec 1
  rd : BitVec 5
  sa : BitVec 5
  cnt : BitVec 4
  scope : BitVec 3
  order : BitVec 3
  off : BitVec 32
  deriving DecidableEq, Repr, Inhabited

/-- Format SB (R120); `z` is bits [39:32]. -/
structure SB where
  sa : BitVec 5
  sb : BitVec 5
  hint : BitVec 2
  z : BitVec 8
  off : BitVec 32
  deriving DecidableEq, Repr, Inhabited

/-- Formats SC and X (R121). -/
structure SC where
  sd : BitVec 5
  sa : BitVec 5
  sb : BitVec 5
  scope : BitVec 5
  imm : BitVec 32
  deriving DecidableEq, Repr, Inhabited

/-- Format V (R122). -/
structure V where
  dst : BitVec 7
  a : BitVec 7
  b : BitVec 7
  c : BitVec 7
  ty : BitVec 4
  rnd : BitVec 3
  gate : BitVec 3
  ge : BitVec 1
  count : BitVec 5
  mod : BitVec 8
  deriving DecidableEq, Repr, Inhabited

/-- Format D (R124). -/
structure D where
  a : BitVec 8
  b : BitVec 8
  c : BitVec 8
  d : BitVec 8
  e : BitVec 20
  deriving DecidableEq, Repr, Inhabited

/-- The header of a Gyord message (R357); `zero` is what bytes 0x14 to 0x1F hold, as one number. -/
structure GyordHdr where
  magic : BitVec 32
  kind : BitVec 8
  flags : BitVec 8
  status : BitVec 16
  cookie : BitVec 64
  len : BitVec 32
  zero : BitVec 96
  deriving DecidableEq, Repr, Inhabited

/-- A Knabry flit (R360), its CRC already judged; `target` is the physical sector address or the CID, `index` the
participant, `req` the request that it belongs to, and `payload` its words with their codes. -/
structure Flit where
  dst : Nat
  src : Nat
  typ : Nat
  seq : BitVec 16
  ack : BitVec 16
  target : Nat
  index : Nat
  req : Nat
  part : Nat
  status : Nat
  payload : List CW
  deriving DecidableEq, Repr, Inhabited

/-- What names the place and the outside value of an event: plain data that the machine's agenda supplies with it. Each
event's constructor says which of these it reads. -/
structure EvArgs where
  a : Nat := 0
  b : Nat := 0
  c : Nat := 0
  d : Nat := 0
  v : BitVec 64 := 0
  ok : Bool := false
  ok2 : Bool := false
  ns : List Nat := []
  pairs : List (Nat × Nat) := []
  ds : List (BitVec 64) := []
  hdr : GyordHdr := default
  flit : Flit := default
  body : List (BitVec 32) := []
  deriving DecidableEq, Repr, Inhabited

/-- The rows of the opcode table: the instructions of classes 0x0 to 0xF (R129), then the machine's and the
environment's events. -/
inductive Instr where
  | add (x : S3)
  | sub (x : S3)
  | mul (x : S3)
  | mulh (x : S3)
  | mulhu (x : S3)
  | div (x : S3)
  | divu (x : S3)
  | mod (x : S3)
  | modu (x : S3)
  | and (x : S3)
  | or (x : S3)
  | xor (x : S3)
  | andn (x : S3)
  | shl (x : S3)
  | shr (x : S3)
  | sra (x : S3)
  | rol (x : S3)
  | min (x : S3)
  | max (x : S3)
  | minu (x : S3)
  | maxu (x : S3)
  | slt (x : S3)
  | sltu (x : S3)
  | seq (x : S3)
  | sel (x : S3)
  | madd (x : S3)
  | addsh (x : S3)
  | clz (x : S3)
  | ctz (x : S3)
  | popc (x : S3)
  | brev (x : S3)
  | sext (x : S3)
  | zext (x : S3)
  | bfx (x : S3)
  | bfi (x : S3)
  | movm (x : S3)
  | addi (x : SI)
  | muli (x : SI)
  | andi (x : SI)
  | ori (x : SI)
  | xori (x : SI)
  | shli (x : SI)
  | shri (x : SI)
  | srai (x : SI)
  | slti (x : SI)
  | sltiu (x : SI)
  | seqi (x : SI)
  | li (x : SI)
  | lih (x : SI)
  | lea (x : SI)
  | ldb (x : SM)
  | ldbu (x : SM)
  | ldh (x : SM)
  | ldhu (x : SM)
  | ldw (x : SM)
  | ldwu (x : SM)
  | ldd (x : SM)
  | stb (x : SM)
  | sth (x : SM)
  | stw (x : SM)
  | std (x : SM)
  | ldm (x : SM)
  | stm (x : SM)
  | pref (x : SM)
  | clean (x : SM)
  | aadd (x : SM)
  | aand (x : SM)
  | aor (x : SM)
  | axor (x : SM)
  | amin (x : SM)
  | amax (x : SM)
  | aminu (x : SM)
  | amaxu (x : SM)
  | aswp (x : SM)
  | acas (x : SM)
  | afadd (x : SM)
  | fence (x : SM)
  | phaseAcq (x : SM)
  | phaseRel (x : SM)
  | phaseAr (x : SM)
  | publish (x : SM)
  | beq (x : SB)
  | bne (x : SB)
  | blt (x : SB)
  | bge (x : SB)
  | bltu (x : SB)
  | bgeu (x : SB)
  | j (x : SB)
  | jal (x : SB)
  | jalr (x : SB)
  | loop (x : SB)
  | progress (x : SB)
  | srd (x : SC)
  | swr (x : SC)
  | tagwaitany (x : SC)
  | tagwaitall (x : SC)
  | tagff (x : SC)
  | tagclr (x : SC)
  | cbwait (x : SC)
  | bararv (x : SC)
  | barwait (x : SC)
  | bar (x : SC)
  | evsig (x : SC)
  | evwait (x : SC)
  | evrst (x : SC)
  | evalloc (x : SC)
  | launch (x : SC)
  | seed (x : SC)
  | stashdecl (x : SC)
  | carryx (x : SC)
  | carryi (x : SC)
  | trap (x : SC)
  | trapBrkpt (x : SC)
  | srdp (x : SC)
  | swrp (x : SC)
  | genbump (x : SC)
  | scrub (x : SC)
  | tmask (x : SC)
  | drainmk (x : SC)
  | ctxsave (x : SC)
  | ctxload (x : SC)
  | relink (x : SC)
  | lnkctlQuiesce (x : SC)
  | lnkctlRemap (x : SC)
  | lnkctlRetrain (x : SC)
  | lnkctlResume (x : SC)
  | lnkctlMargin (x : SC)
  | lnkst (x : SC)
  | dirq (x : SC)
  | dirreclaim (x : SC)
  | jrnlrd (x : SC)
  | tlbinv (x : SC)
  | tempostop (x : SC)
  | gambit (x : SC)
  | gambitStop (x : SC)
  | mbox (x : SC)
  | vadd (x : V)
  | vsub (x : V)
  | vmul (x : V)
  | vfma (x : V)
  | vfms (x : V)
  | vfnma (x : V)
  | vdiv (x : V)
  | vsqrt (x : V)
  | vrcp (x : V)
  | vrsq (x : V)
  | vexp2 (x : V)
  | vlog2 (x : V)
  | vmin (x : V)
  | vmax (x : V)
  | vabs (x : V)
  | vneg (x : V)
  | vclamp (x : V)
  | vand (x : V)
  | vor (x : V)
  | vxor (x : V)
  | vshl (x : V)
  | vshr (x : V)
  | vsra (x : V)
  | vcmpeq (x : V)
  | vcmplt (x : V)
  | vcmple (x : V)
  | vsel (x : V)
  | vmov (x : V)
  | viota (x : V)
  | vrng (x : V)
  | vscale (x : V)
  | vcvt (x : V)
  | vqmx (x : V)
  | vdqmx (x : V)
  | vpack (x : V)
  | vunpack (x : V)
  | vshuf (x : V)
  | vbcast (x : V)
  | vredadd (x : V)
  | vredmax (x : V)
  | vredmin (x : V)
  | vacc (x : V)
  | varst (x : V)
  | vaout (x : V)
  | vscan (x : V)
  | vtos (x : V)
  | vsteer (x : V)
  | vmerge (x : V)
  | pand (x : V)
  | por (x : V)
  | pnot (x : V)
  | pgen (x : V)
  | pfrom (x : V)
  | pdrop (x : V)
  | agbase (x : D)
  | agloop (x : D)
  | sloop (x : D)
  | agidx (x : D)
  | srst (x : D)
  | sld (x : D)
  | sst (x : D)
  | sgath (x : D)
  | sscat (x : D)
  | sfill (x : D)
  | sbar (x : D)
  | btgive (x : D)
  | bttake (x : D)
  | tdset (x : D)
  | tld (x : D)
  | tlda (x : D)
  | tst (x : D)
  | tadd (x : D)
  | tcpy (x : D)
  | cpy (x : D)
  | cpymm (x : D)
  | coll (x : D)
  | mma (x : D)
  | mmaz (x : D)
  | azero (x : D)
  | adrain (x : D)
  | arel (x : D)
  | wld (x : D)
  | wrel (x : D)
  | cbld (x : D)
  | amirror (x : D)
  | aspill (x : D)
  | icfg (x : D)
  | iset (x : D)
  | iwire (x : D)
  | iunwire (x : D)
  | istep (x : D)
  | isample (x : D)
  | istream (x : D)
  | iinject (x : D)
  | iinjectPort (x : D)
  | iflags (x : D)
  | isave (x : D)
  | iload (x : D)
  | iloadImage (x : D)
  | routeLocal (x : D)
  | routeRemote (x : D)
  | routeRank (x : D)
  | routeFile (x : D)
  | routeHold (x : D)
  | routeExpect (x : D)
  | rtab (x : D)
  | cfgblk (x : D)
  | actrate (x : D)
  /-- UNDEFINED_WORD (R131). -/
  | undefinedWord (w : BitVec 64)
  /-- HALT: every field of its word is fixed. -/
  | halt
  /-- NOP: every field of its word is fixed. -/
  | nop
  /-- YIELD: every field of its word is fixed. -/
  | yield
  /-- CBCLOSE: every field of its word is fixed. -/
  | cbclose
  /-- TRET: every field of its word is fixed. -/
  | tret
  /-- ISTREAM_OFF: every field of its word is fixed. -/
  | istreamOff
  /-- ACTOR_FIRING (R13, R345); of the event record: `a` plot, `ok` a residue prediction fails, `ok2` it fails twice. -/
  | actorFiring
  /-- STREAM_BEAT (R177); of the event record: `a` plot, `b` gen. -/
  | streamBeat
  /-- BEAT_REPLAY (R347); of the event record: `a` plot, `b` port. -/
  | beatReplay
  /-- MATRIX_STEP (R237, R242); of the event record: `a` plot, `ok` the mirrored results of the step differ, `ok2` they differ
  when it is recomputed too. -/
  | matrixStep
  /-- DRAIN_FIRING (R240); of the event record: `a` plot. -/
  | drainFiring
  /-- ACCUMULATOR_SPILL (R47); of the event record: `a` plot. -/
  | accumulatorSpill
  /-- MATRIX_MARKER_EFFECT (R227); of the event record: `a` plot. -/
  | matrixMarkerEffect
  /-- WEIGHT_FILL_COMPLETE (R232); of the event record: `a` plot, `b` slot. -/
  | weightFillComplete
  /-- ISTEP_FIRING (R255); of the event record: `a` plot. -/
  | istepFiring
  /-- BANK_MARKER_EFFECT (R252); of the event record: `a` plot. -/
  | bankMarkerEffect
  /-- TOKEN_SEND (R24); of the event record: `a` plot, `b` sink. -/
  | tokenSend
  /-- TOKEN_DELIVERY (R23); of the event record: `a` i. -/
  | tokenDelivery
  /-- TILE_PERFORM (R91); of the event record: `a` plot, `b` op. -/
  | tilePerform
  /-- COPY_PERFORM (R192); of the event record: `a` plot, `b` op, `c` n. -/
  | copyPerform
  /-- FOLLOW_ON_MMA_START (R193); of the event record: `a` plot. -/
  | followOnMmaStart
  /-- PUBLICATION (R99); of the event record: `a` agent, `pairs` what enters other snapshots. -/
  | publication
  /-- PUBLISH_FLIP (R111); of the event record: `a` i. -/
  | publishFlip
  /-- WINDOW_FILL (R84); of the event record: `a` i. -/
  | windowFill
  /-- BANK_TOKEN_SEND (R32); of the event record: `a` plot, `b` bank. -/
  | bankTokenSend
  /-- BANK_TOKEN_ARRIVAL (R32); of the event record: `a` i. -/
  | bankTokenArrival
  /-- PAGE_WALK (R309); of the event record: `a` i. -/
  | pageWalk
  /-- BACKGROUND_SCRUB (R318); of the event record: `a` plot, `b` granule. -/
  | backgroundScrub
  /-- BARRIER_COMPLETION (R33); of the event record: `a` i, `ok` podRelease. -/
  | barrierCompletion
  /-- SUPERVISOR_RESUME (R162, R307, R326); of the event record: `a` agent, `c` cause to fail it with, 0 to resume it, `d` 1 to
  create an event slot for partition `b`, 2 to free slot `b`. -/
  | supervisorResume
  /-- SCHEDULER_DECISION (R301); of the event record: `a` part. -/
  | schedulerDecision
  /-- AGING_STEP (R301). -/
  | agingStep
  /-- STRAND_RELEASE (R35); of the event record: `a` launch, `b` tract. -/
  | strandRelease
  /-- RANK_START (R393); of the event record: `a` launch, `b` tract. -/
  | rankStart
  /-- LAUNCH_RETIREMENT (R300); of the event record: `a` launch. -/
  | launchRetirement
  /-- HEADLAND_SCRUB (R305); of the event record: `a` plot. -/
  | headlandScrub
  /-- BOUNDARY_EXCEPTION (R283); of the event record: `a` agent. -/
  | boundaryException
  /-- TIMER (R280); of the event record: `a` agent. -/
  | timer
  /-- TIMECMP_WRITE (R280); of the event record: `a` agent, `v` v. -/
  | timecmpWrite
  /-- FORMAT_WINDOW_WRITE (R281); of the event record: `a` core, `b` num, `v` v. -/
  | formatWindowWrite
  /-- AG_RECORD_WRITE (R324); of the event record: `a` plot, `b` num, `v` v. -/
  | agRecordWrite
  /-- WATCHDOG_EXPIRY (R328); of the event record: `a` launch. -/
  | watchdogExpiry
  /-- PREEMPTION_ESCALATION (R329); of the event record: `a` agent. -/
  | preemptionEscalation
  /-- ACTOR_PARK (R331); of the event record: `a` plot, `b` actor. -/
  | actorPark
  /-- DRAIN_COMPLETE (R331); of the event record: `a` drain. -/
  | drainComplete
  /-- RESIDENT_SWITCH (R334); of the event record: `a` plot, `b` next. -/
  | residentSwitch
  /-- ENERGY_SAMPLE (R321); of the event record: `a` acre, `b` uj. -/
  | energySample
  /-- QUOTA_PERIOD_BOUNDARY (R322). -/
  | quotaPeriodBoundary
  /-- GYORD_HELLO (R357); of the event record: `a` session, `hdr` its header, `body` body, `b` the partition's RCB, `ok` whether
  it is the root's. -/
  | gyordHello
  /-- GYORD_LAUNCH (R358); of the event record: `a` session, `hdr` its header, `body` body. -/
  | gyordLaunch
  /-- GYORD_COPY (R359); of the event record: `a` session, `hdr` its header, `body` body, `ns` the words that RDMA READ brings,
  `ok2` an RDMA error of the host. -/
  | gyordCopy
  /-- GYORD_EVENT_SIG (R358); of the event record: `a` session, `hdr` its header, `body` body. -/
  | gyordEventSig
  /-- GYORD_EVENT_WAIT (R358); of the event record: `a` session, `hdr` its header, `body` body. -/
  | gyordEventWait
  /-- GYORD_EVENT_READ (R358); of the event record: `a` session, `hdr` its header, `body` body. -/
  | gyordEventRead
  /-- GYORD_QUERY_LAUNCH (R358); of the event record: `a` session, `hdr` its header, `body` body. -/
  | gyordQueryLaunch
  /-- GYORD_QUERY_RCB (R358); of the event record: `a` session, `hdr` its header, `body` body. -/
  | gyordQueryRcb
  /-- GYORD_MANAGEMENT (R358); of the event record: `a` session, `hdr` its header, `body` body. -/
  | gyordManagement
  /-- NETERR (R356); of the event record: `a` port, `b` kind. -/
  | neterr
  /-- KNABRY_TRAINING (R360); of the event record: `a` port, `b` mask, `c` lanes, `ok` reduce. -/
  | knabryTraining
  /-- FLIT_REQUEST (R360); of the event record: `a` port, `flit` the flit. -/
  | flitRequest
  /-- FLIT_RESPONSE (R360); of the event record: `a` port, `flit` the flit. -/
  | flitResponse
  /-- FLIT_SNOOP (R360); of the event record: `a` port, `flit` the flit. -/
  | flitSnoop
  /-- FLIT_SNOOP_REPLY (R360); of the event record: `a` port, `flit` the flit. -/
  | flitSnoopReply
  /-- FLIT_CONTRIBUTION (R364); of the event record: `a` port, `flit` the flit. -/
  | flitContribution
  /-- FLIT_RESULT (R364); of the event record: `a` port, `flit` the flit. -/
  | flitResult
  /-- FLIT_HOLD (R365); of the event record: `a` port, `flit` the flit. -/
  | flitHold
  /-- FLIT_RELEASE (R365); of the event record: `a` port, `flit` the flit. -/
  | flitRelease
  /-- FLIT_CREDIT (R360); of the event record: `a` port, `flit` the flit. -/
  | flitCredit
  /-- FLIT_CRC_RETRY (R360); of the event record: `a` link, `b` flits that are unacknowledged on a UCIe link. -/
  | flitCrcRetry
  /-- DIRECTORY_RDS (R362); of the event record: `a` sector. -/
  | directoryRds
  /-- DIRECTORY_RDX (R362); of the event record: `a` sector. -/
  | directoryRdx
  /-- DIRECTORY_WRH (R362); of the event record: `a` sector. -/
  | directoryWrh
  /-- DIRECTORY_EVICT (R362); of the event record: `a` sector. -/
  | directoryEvict
  /-- DIRTY_NOTICE (R362); of the event record: `a` sector. -/
  | dirtyNotice
  /-- INVALIDATION_TIMEOUT (R362); of the event record: `a` sector, `b` sharer. -/
  | invalidationTimeout
  /-- SNOOP_TIMEOUT (R363); of the event record: `a` sector. -/
  | snoopTimeout
  /-- OWNER_REACHABLE (R363); of the event record: `a` owner. -/
  | ownerReachable
  /-- SNPTMO_WRITE (R363); of the event record: `v` v. -/
  | snptmoWrite
  /-- POD_RANGE_WRITE (R361); of the event record: `a` i, `b` word, `v` v. -/
  | podRangeWrite
  /-- COLL_PATH_WRITE (R397); of the event record: `v` v. -/
  | collPathWrite
  /-- COLLECTIVE_SUCCESS (R197); of the event record: `a` cid. -/
  | collectiveSuccess
  /-- COLLECTIVE_TIMEOUT (R365); of the event record: `a` cid. -/
  | collectiveTimeout
  /-- UCIE_RETRY_THRESHOLD (R367); of the event record: `a` link. -/
  | ucieRetryThreshold
  /-- UCIE_FLIT_FAIL (R367); of the event record: `a` link, `ok` retrained. -/
  | ucieFlitFail
  /-- QUIESCE_TIMEOUT (R291); of the event record: `a` link. -/
  | quiesceTimeout
  /-- UCIE_RETRY_CONFIG_WRITE (R367); of the event record: `v` v. -/
  | ucieRetryConfigWrite
  /-- SCOPE_CHECK_CONTROL_WRITE (R378); of the event record: `a` k, `v` v. -/
  | scopeCheckControlWrite
  /-- TRACE_RING_WRITE (R379); of the event record: `a` which, `v` v. -/
  | traceRingWrite
  /-- JOURNAL_SUBMIT (R354); of the event record: `a` core, `v` v. -/
  | journalSubmit
  /-- JOURNAL_APPEND (R351). -/
  | journalAppend
  /-- HUB_REGISTER_WRITE (R78); of the event record: `a` addr, `v` v. -/
  | hubRegisterWrite
  /-- FATAL_DUMP (R355); of the event record: `a` cause. -/
  | fatalDump
  /-- GAMBIT_WINDOW_SWITCH (R376); of the event record: `a` trial. -/
  | gambitWindowSwitch
  /-- GAMBIT_TRIAL_END (R376); of the event record: `a` trial. -/
  | gambitTrialEnd
  /-- TEMPOSTOP_WARNING (R323). -/
  | tempostopWarning
  /-- TEMPO_STOP (R374). -/
  | tempoStop
  /-- POD_TEMPO_ALIGN (R374); of the event record: `v` master. -/
  | podTempoAlign
  /-- POWER_ON_RESET (R390); of the event record: `ok` signed, `ok2` entriesOk, `ds` digest. -/
  | powerOnReset
  /-- ACRE_POWER_UP (R390); of the event record: `a` acre, `ok` ok. -/
  | acrePowerUp
  /-- LINK_MEMORY_TRAINING (R392); of the event record: `a` group, `ns` what failed there, `pairs` links
  with masks of lanes that do not train. -/
  | linkMemoryTraining
  /-- MODULE_READY (R390); of the event record: `a` jw, `b` jb, `c` sw, `d` sb. -/
  | moduleReady
  /-- DIE_WARM (R395); of the event record: `a` die, `b` temp. -/
  | dieWarm
  /-- ACRE_HOT (R395); of the event record: `a` acre, `b` temp. -/
  | acreHot
  /-- DIE_OVERTEMP (R395); of the event record: `a` die. -/
  | dieOvertemp
  /-- POWER_CAP_SET (R395); of the event record: `a` watts. -/
  | powerCapSet
  /-- OPERATING_POINT_CHANGE (R394); of the event record: `a` acre, `b` point. -/
  | operatingPointChange
  /-- DBGHALT (R284); of the event record: `a` agent. -/
  | dbghalt
  /-- DEBUG_RESUME (R284); of the event record: `a` agent. -/
  | debugResume
  /-- DEBUGGER_ACCESS (R319); of the event record: `a` session, `b` agent, `c` item, `d` index, `ok` whether it writes, `v`
  what, `ok2` whether the session holds the forensic right, `ns` the RCB of its partition, none for the root's. -/
  | debuggerAccess
  /-- CTXRST (R396); of the event record: `a` launch. -/
  | ctxrst
  /-- DUMPREQ (R396); of the event record: `v` reason. -/
  | dumpreq
  /-- MANAGEMENT_READ (R396); of the event record: `a` session, `b` what, `c` index, `ns` the RCB of the
  session's partition, none for the root's. -/
  | managementRead
  /-- RECOVERY_FLASH_IMAGE (R396); of the event record: `ok` signed. -/
  | recoveryFlashImage
  /-- EXTINT (R323); of the event record: `a` signal. -/
  | extint
  /-- ENTROPY_BITS_READY (R168). -/
  | entropyBitsReady
  /-- MANAGEMENT_ACKNOWLEDGE (R396); of the event record: `a` session, `b` log, `c` upto, `ns` as there. -/
  | managementAcknowledge
  /-- HOLDCHILD_RELEASE (R339); of the event record: `a` launch. -/
  | holdchildRelease
  /-- ETHERNET_LINK_UP (R356); of the event record: `a` port, `b` lanes. -/
  | ethernetLinkUp
  deriving DecidableEq, Repr, Inhabited

end Sys2Proof
end

