-- ==== Sys2Proof/WellFormed.lean ====
section
/-! DEFINITION. The cause codes of R323, and the checks of R131 orders 7 to 9 that a word must pass to be an instruction:
reserved bits and codes (R125), vector types (R52), operand kinds and register indices (R123). `formFault` gives the first
check that fails. -/

namespace Sys2Proof

/-- The causes of R323. -/
inductive Cause where
  | illop | rsvfld | priv | badopnd | grpovl | grpwrap | nodp | fmtbad | swtrap | brkpt | step | ifetch | ialign
  | loopnest | cfgbad | routebad | trnr | trnw | protr | protw | align | tilexf | tileshape | genstale | poison | lccmis
  | routeid | stashconf | atomscope | pubbad | fmtwin | space | iovf | iwidth | wempty | afree | aspillf | mmafmt
  | mmamis | portprot | carrybad | cbempty | fptrap | qmxbad | btokbad | agloopbad | cpysize | collbad | evfull | barfull
  | evname | detconf | recfull | repdiv | equota | wdog | wdogsave | launchbad | launchrej | ksplitref | budget | preempt
  | foldfail | relinkfail | collinc | colltmo | ownlost | snooptmo | dirfull | lnkretry | lnkdown | lnkdegr | ucierep
  | neterr | verneg | rempoison | remprot | podpart | flitchk | hostmsg | tempostop | gambitend | scopechk | watchpt
  | dbghalt | mbox | jrnlovf | therm | pwrcap | ctxrst | scrubreq | dumpreq | machchk | firmerr | timer | extint
  deriving DecidableEq, Repr, Inhabited

/-- The cause code (R323): the causes stand in the order of their codes, from 0x00 on. -/
def Cause.code (c : Cause) : BitVec 7 := BitVec.ofNat 7 c.ctorIdx

/-- A bit set of the operand kinds that a position of format V accepts (R198). -/
structure Kinds where
  p : Bool := false
  q : Bool := false
  v : Bool := false
  s : Bool := false
  i : Bool := false
  x : Bool := false

def kNone : Kinds := {}
def kP : Kinds := { p := true }
def kQ : Kinds := { q := true }
def kV : Kinds := { v := true }
def kS : Kinds := { s := true }
def kX : Kinds := { x := true }
def kPV : Kinds := { p := true, v := true }
def kSI : Kinds := { s := true, i := true }
def kPVSI : Kinds := { p := true, v := true, s := true, i := true }

/-- The position is one that the instruction does not use (R125). -/
def Kinds.unused (k : Kinds) : Bool := !(k.p || k.q || k.v || k.s || k.i || k.x)

/-- Element width in bits of a format code (R51, R199). -/
def fmtWidth (f : Nat) : Nat :=
  if f = 0x0 ∨ f = 0xA then 32
  else if f = 0x1 ∨ f = 0x2 ∨ f = 0xB then 16
  else if f = 0x5 ∨ f = 0x8 ∨ f = 0xE then 4
  else if f = 0x9 then 2
  else 8

/-- Formats of R207's lists. -/
def isFl (f : Nat) : Bool := f ≤ 2
def isIn (f : Nat) : Bool := 0xA ≤ f && f ≤ 0xD

/-- The small immediate is a value of the type, exactly (R123). -/
def immFits (f : Nat) (v : Int) : Bool :=
  if f ≤ 2 then true                                    -- F32, BF16, F16 hold −16 to 15
  else if f = 3 ∨ f = 4 then                            -- E4M3: 4 significant bits, E5M2: 3
    let n := v.natAbs
    f = 3 || (n ≠ 9 && n ≠ 11 && n ≠ 13 && n ≠ 15)
  else if f = 5 then                                    -- E2M1 (R53)
    let n := v.natAbs
    n = 0 || n = 1 || n = 2 || n = 3 || n = 4 || n = 6
  else if f = 0xA ∨ f = 0xB ∨ f = 0xC then true
  else if f = 0xD then 0 ≤ v
  else if f = 0xE then -8 ≤ v && v ≤ 7
  else false

/-- The signed value of a small immediate's index field. -/
def smallImm (o : BitVec 7) : Int := (o.extractLsb' 0 5).toInt

/-- A source operand is acceptable (R123, R198); `conv` tells whether an immediate is converted to the type. -/
def srcOk (k : Kinds) (ty : Nat) (conv : Bool) (o : BitVec 7) : Bool :=
  let ix := (o.extractLsb' 0 5).toNat
  match (o.extractLsb' 5 2).toNat with
  | 0 => (ix < 16 && k.p) || (16 ≤ ix && ix < 24 && k.q)
  | 1 => ix < 8 && k.v
  | 2 => k.s
  | _ => k.i && (!conv || immFits ty (smallImm o))

/-- A destination operand is acceptable (R123, R198). -/
def dstOk (k : Kinds) (o : BitVec 7) : Bool :=
  let ix := (o.extractLsb' 0 5).toNat
  match (o.extractLsb' 5 2).toNat with
  | 0 => (ix < 16 && k.p) || (16 ≤ ix && ix < 24 && k.q)
  | 1 => ix < 8 && k.v
  | 2 => k.x
  | _ => false

/-- The first failing check of a list: orders 7, 8 and 9 of R131. -/
def firstFault (rsv fmt opn : Bool) : Option Cause :=
  if rsv then some .rsvfld else if fmt then some .fmtbad else if opn then some .badopnd else none

/-- Format S3: which of sb, sc is used, and the mask of the mod bits in use (R117, R125, R136). -/
def S3.fault (x : S3) (b c : Bool) (mask : BitVec 16) : Option Cause :=
  firstFault (x.z != 0 || (!b && x.sb != 0) || (!c && x.sc != 0) || (x.mod &&& ~~~mask) != 0) false false

/-- Format SI: whether sa is used, whether .SAT is accepted (R118, R134, R139). -/
def SI.fault (x : SI) (a sat : Bool) : Option Cause :=
  firstFault ((!a && x.sa != 0) || (x.mod &&& ~~~(if sat then 1 else 0)) != 0) false false

/-- Shifts by an immediate: bits [31:6] must be zero (R139). -/
def SI.shiftFault (x : SI) : Option Cause :=
  firstFault (x.mod != 0 || (x.imm &&& 0xFFFFFFC0#32) != 0) false false

/-- Loads (R147): Z, count clear; order 0 or 1; with order 0 no scope, with order 1 a scope of R98 and S clear. -/
def SM.loadFault (x : SM) : Option Cause :=
  firstFault (x.zz != 0 || x.cnt != 0 || 2 ≤ x.order.toNat ||
    (x.order = 0 && x.scope != 0) || (x.order = 1 && (x.s != 0 || 5 ≤ x.scope.toNat))) false false

/-- Stores (R147). -/
def SM.storeFault (x : SM) : Option Cause :=
  firstFault (x.zz != 0 || x.cnt != 0 || x.order != 0 || x.scope != 0) false false

/-- LDM and STM (R149). -/
def SM.groupFault (x : SM) : Option Cause :=
  firstFault (x.zz != 0 || 8 ≤ x.cnt.toNat || x.order != 0 || x.scope != 0) false false

/-- PREF (R150). -/
def SM.prefFault (x : SM) : Option Cause :=
  firstFault (x.zz != 0 || x.s != 0 || x.cnt != 0 || x.rd != 0 || x.scope != 0 || 3 ≤ x.order.toNat) false false

/-- CLEAN (R151). -/
def SM.cleanFault (x : SM) : Option Cause :=
  firstFault (x.zz != 0 || x.s != 0 || x.cnt != 0 || x.rd != 0 || x.scope != 0 || x.order != 0) false false

/-- AADD to AFADD (R119, R152, R153): bit 38 is .NEAR, accepted with scope POD only; AFADD is .W only. -/
def SM.atomFault (x : SM) (fl : Bool) : Option Cause :=
  firstFault (5 ≤ x.scope.toNat || 4 ≤ x.order.toNat || 2 ≤ x.cnt.toNat || (fl && x.zz != 0)) false false

/-- FENCE (R154). -/
def SM.fenceFault (x : SM) : Option Cause :=
  firstFault (x.zz != 0 || x.s != 0 || x.cnt != 0 || x.rd != 0 || x.sa != 0 || x.scope != 0 || x.order != 0 ||
    (x.off &&& 0xFFFFC0C0#32) != 0) false false

/-- PHASE (R155); `o` is the order of the row. -/
def SM.phaseFault (x : SM) (o : Nat) : Option Cause :=
  firstFault (x.zz != 0 || x.s != 0 || x.cnt != 0 || x.rd != 0 || x.sa != 0 || 5 ≤ x.scope.toNat ||
    x.order.toNat != o || x.off != 0) false false

/-- PUBLISH (R156). -/
def SM.publishFault (x : SM) : Option Cause :=
  firstFault (x.zz != 0 || x.s != 0 || x.cnt != 0 || x.scope != 0 || x.order != 0) false false

/-- Class 0x4: which fields are used (R141). -/
def SB.fault (x : SB) (a b h o : Bool) : Option Cause :=
  firstFault (x.z != 0 || (!a && x.sa != 0) || (!b && x.sb != 0) || (!h && x.hint != 0) || x.hint = 3 ||
    (!o && x.off != 0)) false false

/-- PROGRESS: id in offset [15:0] (R146). -/
def SB.progressFault (x : SB) : Option Cause :=
  firstFault (x.z != 0 || x.sa != 0 || x.sb != 0 || x.hint != 0 || (x.off &&& 0xFFFF0000#32) != 0) false false

/-- Classes 0x5 and 0x6: which registers are used, whether scope is, and the mask of imm32 bits in use (R157, R285). -/
def SC.fault (x : SC) (d a b : Bool) (mask : BitVec 32) : Option Cause :=
  firstFault ((!d && x.sd != 0) || (!a && x.sa != 0) || (!b && x.sb != 0) || x.scope != 0 ||
    (x.imm &&& ~~~mask) != 0) false false

/-- Tag sets (R157): tag=k with M clear, or mask=sN with M set. -/
def SC.tagFault (x : SC) (d : Bool) : Option Cause :=
  firstFault ((!d && x.sd != 0) || x.sb != 0 || x.scope != 0 || (x.imm &&& 0xFFFFFEC0#32) != 0 ||
    (!x.imm.getLsbD 8 && x.sa != 0) || (x.imm.getLsbD 8 && (x.imm &&& 0x3F#32) != 0)) false false

/-- CBWAIT: n from 0 to 16 (R157). -/
def SC.cbwaitFault (x : SC) : Option Cause :=
  firstFault (x.sd != 0 || x.sa != 0 || x.sb != 0 || x.scope != 0 || 17 ≤ x.imm.toNat) false false

/-- Barriers: scope 1 to 4, identifier 0 to 15 (R157, R163). -/
def SC.barFault (x : SC) (d : Bool) : Option Cause :=
  firstFault ((!d && x.sd != 0) || x.sa != 0 || x.sb != 0 || x.scope.toNat = 0 || 5 ≤ x.scope.toNat ||
    16 ≤ x.imm.toNat) false false

/-- STASHDECL: kind in [1:0], j in [11:8] (R157, R169; the values are order 1 of the entry). -/
def SC.declFault (x : SC) : Option Cause :=
  let k := x.imm.toNat % 4
  let j := (x.imm.toNat / 256) % 16
  firstFault (x.scope != 0 || (x.imm &&& 0xFFFFF0FC#32) != 0 || k = 3 || 8 < j || (k < 2 && (j ≠ 0 || x.sd != 0)))
    false false

/-- LNKCTL: the row's operation (R291); operations 5 to 15 are reserved. -/
def SC.lnkFault (x : SC) (op : Nat) : Option Cause :=
  firstFault (x.scope != 0 || x.imm.toNat != op) false false

/-- MBOX: imm32 [7:0] core and [31:16] tag (R285). -/
def SC.mboxFault (x : SC) : Option Cause :=
  firstFault (x.scope != 0 || (x.imm &&& 0xFF00#32) != 0) false false

/-- DRAINMK: region bits [14:0]; FULL requires the rest to be zero (R288). -/
def SC.drainFault (x : SC) : Option Cause :=
  firstFault (x.sb != 0 || x.scope != 0 || (x.imm &&& 0xFFFF8000#32) != 0 ||
    (x.imm.getLsbD 14 && (x.imm &&& 0x3FFF#32) != 0)) false false

/-- What an instruction of format V accepts. -/
structure VSpec where
  dst : Kinds
  a : Kinds := kNone
  b : Kinds := kNone
  c : Kinds := kNone
  types : Nat → Bool
  /-- the rounding field is read for this type (R202) -/
  rounds : Nat → Bool := fun _ => false
  /-- bits of mod in use, by type -/
  modMask : Nat → BitVec 8 := fun _ => 0
  gate : Bool := true
  count : Bool := true
  /-- b is an index operand, which is not converted to the type (R123) -/
  bIndex : Bool := false
  /-- C holds a second sink (R216, R225) -/
  cDst : Bool := false

/-- Format V against what the entry accepts, in the order of R131; type 0xF is order 8 (R52), and rounding codes 5 to 7
are reserved (R58). -/
def V.fault (x : V) (t : VSpec) (extra : Bool := false) : Option Cause :=
  let ty := x.ty.toNat
  let rsv :=
    5 ≤ x.rnd.toNat || (x.rnd != 0 && !t.rounds ty) || (x.ge = 0 && x.gate != 0) || (!t.gate && x.ge != 0) ||
    (!t.count && x.count != 0) || (x.mod &&& ~~~(t.modMask ty)) != 0 ||
    (t.dst.unused && x.dst != 0) || (t.a.unused && x.a != 0) || (t.b.unused && x.b != 0) || (t.c.unused && x.c != 0) ||
    extra
  let opn :=
    (!t.dst.unused && !dstOk t.dst x.dst) || (!t.a.unused && !srcOk t.a ty true x.a) ||
    (!t.b.unused && !srcOk t.b ty (!t.bIndex) x.b) ||
    (!t.c.unused && !(if t.cDst then dstOk t.c x.c else srcOk t.c ty true x.c))
  firstFault rsv (15 ≤ ty || !t.types ty) opn

def flIn (f : Nat) : Bool := isFl f || isIn f
def anyTy (_ : Nat) : Bool := true
def satIn (f : Nat) : BitVec 8 := if isIn f then 1 else 0
def only (l : List Nat) (f : Nat) : Bool := l.contains f
def w8up (f : Nat) : Bool := 8 ≤ fmtWidth f

/-- The rows of R207. -/
def vArith (sat : Bool) : VSpec :=
  { dst := kPV, a := kPVSI, b := kPVSI, types := flIn, rounds := isFl, modMask := fun f => if sat then satIn f else 0 }
def vFused : VSpec := { dst := kPV, a := kPVSI, b := kPVSI, c := kPVSI, types := isFl, rounds := isFl }
def vF32Two : VSpec := { dst := kPV, a := kPVSI, b := kPVSI, types := only [0], rounds := isFl }
def vF32One : VSpec := { dst := kPV, a := kPVSI, types := only [0], rounds := isFl }
def vMinMax : VSpec := { dst := kPV, a := kPVSI, b := kPVSI, types := flIn }
def vSign : VSpec :=
  { dst := kPV, a := kPVSI, types := fun f => isFl f || only [0xA, 0xB, 0xC] f, modMask := satIn }
def vClamp : VSpec := { dst := kPV, a := kPVSI, b := kPVSI, c := kPVSI, types := flIn }
def vBits : VSpec := { dst := kPV, a := kPVSI, b := kPVSI, types := anyTy }
def vShift (l : List Nat) : VSpec := { dst := kPV, a := kPVSI, b := kPVSI, types := only l }
def vSelSpec : VSpec := { dst := kPV, a := kPVSI, b := kPVSI, c := kPVSI, types := anyTy }
def vMovSpec : VSpec := { dst := kPV, a := kPVSI, types := anyTy }
def vIotaSpec : VSpec := { dst := kPV, a := kSI, types := isIn }
def vRngSpec : VSpec := { dst := kPV, a := kS, b := kS, c := kS, types := only [0, 0xA] }

/-- The source format of VCVT and VQMX: mod [5:1] (R214). -/
def V.st (x : V) : Nat := (x.mod.toNat / 2) % 32

def cvtFmt (f : Nat) : Bool := f ≤ 5 || (0xA ≤ f && f ≤ 0xE)

/-- VCVT (R215): .SAT only for an E5M2 target, or an integer target from an integer; a destination or
source that is a va only where the element counts agree. -/
def V.cvtFault (x : V) : Option Cause :=
  let dt := x.ty.toNat
  let isI (f : Nat) : Bool := 0xA ≤ f
  let satOk := dt = 4 || (isI dt && isI x.st)
  let spec : VSpec := { dst := kPV, a := kPV, types := fun f => cvtFmt f && cvtFmt x.st, rounds := fun _ => true,
                        modMask := fun _ => 0x3F }
  match x.fault spec (extra := x.mod.getLsbD 0 && cvtFmt dt && cvtFmt x.st && !satOk) with
  | some c => some c
  | none =>
    let wd := fmtWidth dt
    let ws := fmtWidth x.st
    if (wd ≠ ws && x.dst.getLsbD 5) || (wd < ws && x.a.getLsbD 5) then some .badopnd else none

/-- VQMX (R214, R216). -/
def V.qmxFault (x : V) : Option Cause :=
  x.fault { dst := kP, a := kP, c := kP, cDst := true, types := fun f => only [6, 7, 8] f && only [0, 1] x.st,
            modMask := fun _ => 0x3E }

/-- Token instructions (R224): type, rounding and gate fields zero. -/
def vTok (dst a b c : Kinds) (cDst : Bool := false) : VSpec :=
  { dst := dst, a := a, b := b, c := c, cDst := cDst, types := anyTy, gate := false }

def V.tokFault (x : V) (t : VSpec) : Option Cause := x.fault t (extra := x.ty != 0)

/-- VSTEER: its two sinks must differ (R225). -/
def V.steerFault (x : V) : Option Cause :=
  match x.tokFault (vTok kP kP kQ kP (cDst := true)) with
  | some c => some c
  | none => if x.dst = x.c then some .badopnd else none

/-- Format D: a list of fields that must be zero, a list of register fields with the size of their file. -/
def dFault (zero : List Bool) (files : List (BitVec 8 × Nat)) : Option Cause :=
  firstFault (zero.any id) false (files.any fun p => p.2 ≤ p.1.toNat)

/-- The same where the format field comes first among the checks of the instruction's own (R131). -/
def dFormat (zero : List Bool) (fmtOk : Bool) (files : List (BitVec 8 × Nat)) : Option Cause :=
  firstFault (zero.any id) (!fmtOk) (files.any fun p => p.2 ≤ p.1.toNat)

/-- The A formats of R235, and the formats of a weight fill (R232). -/
def aFormat (f : Nat) : Bool := (1 ≤ f && f ≤ 8) || (0xC ≤ f && f ≤ 0xE)
def weightFormat (f : Nat) : Bool := (1 ≤ f && f ≤ 9) || f = 0xC || f = 0xE

/-- A tag byte: bit 7 zero, and without T the tag is zero ("Stream, route and tile instructions"). -/
def tagBad (c : BitVec 8) : Bool := c.getLsbD 7 || (!c.getLsbD 6 && c != 0)

/-- A V width field: d[5:0] in use. -/
def D.w (x : D) : Nat := x.d.toNat

/-- Whether a bit of `e` outside the mask is set. -/
def D.eBad (x : D) (mask : BitVec 20) : Bool := (x.e &&& ~~~mask) != 0

def coordMask : BitVec 20 := 0xFFF

/-- The first failing check of orders 7 to 9 (R131) for each instruction; the events have none, nor have the instructions
without fields, whose words are checked as they are decoded. -/
def formFault : Instr → Option Cause
  | .add x => x.fault true false 1
  | .sub x => x.fault true false 1
  | .mul x => x.fault true false 1
  | .mulh x => x.fault true false 0
  | .mulhu x => x.fault true false 0
  | .div x => x.fault true false 0
  | .divu x => x.fault true false 0
  | .mod x => x.fault true false 0
  | .modu x => x.fault true false 0
  | .and x => x.fault true false 0
  | .or x => x.fault true false 0
  | .xor x => x.fault true false 0
  | .andn x => x.fault true false 0
  | .shl x => x.fault true false 0
  | .shr x => x.fault true false 0
  | .sra x => x.fault true false 0
  | .rol x => x.fault true false 0
  | .min x => x.fault true false 0
  | .max x => x.fault true false 0
  | .minu x => x.fault true false 0
  | .maxu x => x.fault true false 0
  | .slt x => x.fault true false 0
  | .sltu x => x.fault true false 0
  | .seq x => x.fault true false 0
  | .sel x => x.fault true true 0
  | .madd x => x.fault true true 1
  | .addsh x => x.fault true false 0x7F
  | .clz x => x.fault false false 0
  | .ctz x => x.fault false false 0
  | .popc x => x.fault false false 0
  | .brev x => x.fault false false 0
  | .sext x => x.fault false false 0x3F
  | .zext x => x.fault false false 0x3F
  | .bfx x => x.fault false false 0xFFF
  | .bfi x => x.fault false false 0xFFF
  | .movm x => x.fault false false 0x1F
  | .addi x => x.fault true true
  | .muli x => x.fault true true
  | .andi x => x.fault true false
  | .ori x => x.fault true false
  | .xori x => x.fault true false
  | .shli x => x.shiftFault
  | .shri x => x.shiftFault
  | .srai x => x.shiftFault
  | .slti x => x.fault true false
  | .sltiu x => x.fault true false
  | .seqi x => x.fault true false
  | .li x => x.fault false false
  | .lih x => x.fault false false
  | .lea x => x.fault false false
  | .ldb x => x.loadFault
  | .ldbu x => x.loadFault
  | .ldh x => x.loadFault
  | .ldhu x => x.loadFault
  | .ldw x => x.loadFault
  | .ldwu x => x.loadFault
  | .ldd x => x.loadFault
  | .stb x => x.storeFault
  | .sth x => x.storeFault
  | .stw x => x.storeFault
  | .std x => x.storeFault
  | .ldm x => x.groupFault
  | .stm x => x.groupFault
  | .pref x => x.prefFault
  | .clean x => x.cleanFault
  | .aadd x => x.atomFault false
  | .aand x => x.atomFault false
  | .aor x => x.atomFault false
  | .axor x => x.atomFault false
  | .amin x => x.atomFault false
  | .amax x => x.atomFault false
  | .aminu x => x.atomFault false
  | .amaxu x => x.atomFault false
  | .aswp x => x.atomFault false
  | .acas x => x.atomFault false
  | .afadd x => x.atomFault true
  | .fence x => x.fenceFault
  | .phaseAcq x => x.phaseFault 1
  | .phaseRel x => x.phaseFault 2
  | .phaseAr x => x.phaseFault 3
  | .publish x => x.publishFault
  | .beq x => x.fault true true true true
  | .bne x => x.fault true true true true
  | .blt x => x.fault true true true true
  | .bge x => x.fault true true true true
  | .bltu x => x.fault true true true true
  | .bgeu x => x.fault true true true true
  | .j x => x.fault false false false true
  | .jal x => x.fault false false false true
  | .jalr x => x.fault true true false true
  | .loop x => x.fault true false true true
  | .progress x => x.progressFault
  | .srd x => x.fault true false false 0xFF
  | .swr x => x.fault false true false 0xFF
  | .tagwaitany x => x.tagFault true
  | .tagwaitall x => x.tagFault false
  | .tagff x => x.tagFault true
  | .tagclr x => x.tagFault false
  | .cbwait x => x.cbwaitFault
  | .bararv x => x.barFault true
  | .barwait x => x.barFault false
  | .bar x => x.barFault true
  | .evsig x => x.fault true true false 0xFFFFFFFF
  | .evwait x => x.fault true true true 0
  | .evrst x => x.fault true true false 0
  | .evalloc x => x.fault true false false 0
  | .launch x => x.fault true true false 0
  | .seed x => x.fault true false false 0
  | .stashdecl x => x.declFault
  | .carryx x => x.fault false true false 0xF
  | .carryi x => x.fault false true true 0xF
  | .trap x => if x.imm.getLsbD 31 then some .rsvfld else x.fault false false false 0xFFFFFFFF
  | .trapBrkpt x => if x.imm.getLsbD 31 then x.fault false false false 0xFFFFFFFF else some .rsvfld
  | .srdp x => x.fault true false false 0xFF
  | .swrp x => x.fault false true false 0xFF
  | .genbump x => x.fault true true false 0
  | .scrub x => x.fault true true false 0
  | .tmask x => x.fault true true true 1
  | .drainmk x => x.drainFault
  | .ctxsave x => x.fault true true true 0
  | .ctxload x => x.fault true true true 1
  | .relink x => x.fault true true false 0
  | .lnkctlQuiesce x => x.lnkFault 0
  | .lnkctlRemap x => x.lnkFault 1
  | .lnkctlRetrain x => x.lnkFault 2
  | .lnkctlResume x => x.lnkFault 3
  | .lnkctlMargin x => x.lnkFault 4
  | .lnkst x => x.fault true true false 0x103
  | .dirq x => x.fault true true false 0
  | .dirreclaim x => x.fault false true true 0
  | .jrnlrd x => x.fault true true true 0x1FF
  | .tlbinv x => if x.imm.toNat % 4 = 3 then some .rsvfld else x.fault false true true 3
  | .tempostop x => x.fault false true false 1
  | .gambit x => x.fault true true false 0
  | .gambitStop x => if x.imm.getLsbD 0 then x.fault true true false 1 else some .rsvfld
  | .mbox x => x.mboxFault
  | .vadd x => x.fault (vArith true)
  | .vsub x => x.fault (vArith true)
  | .vmul x => x.fault (vArith true)
  | .vfma x => x.fault vFused
  | .vfms x => x.fault vFused
  | .vfnma x => x.fault vFused
  | .vdiv x => x.fault vF32Two
  | .vsqrt x => x.fault vF32One
  | .vrcp x => x.fault vF32One
  | .vrsq x => x.fault vF32One
  | .vexp2 x => x.fault vF32One
  | .vlog2 x => x.fault vF32One
  | .vmin x => x.fault vMinMax
  | .vmax x => x.fault vMinMax
  | .vabs x => x.fault vSign
  | .vneg x => x.fault vSign
  | .vclamp x => x.fault vClamp
  | .vand x => x.fault vBits
  | .vor x => x.fault vBits
  | .vxor x => x.fault vBits
  | .vshl x => x.fault (vShift [0xA, 0xB, 0xC, 0xD])
  | .vshr x => x.fault (vShift [0xA, 0xB, 0xC, 0xD])
  | .vsra x => x.fault (vShift [0xA, 0xB, 0xC])
  | .vcmpeq x => x.fault vMinMax
  | .vcmplt x => x.fault vMinMax
  | .vcmple x => x.fault vMinMax
  | .vsel x => x.fault vSelSpec
  | .vmov x => x.fault vMovSpec
  | .viota x => x.fault vIotaSpec
  | .vrng x => x.fault vRngSpec
  | .vscale x => x.fault { vF32Two with bIndex := true }
  | .vcvt x => x.cvtFault
  | .vqmx x => x.qmxFault
  | .vdqmx x => x.fault { dst := kP, a := kP, b := kP, types := only [6, 7, 8] }
  | .vpack x => x.fault { dst := kPV, a := kPV, b := kPV, types := only [0xA, 0xB, 0xC], modMask := fun _ => 1 }
  | .vunpack x => x.fault { dst := kP, a := kPV, types := only [0xB, 0xC, 0xD, 0xE] }
  | .vshuf x => x.fault { dst := kPV, a := kPV, b := kPVSI, types := w8up, bIndex := true }
  | .vbcast x => x.fault { dst := kPV, a := kPV, b := kSI, types := w8up, bIndex := true }
  | .vredadd x => x.fault { dst := kPV, a := kPV, types := only [0, 0xA], modMask := satIn }
  | .vredmax x => x.fault { dst := kPV, a := kPV, types := only [0, 0xA] }
  | .vredmin x => x.fault { dst := kPV, a := kPV, types := only [0, 0xA] }
  | .vacc x => x.fault { dst := kV, a := kPVSI, types := only [0, 0xA] }
  | .varst x => x.fault { dst := kV, a := kSI, types := anyTy, gate := false, count := false }
  | .vaout x => x.fault { dst := kP, a := kV, types := anyTy, gate := false, count := false, modMask := fun _ => 2 }
  | .vscan x => x.fault { dst := kP, a := kPVSI, b := kPVSI, types := isFl, modMask := fun _ => 0x1E }
  | .vtos x => x.fault { dst := kX, a := kPV, b := kSI, types := anyTy, gate := false, count := false, bIndex := true }
  | .vsteer x => x.steerFault
  | .vmerge x => x.tokFault (vTok kP kQ kP kP)
  | .pand x => x.tokFault (vTok kQ kQ kQ kNone)
  | .por x => x.tokFault (vTok kQ kQ kQ kNone)
  | .pnot x => x.tokFault (vTok kQ kQ kNone kNone)
  | .pgen x => x.tokFault (vTok kQ kS kNone kNone)
  | .pfrom x => x.fault { dst := kQ, a := kPV, types := anyTy, gate := false, modMask := fun _ => 6 }
                  (extra := (x.mod.toNat / 2) % 4 = 3)
  | .pdrop x => x.tokFault (vTok kNone kQ kNone kNone)
  | .agbase x => dFault [x.c != 0, x.d != 0, x.e != 0] [(x.a, 4), (x.b, 32)]
  | .agloop x => dFault [4 ≤ x.b.toNat, 44 ≤ x.d.toNat] [(x.a, 4), (x.c, 32)]
  | .sloop x => dFault [x.e != 0, 4 ≤ x.b.toNat] [(x.a, 4), (x.c, 32), (x.d, 32)]
  | .agidx x => dFault [x.d != 0, x.e != 0, 16 ≤ x.b.toNat] [(x.a, 4), (x.c, 32)]
  | .srst x => dFault [x.b != 0, x.c != 0, x.d != 0, x.e != 0] [(x.a, 4)]
  | .sld x => dFault [tagBad x.c, 64 ≤ x.d.toNat, x.eBad 3] [(x.a, 16), (x.b, 4)]
  | .sst x => dFault [tagBad x.c, 64 ≤ x.d.toNat, x.eBad 1] [(x.a, 4), (x.b, 16)]
  | .sgath x => dFault [tagBad x.c, x.eBad 3] [(x.a, 16), (x.b, 4), (x.d, 16)]
  | .sscat x => dFault [tagBad x.c, x.eBad 1] [(x.a, 4), (x.b, 16), (x.d, 16)]
  | .sfill x => dFault [tagBad x.c, 64 ≤ x.d.toNat, x.eBad 1] [(x.a, 4), (x.b, 32)]
  | .sbar x => dFault [16 ≤ x.a.toNat, 16 ≤ x.b.toNat, x.c != 0, x.d != 0, x.e != 0] []
  | .btgive x => dFault [x.b != 0, x.c != 0, x.d != 0, x.eBad coordMask] [(x.a, 16)]
  | .bttake x => dFault [x.b != 0, x.c != 0, x.d != 0, x.e != 0] [(x.a, 16)]
  | .tdset x => dFault [x.d != 0, x.e != 0] [(x.a, 16), (x.b, 32), (x.c, 32)]
  | .tld x => dFault [tagBad x.c, x.d != 0, x.eBad 1] [(x.a, 16), (x.b, 32)]
  | .tlda x => dFault [tagBad x.c, x.d != 0, x.eBad 1] [(x.a, 16), (x.b, 32)]
  | .tst x => dFault [tagBad x.c, 4 ≤ x.d.toNat, x.d.toNat = 1, x.eBad 1] [(x.a, 16), (x.b, 32)]
  | .tadd x => dFault [tagBad x.c, 4 ≤ x.d.toNat, x.d.toNat = 1, x.eBad 1] [(x.a, 16), (x.b, 32)]
  | .tcpy x => dFault [tagBad x.c, x.d != 0, x.eBad 1] [(x.a, 16), (x.b, 16)]
  | .cpy x => dFault [tagBad x.c, x.eBad 3] [(x.a, 32), (x.b, 32), (x.d, 32)]
  | .cpymm x => dFault [tagBad x.c, 8 ≤ x.d.toNat, x.eBad 0x11F] [(x.a, 16)]
  | .coll x => dFault [x.b != 0, tagBad x.c, x.d != 0, x.e != 0] [(x.a, 32)]
  | .mma x => mmaForm x
  | .mmaz x => mmaForm x
  | .azero x => dFormat [x.b != 0, x.c != 0, x.d != 0, x.eBad 0x1F] (let f := x.e.toNat % 32; f = 0 || f = 0xA) [(x.a, 32)]
  | .adrain x => dFault [16 ≤ x.d.toNat, x.eBad 0xFFFF] [(x.a, 32), (x.b, 16)]
  | .arel x => dFault [x.b != 0, x.c != 0, x.d != 0, x.e != 0] [(x.a, 32)]
  | .wld x => dFormat [tagBad x.c, x.eBad 0x7F] (weightFormat (x.e.toNat % 32)) [(x.a, 4), (x.b, 32), (x.d, 32)]
  | .wrel x => dFault [x.b != 0, x.c != 0, x.d != 0, x.e != 0] [(x.a, 4)]
  | .cbld x => dFault [x.d != 0, x.eBad 1] [(x.a, 32)]
  | .amirror x => dFault [2 ≤ x.a.toNat, x.b != 0, x.c != 0, x.d != 0, x.e != 0] []
  | .aspill x => dFault [x.b != 0, x.c != 0, x.d != 0, x.e != 0] [(x.a, 32)]
  | .icfg x => dFault [x.c != 0, x.d != 0, x.e != 0] [(x.a, 64), (x.b, 32)]
  | .iset x => dFault [x.d != 0, x.e != 0] [(x.a, 64), (x.b, 32), (x.c, 32)]
  | .iwire x => dFault [5 ≤ x.b.toNat, 4 ≤ x.c.toNat, x.eBad 1] [(x.a, 64), (x.d, 64)]
  | .iunwire x => dFault [5 ≤ x.b.toNat, x.c != 0, x.d != 0, x.e != 0] [(x.a, 64)]
  | .istep x => dFault [32 ≤ x.b.toNat, 32 ≤ x.c.toNat, 2 ≤ x.d.toNat, x.e != 0,
                        !x.b.getLsbD 4 && x.b != 0, !x.c.getLsbD 4 && x.c != 0] [(x.a, 32)]
  | .isample x => dFault [4 ≤ x.c.toNat, x.d != 0, x.e != 0] [(x.a, 32), (x.b, 64)]
  | .istream x => dFault [32 ≤ x.d.toNat, x.e != 0] [(x.a, 16), (x.b, 32), (x.c, 32)]
  | .iinject x => dFault [x.b != 0, x.d != 0, x.e != 0] [(x.a, 64), (x.c, 32)]
  | .iinjectPort x => dFault [x.b != 1, x.e != 0] [(x.a, 64), (x.c, 16), (x.d, 64)]
  | .iflags x => dFault [2 ≤ x.c.toNat, x.d != 0, x.e != 0] [(x.a, 32), (x.b, 32)]
  | .isave x => dFault [x.b != 0, x.c != 0, x.d != 0, x.e != 0] [(x.a, 32)]
  | .iload x => dFault [x.c != 0, 32 ≤ x.d.toNat, x.e != 0] [(x.a, 16), (x.b, 32)]
  | .iloadImage x => dFault [x.b != 0, x.c != 0, x.d != 0, x.e != 1] [(x.a, 32)]
  | .routeLocal x => routeForm x 0
  | .routeRemote x => routeForm x 1
  | .routeRank x => routeForm x 2
  | .routeFile x => routeForm x 3
  | .routeHold x => routeForm x 4
  | .routeExpect x => routeForm x 5
  | .rtab x => rtabForm x
  | .cfgblk x => dFault [4 ≤ x.a.toNat, x.e != 0] [(x.b, 32)]
  | .actrate x => dFault [4 ≤ x.a.toNat, x.d != 0, x.e != 0] []
  | _ => none
where
  /-- The A format of an MMA is a microscaling one, and a scale port is named (R236). -/
  isMx (x : D) : Bool := let f := x.e.toNat % 32; f = 6 || f = 7 || f = 8
  /-- MMA and MMAZ: the format stands first in the table of R236. -/
  mmaForm (x : D) : Option Cause :=
    dFormat [64 ≤ x.d.toNat, x.eBad 0x3F, !(isMx x) && 4 ≤ x.d.toNat] (aFormat (x.e.toNat % 32)) [(x.a, 32), (x.b, 16), (x.c, 32)]
  /-- ROUTE (R182): the row's kind, and the fields that the kind uses. -/
  routeForm (x : D) (k : Nat) : Option Cause :=
    dFault [x.c.toNat % 16 != k, (k != 1 && x.e != 0), x.eBad coordMask, k = 4 && (x.b != 0 || x.c.toNat / 16 != 0 || x.d != 0),
            k = 5 && x.b != 0]
      [(x.a, 16), (x.b, 16)]
  /-- RTAB (R183): the fields of ROUTE kinds 0 to 4. -/
  rtabForm (x : D) : Option Cause :=
    let k := x.c.toNat % 16
    dFault [5 ≤ k, (k != 1 && x.e != 0), x.eBad coordMask, k = 4 && (x.b != 0 || x.c.toNat / 16 != 0 || x.d != 0)]
      [(x.a, 16), (x.b, 16)]

/-- A well-formed instruction: it passes orders 7 to 9 of R131. -/
def WellFormed (i : Instr) : Bool := (formFault i).isNone

end Sys2Proof
end

