-- ==== Sys2Proof/Decode.lean ====
section
/-! DEFINITION. Decoding a 64-bit word (R115 to R131), the encoder, and the words by which the host asks for a row. -/

namespace Sys2Proof

/-- Bits [lo + n - 1 : lo] of a word. -/
def fieldAt (lo n : Nat) (w : BitVec 64) : BitVec n := w.extractLsb' lo n

/-- The fields of a word in each format (R117 to R124). -/
def S3.of (w : BitVec 64) : S3 :=
  { sd := fieldAt 47 5 w, sa := fieldAt 42 5 w, sb := fieldAt 37 5 w, sc := fieldAt 32 5 w, mod := fieldAt 16 16 w, z := fieldAt 0 16 w }
def SI.of (w : BitVec 64) : SI :=
  { sd := fieldAt 47 5 w, sa := fieldAt 42 5 w, mod := fieldAt 32 10 w, imm := fieldAt 0 32 w }
def SM.of (w : BitVec 64) : SM :=
  { s := fieldAt 59 1 w, zz := fieldAt 58 1 w, rd := fieldAt 47 5 w, sa := fieldAt 42 5 w, cnt := fieldAt 38 4 w,
    scope := fieldAt 35 3 w, order := fieldAt 32 3 w, off := fieldAt 0 32 w }
def SB.of (w : BitVec 64) : SB :=
  { sa := fieldAt 47 5 w, sb := fieldAt 42 5 w, hint := fieldAt 40 2 w, z := fieldAt 32 8 w, off := fieldAt 0 32 w }
def SC.of (w : BitVec 64) : SC :=
  { sd := fieldAt 47 5 w, sa := fieldAt 42 5 w, sb := fieldAt 37 5 w, scope := fieldAt 32 5 w, imm := fieldAt 0 32 w }
def V.of (w : BitVec 64) : V :=
  { dst := fieldAt 45 7 w, a := fieldAt 38 7 w, b := fieldAt 31 7 w, c := fieldAt 24 7 w, ty := fieldAt 20 4 w, rnd := fieldAt 17 3 w,
    gate := fieldAt 14 3 w, ge := fieldAt 13 1 w, count := fieldAt 8 5 w, mod := fieldAt 0 8 w }
def D.of (w : BitVec 64) : D :=
  { a := fieldAt 44 8 w, b := fieldAt 36 8 w, c := fieldAt 28 8 w, d := fieldAt 20 8 w, e := fieldAt 0 20 w }

/-- Class 0x0 (R129). -/
def class0 : List (Nat × (S3 → Instr)) :=
  [(0x01, .add),
   (0x02, .sub),
   (0x03, .mul),
   (0x04, .mulh),
   (0x05, .mulhu),
   (0x06, .div),
   (0x07, .divu),
   (0x08, .mod),
   (0x09, .modu),
   (0x0A, .and),
   (0x0B, .or),
   (0x0C, .xor),
   (0x0D, .andn),
   (0x0E, .shl),
   (0x0F, .shr),
   (0x10, .sra),
   (0x11, .rol),
   (0x12, .min),
   (0x13, .max),
   (0x14, .minu),
   (0x15, .maxu),
   (0x16, .slt),
   (0x17, .sltu),
   (0x18, .seq),
   (0x19, .sel),
   (0x1A, .madd),
   (0x1B, .addsh),
   (0x1C, .clz),
   (0x1D, .ctz),
   (0x1E, .popc),
   (0x1F, .brev),
   (0x20, .sext),
   (0x21, .zext),
   (0x22, .bfx),
   (0x23, .bfi),
   (0x24, .movm)]

/-- Class 0x1 (R129). -/
def class1 : List (Nat × (SI → Instr)) :=
  [(0x01, .addi),
   (0x02, .muli),
   (0x03, .andi),
   (0x04, .ori),
   (0x05, .xori),
   (0x06, .shli),
   (0x07, .shri),
   (0x08, .srai),
   (0x09, .slti),
   (0x0A, .sltiu),
   (0x0B, .seqi),
   (0x0C, .li),
   (0x0D, .lih),
   (0x0E, .lea)]

/-- Class 0x2 (R129). -/
def class2 : List (Nat × (SM → Instr)) :=
  [(0x01, .ldb),
   (0x02, .ldbu),
   (0x03, .ldh),
   (0x04, .ldhu),
   (0x05, .ldw),
   (0x06, .ldwu),
   (0x07, .ldd),
   (0x08, .stb),
   (0x09, .sth),
   (0x0A, .stw),
   (0x0B, .std),
   (0x0C, .ldm),
   (0x0D, .stm),
   (0x0E, .pref),
   (0x0F, .clean)]

/-- Class 0x3 (R129). -/
def class3 : List (Nat × (SM → Instr)) :=
  [(0x01, .aadd),
   (0x02, .aand),
   (0x03, .aor),
   (0x04, .axor),
   (0x05, .amin),
   (0x06, .amax),
   (0x07, .aminu),
   (0x08, .amaxu),
   (0x09, .aswp),
   (0x0A, .acas),
   (0x0B, .afadd),
   (0x0C, .fence),
   (0x0D, fun x => if x.order = 2 then .phaseRel x else if x.order = 3 then .phaseAr x else .phaseAcq x),
   (0x0E, .publish)]

/-- Class 0x4 (R129). -/
def class4 : List (Nat × (SB → Instr)) :=
  [(0x01, .beq),
   (0x02, .bne),
   (0x03, .blt),
   (0x04, .bge),
   (0x05, .bltu),
   (0x06, .bgeu),
   (0x07, .j),
   (0x08, .jal),
   (0x09, .jalr),
   (0x0A, .loop),
   (0x0E, .progress)]

/-- Class 0x5 (R129). -/
def class5 : List (Nat × (SC → Instr)) :=
  [(0x01, .srd),
   (0x02, .swr),
   (0x03, .tagwaitany),
   (0x04, .tagwaitall),
   (0x05, .tagff),
   (0x06, .tagclr),
   (0x08, .cbwait),
   (0x09, .bararv),
   (0x0A, .barwait),
   (0x0B, .bar),
   (0x0C, .evsig),
   (0x0D, .evwait),
   (0x0E, .evrst),
   (0x0F, .evalloc),
   (0x10, .launch),
   (0x11, .seed),
   (0x12, .stashdecl),
   (0x13, .carryx),
   (0x14, .carryi)]

/-- Class 0x6 (R129). -/
def class6 : List (Nat × (SC → Instr)) :=
  [(0x01, fun x => if x.imm.getLsbD 31 then .trapBrkpt x else .trap x),
   (0x03, .srdp),
   (0x04, .swrp),
   (0x05, .genbump),
   (0x06, .scrub),
   (0x07, .tmask),
   (0x08, .drainmk),
   (0x09, .ctxsave),
   (0x0A, .ctxload),
   (0x0B, .relink),
   (0x0C, fun x => if x.imm = 1 then .lnkctlRemap x else if x.imm = 2 then .lnkctlRetrain x else if x.imm = 3 then .lnkctlResume x
      else if x.imm = 4 then .lnkctlMargin x else .lnkctlQuiesce x),
   (0x0D, .lnkst),
   (0x0E, .dirq),
   (0x0F, .dirreclaim),
   (0x10, .jrnlrd),
   (0x11, .tlbinv),
   (0x12, .tempostop),
   (0x13, fun x => if x.imm.getLsbD 0 then .gambitStop x else .gambit x),
   (0x14, .mbox)]

/-- Class 0x8 (R129). -/
def class8 : List (Nat × (V → Instr)) :=
  [(0x01, .vadd),
   (0x02, .vsub),
   (0x03, .vmul),
   (0x04, .vfma),
   (0x05, .vfms),
   (0x06, .vfnma),
   (0x07, .vdiv),
   (0x08, .vsqrt),
   (0x09, .vrcp),
   (0x0A, .vrsq),
   (0x0B, .vexp2),
   (0x0C, .vlog2),
   (0x0D, .vmin),
   (0x0E, .vmax),
   (0x0F, .vabs),
   (0x10, .vneg),
   (0x11, .vclamp),
   (0x12, .vand),
   (0x13, .vor),
   (0x14, .vxor),
   (0x15, .vshl),
   (0x16, .vshr),
   (0x17, .vsra),
   (0x18, .vcmpeq),
   (0x19, .vcmplt),
   (0x1A, .vcmple),
   (0x1B, .vsel),
   (0x1C, .vmov),
   (0x1D, .viota),
   (0x1E, .vrng),
   (0x1F, .vscale)]

/-- Class 0x9 (R129). -/
def class9 : List (Nat × (V → Instr)) :=
  [(0x01, .vcvt),
   (0x02, .vqmx),
   (0x03, .vdqmx),
   (0x04, .vpack),
   (0x05, .vunpack),
   (0x06, .vshuf),
   (0x07, .vbcast),
   (0x08, .vredadd),
   (0x09, .vredmax),
   (0x0A, .vredmin),
   (0x0B, .vacc),
   (0x0C, .varst),
   (0x0D, .vaout),
   (0x0E, .vscan),
   (0x0F, .vtos)]

/-- Class 0xA (R129). -/
def classA : List (Nat × (V → Instr)) :=
  [(0x01, .vsteer),
   (0x02, .vmerge),
   (0x03, .pand),
   (0x04, .por),
   (0x05, .pnot),
   (0x06, .pgen),
   (0x07, .pfrom),
   (0x08, .pdrop)]

/-- Class 0xB (R129). -/
def classB : List (Nat × (D → Instr)) :=
  [(0x01, .agbase),
   (0x02, .agloop),
   (0x03, .agidx),
   (0x04, .sld),
   (0x05, .sst),
   (0x06, .sgath),
   (0x07, .sscat),
   (0x08, .sbar),
   (0x09, .srst),
   (0x0A, .sfill),
   (0x0B, .sloop),
   (0x0C, .btgive),
   (0x0D, .bttake)]

/-- Class 0xC (R129). -/
def classC : List (Nat × (D → Instr)) :=
  [(0x01, .tdset),
   (0x02, .tld),
   (0x03, .tlda),
   (0x04, .tst),
   (0x05, .tadd),
   (0x06, .tcpy),
   (0x07, .cpy),
   (0x08, .cpymm),
   (0x09, .coll)]

/-- Class 0xD (R129). -/
def classD : List (Nat × (D → Instr)) :=
  [(0x01, .mma),
   (0x02, .mmaz),
   (0x03, .azero),
   (0x04, .adrain),
   (0x05, .arel),
   (0x06, .wld),
   (0x07, .wrel),
   (0x08, .cbld),
   (0x09, .amirror),
   (0x0A, .aspill)]

/-- Class 0xE (R129). -/
def classE : List (Nat × (D → Instr)) :=
  [(0x01, .icfg),
   (0x02, .iset),
   (0x03, .iwire),
   (0x04, .iunwire),
   (0x05, .istep),
   (0x06, .isample),
   (0x07, .istream),
   (0x08, fun x => if x.b = 1 then .iinjectPort x else .iinject x),
   (0x09, .iflags),
   (0x0A, .isave),
   (0x0B, fun x => if x.e.getLsbD 0 then .iloadImage x else .iload x)]

/-- Class 0xF (R129). -/
def classF : List (Nat × (D → Instr)) :=
  [(0x01, fun x => match x.c.toNat % 16 with
      | 1 => .routeRemote x | 2 => .routeRank x | 3 => .routeFile x | 4 => .routeHold x | 5 => .routeExpect x
      | _ => .routeLocal x),
   (0x02, .rtab),
   (0x03, .cfgblk),
   (0x04, .actrate)]

/-- The entry of a class's table for an opcode. -/
def pick {α : Type} (t : List (Nat × (α → Instr))) (op : Nat) (x : α) : Option Instr :=
  match t with
  | [] => none
  | (n, f) :: t => if n = op then some (f x) else pick t op x

/-- The instruction that a word's class and opcode name, its fields unchecked (orders 3 and 5 of R131). -/
def opcodeOf (w : BitVec 64) : Option Instr :=
  let op := (fieldAt 52 8 w).toNat
  let base := (fieldAt 52 6 w).toNat
  match (fieldAt 60 4 w).toNat with
  | 0x0 => pick class0 op (S3.of w)
  | 0x1 => pick class1 op (SI.of w)
  | 0x2 => pick class2 base (SM.of w)
  | 0x3 => pick class3 base (SM.of w)
  | 0x4 => pick class4 op (SB.of w)
  | 0x5 => pick class5 op (SC.of w)
  | 0x6 => pick class6 op (SC.of w)
  | 0x8 => pick class8 op (V.of w)
  | 0x9 => pick class9 op (V.of w)
  | 0xA => pick classA op (V.of w)
  | 0xB => pick classB op (D.of w)
  | 0xC => pick classC op (D.of w)
  | 0xD => pick classD op (D.of w)
  | 0xE => pick classE op (D.of w)
  | 0xF => pick classF op (D.of w)
  | _ => none

/-- Why a word is no instruction. -/
inductive DecodeError where
  /-- class 0x7, or an opcode that R129 does not assign (orders 3 and 5 of R131) -/
  | unassigned
  /-- the first failing check of orders 7 to 9 -/
  | form (c : Cause)
  deriving DecidableEq, Repr

/-- The words whose every field is fixed: HALT, NOP, YIELD, CBCLOSE, TRET and ISTREAM off. A word with the opcode of one
of them and another bit set has a nonzero unused field (R125). -/
def fixedWord (w : BitVec 64) : Option (BitVec 64 × Instr) :=
  match (fieldAt 52 12 w).toNat with
  | 0x40B => some (0x40B0000000000000, .halt)
  | 0x40C => some (0x40C0000000000000, .nop)
  | 0x40D => some (0x40D0000000000000, .yield)
  | 0x507 => some (0x5070000000000000, .cbclose)
  | 0x602 => some (0x6020000000000000, .tret)
  | 0xE07 => if w.getLsbD 0 then some (0xE070000000000001, .istreamOff) else none
  | _ => none

/-- The decoder: total, every refusal by name. -/
def decodeWord (w : BitVec 64) : Except DecodeError Instr :=
  match fixedWord w with
  | some (u, i) => if w = u then .ok i else .error (.form .rsvfld)
  | none =>
    match opcodeOf w with
    | none => .error .unassigned
    | some i =>
      match formFault i with
      | some c => .error (.form c)
      | none => .ok i

/-- The word of a format's fields under a class and an opcode (R117 to R124). -/
def S3.word (cls : BitVec 4) (op : BitVec 8) (x : S3) : BitVec 64 :=
  cls ++ op ++ x.sd ++ x.sa ++ x.sb ++ x.sc ++ x.mod ++ x.z
def SI.word (cls : BitVec 4) (op : BitVec 8) (x : SI) : BitVec 64 := cls ++ op ++ x.sd ++ x.sa ++ x.mod ++ x.imm
def SM.word (cls : BitVec 4) (op : BitVec 6) (x : SM) : BitVec 64 :=
  cls ++ x.s ++ x.zz ++ op ++ x.rd ++ x.sa ++ x.cnt ++ x.scope ++ x.order ++ x.off
def SB.word (cls : BitVec 4) (op : BitVec 8) (x : SB) : BitVec 64 := cls ++ op ++ x.sa ++ x.sb ++ x.hint ++ x.z ++ x.off
def SC.word (cls : BitVec 4) (op : BitVec 8) (x : SC) : BitVec 64 :=
  cls ++ op ++ x.sd ++ x.sa ++ x.sb ++ x.scope ++ x.imm
def V.word (cls : BitVec 4) (op : BitVec 8) (x : V) : BitVec 64 :=
  cls ++ op ++ x.dst ++ x.a ++ x.b ++ x.c ++ x.ty ++ x.rnd ++ x.gate ++ x.ge ++ x.count ++ x.mod
def D.word (cls : BitVec 4) (op : BitVec 8) (x : D) : BitVec 64 := cls ++ op ++ x.a ++ x.b ++ x.c ++ x.d ++ x.e

/-- The word of an instruction; an event has none and is given the all-zero word, which is no instruction (R131). -/
def encode : Instr → BitVec 64
  | .add x => x.word 0x0 0x01
  | .sub x => x.word 0x0 0x02
  | .mul x => x.word 0x0 0x03
  | .mulh x => x.word 0x0 0x04
  | .mulhu x => x.word 0x0 0x05
  | .div x => x.word 0x0 0x06
  | .divu x => x.word 0x0 0x07
  | .mod x => x.word 0x0 0x08
  | .modu x => x.word 0x0 0x09
  | .and x => x.word 0x0 0x0A
  | .or x => x.word 0x0 0x0B
  | .xor x => x.word 0x0 0x0C
  | .andn x => x.word 0x0 0x0D
  | .shl x => x.word 0x0 0x0E
  | .shr x => x.word 0x0 0x0F
  | .sra x => x.word 0x0 0x10
  | .rol x => x.word 0x0 0x11
  | .min x => x.word 0x0 0x12
  | .max x => x.word 0x0 0x13
  | .minu x => x.word 0x0 0x14
  | .maxu x => x.word 0x0 0x15
  | .slt x => x.word 0x0 0x16
  | .sltu x => x.word 0x0 0x17
  | .seq x => x.word 0x0 0x18
  | .sel x => x.word 0x0 0x19
  | .madd x => x.word 0x0 0x1A
  | .addsh x => x.word 0x0 0x1B
  | .clz x => x.word 0x0 0x1C
  | .ctz x => x.word 0x0 0x1D
  | .popc x => x.word 0x0 0x1E
  | .brev x => x.word 0x0 0x1F
  | .sext x => x.word 0x0 0x20
  | .zext x => x.word 0x0 0x21
  | .bfx x => x.word 0x0 0x22
  | .bfi x => x.word 0x0 0x23
  | .movm x => x.word 0x0 0x24
  | .addi x => x.word 0x1 0x01
  | .muli x => x.word 0x1 0x02
  | .andi x => x.word 0x1 0x03
  | .ori x => x.word 0x1 0x04
  | .xori x => x.word 0x1 0x05
  | .shli x => x.word 0x1 0x06
  | .shri x => x.word 0x1 0x07
  | .srai x => x.word 0x1 0x08
  | .slti x => x.word 0x1 0x09
  | .sltiu x => x.word 0x1 0x0A
  | .seqi x => x.word 0x1 0x0B
  | .li x => x.word 0x1 0x0C
  | .lih x => x.word 0x1 0x0D
  | .lea x => x.word 0x1 0x0E
  | .ldb x => x.word 0x2 0x01
  | .ldbu x => x.word 0x2 0x02
  | .ldh x => x.word 0x2 0x03
  | .ldhu x => x.word 0x2 0x04
  | .ldw x => x.word 0x2 0x05
  | .ldwu x => x.word 0x2 0x06
  | .ldd x => x.word 0x2 0x07
  | .stb x => x.word 0x2 0x08
  | .sth x => x.word 0x2 0x09
  | .stw x => x.word 0x2 0x0A
  | .std x => x.word 0x2 0x0B
  | .ldm x => x.word 0x2 0x0C
  | .stm x => x.word 0x2 0x0D
  | .pref x => x.word 0x2 0x0E
  | .clean x => x.word 0x2 0x0F
  | .aadd x => x.word 0x3 0x01
  | .aand x => x.word 0x3 0x02
  | .aor x => x.word 0x3 0x03
  | .axor x => x.word 0x3 0x04
  | .amin x => x.word 0x3 0x05
  | .amax x => x.word 0x3 0x06
  | .aminu x => x.word 0x3 0x07
  | .amaxu x => x.word 0x3 0x08
  | .aswp x => x.word 0x3 0x09
  | .acas x => x.word 0x3 0x0A
  | .afadd x => x.word 0x3 0x0B
  | .fence x => x.word 0x3 0x0C
  | .phaseAcq x => x.word 0x3 0x0D
  | .phaseRel x => x.word 0x3 0x0D
  | .phaseAr x => x.word 0x3 0x0D
  | .publish x => x.word 0x3 0x0E
  | .beq x => x.word 0x4 0x01
  | .bne x => x.word 0x4 0x02
  | .blt x => x.word 0x4 0x03
  | .bge x => x.word 0x4 0x04
  | .bltu x => x.word 0x4 0x05
  | .bgeu x => x.word 0x4 0x06
  | .j x => x.word 0x4 0x07
  | .jal x => x.word 0x4 0x08
  | .jalr x => x.word 0x4 0x09
  | .loop x => x.word 0x4 0x0A
  | .progress x => x.word 0x4 0x0E
  | .srd x => x.word 0x5 0x01
  | .swr x => x.word 0x5 0x02
  | .tagwaitany x => x.word 0x5 0x03
  | .tagwaitall x => x.word 0x5 0x04
  | .tagff x => x.word 0x5 0x05
  | .tagclr x => x.word 0x5 0x06
  | .cbwait x => x.word 0x5 0x08
  | .bararv x => x.word 0x5 0x09
  | .barwait x => x.word 0x5 0x0A
  | .bar x => x.word 0x5 0x0B
  | .evsig x => x.word 0x5 0x0C
  | .evwait x => x.word 0x5 0x0D
  | .evrst x => x.word 0x5 0x0E
  | .evalloc x => x.word 0x5 0x0F
  | .launch x => x.word 0x5 0x10
  | .seed x => x.word 0x5 0x11
  | .stashdecl x => x.word 0x5 0x12
  | .carryx x => x.word 0x5 0x13
  | .carryi x => x.word 0x5 0x14
  | .trap x => x.word 0x6 0x01
  | .trapBrkpt x => x.word 0x6 0x01
  | .srdp x => x.word 0x6 0x03
  | .swrp x => x.word 0x6 0x04
  | .genbump x => x.word 0x6 0x05
  | .scrub x => x.word 0x6 0x06
  | .tmask x => x.word 0x6 0x07
  | .drainmk x => x.word 0x6 0x08
  | .ctxsave x => x.word 0x6 0x09
  | .ctxload x => x.word 0x6 0x0A
  | .relink x => x.word 0x6 0x0B
  | .lnkctlQuiesce x => x.word 0x6 0x0C
  | .lnkctlRemap x => x.word 0x6 0x0C
  | .lnkctlRetrain x => x.word 0x6 0x0C
  | .lnkctlResume x => x.word 0x6 0x0C
  | .lnkctlMargin x => x.word 0x6 0x0C
  | .lnkst x => x.word 0x6 0x0D
  | .dirq x => x.word 0x6 0x0E
  | .dirreclaim x => x.word 0x6 0x0F
  | .jrnlrd x => x.word 0x6 0x10
  | .tlbinv x => x.word 0x6 0x11
  | .tempostop x => x.word 0x6 0x12
  | .gambit x => x.word 0x6 0x13
  | .gambitStop x => x.word 0x6 0x13
  | .mbox x => x.word 0x6 0x14
  | .vadd x => x.word 0x8 0x01
  | .vsub x => x.word 0x8 0x02
  | .vmul x => x.word 0x8 0x03
  | .vfma x => x.word 0x8 0x04
  | .vfms x => x.word 0x8 0x05
  | .vfnma x => x.word 0x8 0x06
  | .vdiv x => x.word 0x8 0x07
  | .vsqrt x => x.word 0x8 0x08
  | .vrcp x => x.word 0x8 0x09
  | .vrsq x => x.word 0x8 0x0A
  | .vexp2 x => x.word 0x8 0x0B
  | .vlog2 x => x.word 0x8 0x0C
  | .vmin x => x.word 0x8 0x0D
  | .vmax x => x.word 0x8 0x0E
  | .vabs x => x.word 0x8 0x0F
  | .vneg x => x.word 0x8 0x10
  | .vclamp x => x.word 0x8 0x11
  | .vand x => x.word 0x8 0x12
  | .vor x => x.word 0x8 0x13
  | .vxor x => x.word 0x8 0x14
  | .vshl x => x.word 0x8 0x15
  | .vshr x => x.word 0x8 0x16
  | .vsra x => x.word 0x8 0x17
  | .vcmpeq x => x.word 0x8 0x18
  | .vcmplt x => x.word 0x8 0x19
  | .vcmple x => x.word 0x8 0x1A
  | .vsel x => x.word 0x8 0x1B
  | .vmov x => x.word 0x8 0x1C
  | .viota x => x.word 0x8 0x1D
  | .vrng x => x.word 0x8 0x1E
  | .vscale x => x.word 0x8 0x1F
  | .vcvt x => x.word 0x9 0x01
  | .vqmx x => x.word 0x9 0x02
  | .vdqmx x => x.word 0x9 0x03
  | .vpack x => x.word 0x9 0x04
  | .vunpack x => x.word 0x9 0x05
  | .vshuf x => x.word 0x9 0x06
  | .vbcast x => x.word 0x9 0x07
  | .vredadd x => x.word 0x9 0x08
  | .vredmax x => x.word 0x9 0x09
  | .vredmin x => x.word 0x9 0x0A
  | .vacc x => x.word 0x9 0x0B
  | .varst x => x.word 0x9 0x0C
  | .vaout x => x.word 0x9 0x0D
  | .vscan x => x.word 0x9 0x0E
  | .vtos x => x.word 0x9 0x0F
  | .vsteer x => x.word 0xA 0x01
  | .vmerge x => x.word 0xA 0x02
  | .pand x => x.word 0xA 0x03
  | .por x => x.word 0xA 0x04
  | .pnot x => x.word 0xA 0x05
  | .pgen x => x.word 0xA 0x06
  | .pfrom x => x.word 0xA 0x07
  | .pdrop x => x.word 0xA 0x08
  | .agbase x => x.word 0xB 0x01
  | .agloop x => x.word 0xB 0x02
  | .sloop x => x.word 0xB 0x0B
  | .agidx x => x.word 0xB 0x03
  | .srst x => x.word 0xB 0x09
  | .sld x => x.word 0xB 0x04
  | .sst x => x.word 0xB 0x05
  | .sgath x => x.word 0xB 0x06
  | .sscat x => x.word 0xB 0x07
  | .sfill x => x.word 0xB 0x0A
  | .sbar x => x.word 0xB 0x08
  | .btgive x => x.word 0xB 0x0C
  | .bttake x => x.word 0xB 0x0D
  | .tdset x => x.word 0xC 0x01
  | .tld x => x.word 0xC 0x02
  | .tlda x => x.word 0xC 0x03
  | .tst x => x.word 0xC 0x04
  | .tadd x => x.word 0xC 0x05
  | .tcpy x => x.word 0xC 0x06
  | .cpy x => x.word 0xC 0x07
  | .cpymm x => x.word 0xC 0x08
  | .coll x => x.word 0xC 0x09
  | .mma x => x.word 0xD 0x01
  | .mmaz x => x.word 0xD 0x02
  | .azero x => x.word 0xD 0x03
  | .adrain x => x.word 0xD 0x04
  | .arel x => x.word 0xD 0x05
  | .wld x => x.word 0xD 0x06
  | .wrel x => x.word 0xD 0x07
  | .cbld x => x.word 0xD 0x08
  | .amirror x => x.word 0xD 0x09
  | .aspill x => x.word 0xD 0x0A
  | .icfg x => x.word 0xE 0x01
  | .iset x => x.word 0xE 0x02
  | .iwire x => x.word 0xE 0x03
  | .iunwire x => x.word 0xE 0x04
  | .istep x => x.word 0xE 0x05
  | .isample x => x.word 0xE 0x06
  | .istream x => x.word 0xE 0x07
  | .iinject x => x.word 0xE 0x08
  | .iinjectPort x => x.word 0xE 0x08
  | .iflags x => x.word 0xE 0x09
  | .isave x => x.word 0xE 0x0A
  | .iload x => x.word 0xE 0x0B
  | .iloadImage x => x.word 0xE 0x0B
  | .routeLocal x => x.word 0xF 0x01
  | .routeRemote x => x.word 0xF 0x01
  | .routeRank x => x.word 0xF 0x01
  | .routeFile x => x.word 0xF 0x01
  | .routeHold x => x.word 0xF 0x01
  | .routeExpect x => x.word 0xF 0x01
  | .rtab x => x.word 0xF 0x02
  | .cfgblk x => x.word 0xF 0x03
  | .actrate x => x.word 0xF 0x04
  | .undefinedWord w => w
  | .halt => 0x40B0000000000000
  | .nop => 0x40C0000000000000
  | .yield => 0x40D0000000000000
  | .cbclose => 0x5070000000000000
  | .tret => 0x6020000000000000
  | .istreamOff => 0xE070000000000001
  | _ => 0

/-- The code of an instruction is eight bytes, the first byte its bits [7:0] (R115). -/
def wordBytes (w : BitVec 64) : List Byte := (List.range 8).map fun k => fieldAt (8 * k) 8 w

/-- The word that eight bytes make up, the first byte the lowest bits (R2, R115). -/
def bytesWord : List Byte → BitVec 64
  | [] => 0
  | b :: t => (bytesWord t <<< 8) ||| b.setWidth 64

/-- What the decoder reads from an instruction whose bits are `w`, bit 0 the lowest bit of its first byte: the words of
this hardware are 64 bits, stored little-endian (R115). -/
def decodeTableWord (nbits w : Nat) : Option Instr :=
  if 64 < nbits then none
  else match decodeWord (bytesWord (wordBytes (BitVec.ofNat 64 w))) with
    | .ok i => some i
    | .error _ => none

end Sys2Proof
end

