-- ==== Sys2Proof/Machine/State.lean ====
section
/-! DEFINITION. The state of the module, as plain data: everything the spec gives the machine, the model's own schedule
(`agenda`, `cur`, `evt`) and its counter of free values (`fresh`), and the state after reset. -/

namespace Sys2Proof.Machine

/-- Faults: the machine does not go on. -/
inductive Fault where
  /-- every clock is gated, or the module has powered off (R293, R395): only reset or power-on leads on. Raised by `step`.
  Safe: the spec gives the stopped module no further step. -/
  | clocksGated
  deriving DecidableEq, Repr

/-- Refusals: the model gives no meaning. -/
inductive Refusal where
  /-- an arm of `exec` that has no meaning yet, by its mnemonic. Raised by `exec` alone. Safe. -/
  | notModelled (mnemonic : String)
  deriving DecidableEq, Repr

/-! ### Values -/

/-- A tagged register: its value and its generation tag (R38, R39). -/
structure Reg where
  val : Word := 0
  tag : BitVec 16 := 0
  deriving DecidableEq, Repr, Inhabited

/-- A hardware loop level (R143). -/
structure LoopLevel where
  start : Word
  stop : Word
  cnt : Nat
  deriving DecidableEq, Repr, Inhabited

/-- How a trap is entered (R282): a fault, after its instruction, at a boundary; `stop` is an exhaustion (R162). -/
inductive Point where
  | fault | after | boundary
  deriving DecidableEq, Repr, Inhabited

/-- A cause with its unit and TVAL values (R280, R323). -/
structure Raise where
  cause : Cause
  unit : Nat := 0
  t0 : Word := 0
  t1 : Word := 0
  t2 : Word := 0
  t3 : Word := 0
  deriving DecidableEq, Repr, Inhabited

/-- What a strand's sequencer is doing. -/
inductive Run where
  /-- no strand on the plot, or the core is held in reset -/
  | idle
  /-- placed, not released (R289, R339) -/
  | held
  | running
  /-- stopped at a pre-emption point for a drain or a save (R331) -/
  | parked
  /-- stopped on exhaustion of a resource in mode TRAP (R162), or at a full log (R370) -/
  | exhausted
  /-- ended by HALT (R36) -/
  | ended
  /-- failed (R326) -/
  | failed
  /-- its context is in a save area (R332) -/
  | saved
  deriving DecidableEq, Repr, Inhabited

/-- A placed tract (R10, R303): acre, origin, shape, whether its strands were released, its graph phase (R22). -/
structure Tract where
  acre : Nat
  rank : Nat
  file : Nat
  nr : Nat
  nf : Nat
  released : Bool := false
  ranksUp : Nat := 0
  relAt : Word := 0
  phase : Nat := 0
  drain : Option Nat := none
  deriving DecidableEq, Repr, Inhabited

/-- A launch from acceptance to retirement (R298 to R300). -/
structure Launch where
  id : Nat
  record : Nat
  queue : Nat
  part : Nat
  rcb : Nat
  accepted : Word
  image : Nat
  args : Word
  inev : List (Nat × Nat)
  outev : List (Nat × Nat)
  prefs : List Nat
  podgrp : Nat
  ordinal : Nat
  warm : Bool := false
  mapping : Nat := 0
  tracts : List Tract := []
  placedAt : Option Word := none
  residue : Bool := false
  detconf : Bool := false
  lateexc : Bool := false
  fault : Bool := false
  cause : BitVec 7 := 0
  holdchild : Bool := false
  wdogAt : Word := 0
  wdogArmed : Bool := false
  wdogUs : Nat := 0
  wdogHeld : Option Word := none
  lost : Bool := false
  logNext : NMap Nat := []
  energyNj : Nat := 0
  /-- shapes of the full mapping's tracts (R334) -/
  full : List (Nat × Nat) := []
  /-- a drain or save has been asked for: the watchdog no longer restarts (R328) -/
  wdogStop : Bool := false
  /-- plots and stash that its placement charged (R296, R300) -/
  plotsHeld : Nat := 0
  stashHeld : Nat := 0
  /-- steps 1 to 3 of its retirement are done (R300) -/
  retiring : Bool := false
  /-- the whole launch has failed: no tract of it starts any more (R326, R327) -/
  stopAll : Bool := false
  deriving DecidableEq, Repr, Inhabited

/-- What the scheduler holds pending for a strand (R146, R329). -/
structure Request where
  save : Bool := false
  drain : Bool := false
  quota : Option Nat := none
  since : Word := 0
  escalated : Bool := false
  deriving DecidableEq, Repr, Inhabited

/-- The launch that a sequencer runs for, with the effective fields of its RCB (R43, R280, R295, R296). -/
structure Ctx where
  launch : Nat := 0
  tract : Nat := 0
  strandix : Nat := 0
  rcb : Nat := 0
  part : Nat := 0
  asid : Nat := 0
  ptroot : Nat := 0
  translate : Bool := false
  pbase : Nat := 0
  plimit : Nat := 0
  det : Bool := false
  record : Bool := false
  replay : Bool := false
  exhStatus : Bool := false
  fdom : Nat := 0
  podgrp : Nat := 0
  accs : Nat := 32
  deriving DecidableEq, Repr, Inhabited

/-- The barrier episode that a strand joined on an identifier and has not waited for (R34, R163). -/
structure Joined where
  episode : Nat
  scope : Nat
  done : Bool
  deriving DecidableEq, Repr, Inhabited

/-- The answer of a walk that found no translation, kept for the requester that missed (R311, R313). -/
structure WalkFault where
  unit : Nat
  vpn : Nat
  cause : Cause
  t1 : Word
  t2 : Word
  deriving DecidableEq, Repr, Inhabited

/-- An error reply of the fabric to an access of this agent (R316, R344, R363): the sector, and the cause it raises. -/
structure Reply where
  unit : Nat
  sector : Nat
  cause : Cause
  deriving DecidableEq, Repr, Inhabited

/-- A sequencer: of a plot, or of a hub control core (R38, R43, R278, R280). -/
structure Seq where
  run : Run := .idle
  regs : NMap Reg := []
  pc : Word := 0
  mode : Nat := 0
  pmode : Nat := 0
  inh : Bool := false
  gstrict : Bool := false
  fpflags : BitVec 5 := 0
  ten : BitVec 5 := 0
  rm : BitVec 2 := 0
  uscratch : NMap Word := []
  lenmis : Bool := false
  isat : Bool := false
  spilled : Bool := false
  phaseRel : BitVec 32 := 0
  phaseAcq : BitVec 32 := 0
  cycle : Word := 0
  /-- the tick that `cycle` dates from, and the tick of the last completed user instruction (R328) -/
  cycleAt : Word := 0
  lastDone : Word := 0
  tvec : Word := 0
  epc : Word := 0
  tcause : BitVec 12 := 0
  tval0 : Word := 0
  tval1 : Word := 0
  tval2 : Word := 0
  tval3 : Word := 0
  sscratch : Word := 0
  freeze : Bool := false
  holdchild : Bool := false
  sstep : Bool := false
  dbgen : Bool := false
  forensic : Bool := false
  timecmp : Word := 0
  waddr : Word := 0
  wctl : BitVec 2 := 0
  fwsel : BitVec 6 := 0
  uloops : List LoopLevel := []
  sloops : List LoopLevel := []
  /-- pending boundary exceptions, oldest first (R283); for a hub core, its queue of raises (R380) -/
  pend : List Raise := []
  /-- messages for the core in arrival order (R293) -/
  mail : List Raise := []
  ctx : Ctx := {}
  /-- where a hub core's code stands (R310); a plot's code is in its code store -/
  codeBase : Word := 0
  req : Request := {}
  joined : NMap Joined := []
  /-- the hidden arrived bit of a BAR whose arrival was made (R166) -/
  arrived : Bool := false
  /-- the release that the instruction being executed needed has been made -/
  released : Bool := false
  /-- the supervisor has granted the resource an exhausted instruction asked for (R162) -/
  granted : Bool := false
  /-- the place that a LAUNCH has reserved on a queue (R167) -/
  resv : Option Launch := none
  /-- the sequencer stands at its instruction in a stall -/
  stalled : Bool := false
  /-- the end of a stall that is timed or answered by a unit of the hub: the result, once it is there -/
  answer : Option Word := none
  /-- a system instruction of this core that is still at work -/
  busy : Bool := false
  faults : List WalkFault := []
  replies : List Reply := []
  /-- the tick of the last acquire boundary (R378) -/
  lastAcq : Word := 0
  /-- pairs of instruction and its own accesses still to be checked by WATCHPT -/
  watch : Bool := false
  deriving DecidableEq, Repr, Inhabited

/-! ### Memory -/

/-- Bytes of one face of memory with their lane check codes: the bytes listed are those that differ from what an unlisted
address reads as, in rising order; the codes listed are those of words whose code is not the word's residue (R95). -/
structure Mem where
  bytes : List Host.Cell := []
  codes : List (Nat × BitVec 4) := []
  deriving DecidableEq, Repr, Inhabited

/-- Physical memory as its homes hold it: ordinary contents and the first face of publishable frames, the second face
(R110), and the frames whose second face is the visible one, in rising order. -/
structure Phys where
  face0 : Mem := {}
  face1 : Mem := {}
  flipped : NMap Unit := []
  deriving DecidableEq, Repr, Inhabited

/-- A store of an agent's own view (R99): a word, which of its bytes were written, and whether it has been published. The
words of one unit are single-copy atomic: those of a scalar store, and those of a tile (R104, R109). -/
structure Store where
  id : Nat
  va : Word
  pa : Nat
  mask : BitVec 4
  data : BitVec 32
  code : BitVec 4
  podc : Bool := false
  /-- memory type 1: no line is allocated (R310) -/
  unc : Bool := false
  /-- translated by a leaf of 512 MiB (R309) -/
  big : Bool := false
  fenced : Bool := false
  published : Bool := false
  unit : Nat := 0
  /-- the stream command or engine operation that made it, and the operation's tag: a release covers it once that is complete
  (R108) -/
  src : Option Nat := none
  tag : Option Nat := none
  /-- the scope of the tile that it is part of (R109) -/
  scope : Option Nat := none
  deriving DecidableEq, Repr, Inhabited

/-- A publication in progress (R99): its scope (5 is system), the barrier episode it arrives at, if any, and the stores
that it covers (R108); `quiet` is one that no release boundary made, but an atomic or an addition (R106, R109). -/
structure Release where
  scope : Nat
  episode : Option Nat
  ids : List Nat := []
  quiet : Bool := false
  deriving DecidableEq, Repr, Inhabited

/-- An agent's view of memory (R98 to R102): its snapshot and its own stores in program order. -/
structure View where
  snap : Phys := {}
  stores : List Store := []
  nextId : Nat := 0
  rel : Option Release := none
  deriving DecidableEq, Repr, Inhabited

/-- A tile that was published as one unit (R90, R109): its words, the scope of the tile and of the release, who published it. -/
structure TileUnit where
  words : List Nat
  scope : Nat
  rel : Nat
  agent : Nat
  launch : Nat
  tract : Nat
  deriving DecidableEq, Repr, Inhabited

/-- A byte that a tract of a deterministic launch has published outside itself only (R114): what the tract still sees, and
the strands that wrote it in the episode with the addresses they used; `passed` once a later write that the tract does see (an
outsider's, an atomic's, an addition's) stands there. -/
structure DetByte where
  pa : Nat
  old : Byte
  oldCode : BitVec 4
  writers : List (Nat × Word)
  top : Nat
  passed : Bool := false
  deriving DecidableEq, Repr, Inhabited

/-- A byte that an arrival of a barrier episode has performed, and the highest STRANDIX that did (R113). -/
structure EpByte where
  pa : Nat
  top : Nat
  deriving DecidableEq, Repr, Inhabited

/-- A translation held by a TLB (R313): the entry as read, and whether it covers 512 MiB. -/
structure Tlb where
  asid : Nat
  vpn : Nat
  big : Bool
  pte : Word
  deriving DecidableEq, Repr, Inhabited

/-- A requester of a walk (R313): agent, unit, the kind of its access (0 read, 1 write, 2 fetch) and whether it is a user's. -/
structure MissReq where
  agent : Nat
  unit : Nat
  kind : Nat
  user : Bool
  deriving DecidableEq, Repr, Inhabited

/-- A miss waiting for a walker, with all that wait for its page (R313). -/
structure Miss where
  acre : Nat
  asid : Nat
  vpn : Nat
  reqs : List MissReq
  root : Nat
  pbase : Nat
  plimit : Nat
  deriving DecidableEq, Repr, Inhabited

/-- A sector of a WINDOW range that stands in its owner's stash (R84). -/
structure WinSector where
  pa : Nat
  va : Nat
  words : List CW
  dirty : Bool
  ctxIx : Nat
  deriving DecidableEq, Repr, Inhabited

/-- A WINDOW range (R84): its owner, stash base and size, virtual base, size factor and address space; its sectors by
place in the region. -/
structure Window where
  owner : Nat
  base : Nat
  size : Nat
  vbase : Nat
  j : Nat
  asid : Nat
  sectors : NMap WinSector := []
  deriving DecidableEq, Repr, Inhabited

/-- A touch of a WINDOW sector that waits to be filled (R84), and the context that asked for it (R320). -/
structure WinMiss where
  owner : Nat
  vbase : Nat
  offset : Nat
  pa : Nat
  ctx : Nat := 0
  deriving DecidableEq, Repr, Inhabited

/-- A format window (R86). -/
structure FmtWin where
  base : Nat := 0
  size : Nat := 0
  scale : Nat := 0
  fmt : Nat := 0
  enable : Bool := false
  deriving DecidableEq, Repr, Inhabited

/-- A sector held by the last-level cache (R80, R320): whether it is dirty, the launch that last wrote it, and the scale words
framed in its sideband (R86). -/
structure CacheSector where
  dirty : Bool
  ctx : Nat
  scales : List CW := []
  deriving DecidableEq, Repr, Inhabited

/-- A flip scheduled by PUBLISH or a collective (R111): the frames, the tick, whose tag it completes. -/
structure Flip where
  frames : List Nat
  tick : Word
  agent : Nat
  cid : Option Nat
  deriving DecidableEq, Repr, Inhabited

/-! ### The datapath of a plot -/

/-- A data beat (R19): 64 words with their codes, route identifier, sequence number, error tag. -/
structure Beat where
  ws : List CW
  rid : BitVec 12 := 0
  seq : BitVec 16 := 0
  err : Bool := false
  deriving DecidableEq, Repr, Inhabited

/-- What stands in a port (R19, R331, R349). -/
inductive TokKind where
  | data (b : Beat)
  | bit (v tagged : Bool)
  | fin
  deriving DecidableEq, Repr, Inhabited

/-- A token with the actor that made it (which decides the wiring it leaves by, R21) and the feeder that brought it (R22):
0 to 3 a generator, 4 + n the sink n, 100 + plot a remote sink. -/
structure Tok where
  k : TokKind
  by_ : Nat := 0
  feeder : Nat := 0
  deriving DecidableEq, Repr, Inhabited

/-- A 64-byte granule of stash with its generation tag (R82, R39): its words that are not zero with code 0. -/
structure Granule where
  tag : BitVec 16 := 0
  ws : NMap CW := []
  deriving DecidableEq, Repr, Inhabited

/-- A vector accumulator (R38): its words, its tag, its error tag (R349). -/
structure VAcc where
  ws : NMap CW := []
  tag : BitVec 16 := 0
  err : Bool := false
  deriving DecidableEq, Repr, Inhabited

/-- The state of an accumulator's name (R46), its type (R228) and where it stands (R47). -/
inductive AccState where
  | unwritten | live | released
  deriving DecidableEq, Repr, Inhabited

inductive AccPlace where
  | nowhere
  | slot
  | spill (place : Nat)
  deriving DecidableEq, Repr, Inhabited

/-- An element of an accumulator with its poison mark (R228). -/
structure AEl where
  v : BitVec 32 := 0
  bad : Bool := false
  deriving DecidableEq, Repr, Inhabited

/-- A matrix accumulator: its name as the sequencer sees it at issue, and its elements as the matrix unit has them. -/
structure Acc where
  st : AccState := .unwritten
  tag : BitVec 16 := 0
  isInt : Bool := false
  place : AccPlace := .nowhere
  used : Nat := 0
  els : NMap AEl := []
  deriving DecidableEq, Repr, Inhabited

/-- A weight slot (R230): its state at issue, and the payload and scales that the unit fetches from. -/
structure WSlot where
  st : Nat := 0
  tag : BitVec 16 := 0
  fmt : Nat := 0
  kw : Nat := 0
  wfmt : Option Nat := none
  keep : Bool := false
  ws : NMap CW := []
  scales : NMap (BitVec 8) := []
  scaleBad : NMap (BitVec 4) := []
  /-- where the image that fills it stands -/
  src : Word := 0
  deriving DecidableEq, Repr, Inhabited

/-- An integrator (R245). -/
structure Integ where
  y : Int := 0
  res : Int := 0
  dz : Int := 0
  cfg : Word := 0
  iovf : Bool := false
  ysat : Bool := false
  tag : BitVec 16 := 0
  deriving DecidableEq, Repr, Inhabited

/-- The bank's stream setting and stop (R251, R257). -/
structure Bank where
  son : Bool := false
  sfmt : Nat := 0
  sport : Nat := 0
  smask : Word := 0
  sk : Nat := 0
  stopped : Bool := false
  deriving DecidableEq, Repr, Inhabited

/-- An address generator (R172). -/
structure AgGen where
  base : Word := 0
  n : NMap Nat := []
  step : NMap Word := []
  lim : Nat := 0
  shift : Nat := 0
  limen : Bool := false
  act : BitVec 4 := 0
  sq : BitVec 16 := 0
  deriving DecidableEq, Repr, Inhabited

/-- A tile descriptor (R88). -/
structure TileDesc where
  w0 : Word := 0
  w1 : Word := 0
  deriving DecidableEq, Repr, Inhabited

/-- A route (R182, R183): kind, destination port, absolute coordinate, identifier; 4 is unrouted. -/
structure Route where
  kind : Nat := 4
  port : Nat := 0
  coord : Nat := 0
  rid : BitVec 12 := 0
  deriving DecidableEq, Repr, Inhabited

/-- An unretired actor or marker of a plot's units, in issue order (R12, R227, R252, R335 section 11): the instruction, its
code offset, the scalars read at issue, the firings left (none counts to end tokens), the firings done, and what its unit
keeps for it. -/
structure Actor where
  id : Nat
  instr : Instr
  pc : Word := 0
  /-- scalar operands read at issue, in the order A, B, C, count -/
  sv : List Word := []
  rm : BitVec 2 := 0
  left : Option Nat := none
  fired : Nat := 0
  /-- generator state copied at issue (R172) -/
  ag : AgGen := {}
  tag : Option Nat := none
  /-- beats of a group taken so far (R237), or the words of a scan's state (R50) -/
  beats : List Beat := []
  h : NMap CW := []
  started : Bool := false
  /-- VSCAN found RST set (R222); MMA poisons; ISTEP steps per firing -/
  aux : Nat := 0
  flags : BitVec 5 := 0
  /-- first lane of a gather or scatter to perform (R324) -/
  lane : Nat := 0
  parked : Bool := false
  /-- an input has presented data beside an end token (R15) -/
  mis : Bool := false
  /-- the marker's or drain's payload: rows of CBLD, masks -/
  ws : List (BitVec 32) := []
  /-- the two results of a mirrored step differed when it was recomputed too (R242) -/
  faulty : Bool := false
  deriving DecidableEq, Repr, Inhabited

/-- An operation of the copy engine that has not completed (R187): its tag or batch, the translations made at issue, how
many of its words are done, and the flags its additions raised. -/
structure EngOp where
  id : Nat
  instr : Instr
  pc : Word := 0
  sv : List Word := []
  td : TileDesc := {}
  td2 : TileDesc := {}
  tag : Option Nat := none
  bytes : Nat := 0
  pages : List Tlb := []
  pos : Nat := 0
  /-- CPYMM: the id of its follow-on MMA (R193) -/
  mma : Option Nat := none
  beats : List Beat := []
  landed : Bool := false
  /-- the lost words among the beats came from another module (R344) -/
  far : Bool := false
  deriving DecidableEq, Repr, Inhabited

/-- A fault record of an address generator (R324); `live` while its generator is stopped. -/
structure AgRec where
  live : Bool := false
  cause : BitVec 7 := 0
  walk : BitVec 4 := 0
  lane : BitVec 6 := 0
  streamid : BitVec 32 := 0
  addr : Word := 0
  i : NMap (BitVec 32) := []
  seqf : BitVec 16 := 0
  seq0 : BitVec 16 := 0
  cmd : BitVec 5 := 0
  pte : Word := 0
  tagp : BitVec 12 := 0
  gstate : AgGen := {}
  deriving DecidableEq, Repr, Inhabited

/-- A declared stash region (R83): kind 0 KEEP, 1 DISCARD, 2 WINDOW, 3 spill. -/
structure Region where
  kind : Nat
  base : Nat
  size : Nat
  deriving DecidableEq, Repr, Inhabited

/-- A bank token (R31): held by the plot, given and still to be sent to a plot, or away. -/
inductive BankTok where
  | held
  | giving (dest : Nat) (since : Nat)
  | away
  deriving DecidableEq, Repr, Inhabited

/-- ACTRATE: at most `k` firings in any `m` cycles; 0 is no limit (R185). `log` holds the cycles of recent firings. -/
structure Rate where
  k : Nat := 0
  m : Nat := 1
  log : List Word := []
  deriving DecidableEq, Repr, Inhabited

/-- A plot (R8): its generation, stash, code store and datapath. Ports are numbered 0 to 15 for vi, 16 to 31 for vo, 32 to
39 for pq. -/
structure Plot where
  gen : BitVec 16 := 0
  stash : NMap Granule := []
  code : NMap Word := []
  codeLen : Nat := 0
  codeBad : List Nat := []
  ports : NMap (List Tok) := []
  feeders : NMap Nat := []
  expected : NMap (BitVec 12) := []
  routes : NMap (List (Nat × Route)) := []
  rtab : NMap Route := []
  va : NMap VAcc := []
  accs : NMap Acc := []
  /-- what released accumulators hold until their freeing marker (R47): the instruction's number, and 0 for a slot or 1 and a
  place of the spill region -/
  dying : List (Nat × Nat) := []
  /-- spills and refills to be performed ahead of a matrix operation: the operation, the accumulator (R47) -/
  spills : List (Nat × Nat) := []
  wslots : NMap WSlot := []
  cbRows : NMap (BitVec 24) := []
  cbTag : Option (BitVec 16) := none
  ints : NMap Integ := []
  bank : Bank := {}
  ags : NMap AgGen := []
  recs : NMap AgRec := []
  /-- the replay window of each generator: sequence number, addresses, space of its last 64 beats (R347) -/
  replay : NMap (List (BitVec 16 × List Word × Bool)) := []
  tds : NMap TileDesc := []
  carry : NMap Reg := []
  tagPend : NMap Nat := []
  tagReady : Word := 0
  openBatch : Option (List Nat) := none
  batches : List (List Nat) := []
  actors : List Actor := []
  ops : List EngOp := []
  nextId : Nat := 1
  vlast : Nat := 0
  /-- the tick of the last firing, beat or landing (R328) -/
  lastAct : Word := 0
  banks : NMap BankTok := []
  regions : List Region := []
  spillUsed : List Nat := []
  rates : NMap Rate := []
  mirror : Bool := true
  rowmask : BitVec 128 := BitVec.allOnes 128
  colmask : BitVec 128 := BitVec.allOnes 128
  utlb : List Tlb := []
  /-- the rank's matrix units have started (R393) -/
  started : Bool := true
  /-- the plot is fallow (R288), or engaged by a system instruction (R279) -/
  fallow : Bool := false
  engaged : Bool := false
  /-- the contexts of a folded plot that are not resident (R334), by their keys in the areas -/
  folded : List Nat := []
  deriving DecidableEq, Repr, Inhabited

/-- A context that is not on a plot (R331 to R336): its sequencer and its plot as the save found them, the plot that it left or
belongs to, the tick of the save; `out` is one that has been loaded again, while the area's bytes stand. -/
structure Area where
  seq : Seq := {}
  plot : Plot := {}
  wins : List Window := []
  home : Nat := 0
  at_ : Word := 0
  out : Bool := false
  deriving DecidableEq, Repr, Inhabited

/-! ### The module -/

/-- An acre (R8, R313, R321, R390 to R395). -/
structure Acre where
  powered : Bool := false
  usable : Bool := false
  point : Nat := 10
  energy : Nat := 0
  lastSampleAt : Word := 0
  tlb : List Tlb := []
  /-- microjoules since the last sample (R321) -/
  meter : Nat := 0
  /-- the place on each bus of the plot that had its last turn (R24): rank buses 0 to 15, file buses 16 to 23 -/
  turns : NMap Nat := []
  deriving DecidableEq, Repr, Inhabited

/-- A token in flight on the buses of an acre (R23): from, to, the port, the route identifier. -/
structure Flight where
  src : Nat
  sink : Nat
  dst : Nat
  port : Nat
  rid : BitVec 12
  tok : Tok
  /-- a bank token in place of a data token (R32): the bank, and the WINDOW ranges that pass with it -/
  bank : Option Nat := none
  wins : List Window := []
  deriving DecidableEq, Repr, Inhabited

/-- A barrier episode (R33, R34): scope, launch (or pod group), tract, identifier, who has joined. -/
structure Episode where
  ord : Nat
  scope : Nat
  launch : Nat
  tract : Nat
  group : Nat
  acre : Nat
  id : Nat
  joined : List Nat
  /-- the queue of the launch that opened it, whose path its slot is charged to (R308) -/
  queue : Nat := 0
  deriving DecidableEq, Repr, Inhabited

/-- A waiter on an event slot (R164). -/
structure Waiter where
  agent : Nat
  target : Nat
  released : Bool
  deriving DecidableEq, Repr, Inhabited

/-- A slot of the event table (R307). -/
structure EvSlot where
  name : Nat
  count : Nat
  part : Nat
  launch : Option Nat
  waiters : List Waiter := []
  deriving DecidableEq, Repr, Inhabited

/-- A headland tract of a queue (R305). -/
structure Headland where
  queue : Nat
  tract : Tract
  busy : Option Nat
  /-- the image whose code stands there, and the mapping of it -/
  image : Nat := 0
  mapping : Nat := 0
  deriving DecidableEq, Repr, Inhabited

/-- A link (R291, R360, R367): state 0 ACTIVE, 1 QUIESCED, 2 TRAINED, 3 DOWN; which logical lanes would not train (the
lanes' physical state); logical lanes served by spares. -/
structure Link where
  st : Nat := 3
  width : Nat := 0
  retries : Nat := 0
  winAt : Word := 0
  errMap : Word := 0
  replay : Nat := 0
  spares : NMap Nat := []
  badLanes : Word := 0
  reduce : Bool := false
  quiesceAt : Option Word := none
  fecFails : Nat := 0
  version : Nat := 0
  kept : List Flit := []
  flitFails : Nat := 0
  /-- flits sent, as the link's sequence numbers count them -/
  sent : BitVec 16 := 0
  raised : Bool := false
  /-- cores whose LNKCTL waits at the controller, in arrival order -/
  waiting : List Nat := []
  deriving DecidableEq, Repr, Inhabited

/-- A directory entry of a pod sector (R292, R362): state 0 I, 1 S, 2 E, 3 M, 4 OL. -/
structure DirEntry where
  st : Nat := 0
  poison : Bool := false
  owner : Nat := 0
  sharers : List Nat := []
  ord : Nat := 0
  deriving DecidableEq, Repr, Inhabited

/-- A request waiting at the directory (R362): 0 RDS, 1 RDX, 2 WRH, 3 EVICT, 4 a read that fills no cache, 5 an atomic, 6 a
dirty notice, 7 additions of a tile (R190), 8 a write to the hidden face (R110), 9 the directory's own recall; who asked, for which access, and what it
writes. -/
structure DirReq where
  id : Nat
  kind : Nat
  sector : Nat
  modl : Nat
  agent : Nat
  unit : Nat
  words : List CW := []
  mask : List Bool := []
  snooped : Option Word := none
  deriving DecidableEq, Repr, Inhabited

/-- A pod sector in this module's caches (R362): 1 S, 2 E, 3 M; 0 is the reply to a read that fills no cache. -/
structure PodLine where
  st : Nat
  words : List CW
  deriving DecidableEq, Repr, Inhabited

/-- A pod range (R361). -/
structure PodRange where
  w0 : Word := 0
  w1 : Word := 0
  deriving DecidableEq, Repr, Inhabited

/-- The journal's counters and the reports that wait for its engine (R351, R352). -/
structure Report where
  tempo : Word
  unit : BitVec 16
  kind : BitVec 8
  sev : BitVec 8
  cause : BitVec 32
  addr : Word
  syn0 : Word
  syn1 : Word
  launch : BitVec 32
  deriving DecidableEq, Repr, Inhabited

structure Journal where
  w : Nat := 0
  b : Nat := 0
  dropped : Nat := 0
  queue : List Report := []
  deriving DecidableEq, Repr, Inhabited

/-- What a reducing unit holds of one element of a collective (R364): the exact sum in units of 2^−149 (of an I32 or a copied
element the number itself), the special addends seen, and under TREE the addends by participant. -/
structure CollSum where
  sum : Int := 0
  pinf : Bool := false
  ninf : Bool := false
  nan : Bool := false
  bad : Bool := false
  leaves : NMap (BitVec 32) := []
  deriving DecidableEq, Repr, Inhabited

/-- A participant of a collective: its agent (0x10000 + m for one on module m of the pod), its operation, its index. -/
structure CollPart where
  agent : Nat
  op : Nat
  index : Nat
  sent : Bool := false
  received : Bool := false
  held : Bool := false
  /-- words that have come: of a remote participant's contribution, or of a result made elsewhere -/
  got : Nat := 0
  /-- places whose words a reducing unit has asked for once more (R343) -/
  asked : List Nat := []
  frames : List Nat := []
  pod : Bool := false
  deriving DecidableEq, Repr, Inhabited

/-- A collective that this module takes part in (R194 to R197, R364, R365): the block's fields, its participants, who has
contributed, who holds the time-out, since when it runs and how many ticks it has run. -/
structure Coll where
  cid : Nat
  op : Nat
  mode : Nat
  sfmt : Nat
  dfmt : Nat
  n : Nat
  root : Nat
  local_ : Bool
  nelem : Nat
  /-- the time-out in µs; 0 once the collective has failed -/
  tmo : Nat
  parts : List CollPart := []
  sums : NMap CollSum := []
  contributed : List Nat := []
  holds : List Nat := []
  startAt : Option Word := none
  used : Nat := 0
  /-- every result has landed, and the flips are scheduled -/
  done : Bool := false
  deriving DecidableEq, Repr, Inhabited

/-- A Gyord session (R357): its partition, whether it is the root's, its waits (event name, value, cookie). -/
structure Session where
  part : Nat
  isRoot : Bool
  waits : List (Nat × Nat × BitVec 64) := []
  deriving DecidableEq, Repr, Inhabited

/-- A reply that leaves by an Ethernet port (R357). -/
structure GyordReply where
  session : Nat
  kind : BitVec 8
  status : BitVec 16
  cookie : BitVec 64
  body : List (BitVec 32)
  deriving DecidableEq, Repr, Inhabited

/-- A gambit trial (R375, R376). -/
structure Trial where
  id : Nat
  core : Nat
  launch : Nat
  lo : Nat
  hi : Nat
  pct : Nat
  win : Nat
  codeLo : Nat
  codeHi : Nat
  winUs : Nat
  pp : List Nat
  result : Nat
  exper : Bool := false
  window : Nat := 0
  winAt : Word := 0
  baseTicks : Nat := 0
  expTicks : Nat := 0
  baseCnt : NMap Nat := []
  expCnt : NMap Nat := []
  inside : Nat := 0
  /-- fraction accumulators of the selected strands, in hundredths -/
  frac : NMap Nat := []
  deriving DecidableEq, Repr, Inhabited

/-- A drain in progress (R288, R331). -/
structure Drain where
  id : Nat
  core : Nat
  origin : Nat
  launch : Nat
  tract : Nat
  foldfail : Bool
  plots : List Nat
  deriving DecidableEq, Repr, Inhabited

/-- What a home slice remembers of the release that last published into a sector (R378). -/
structure SectorTag where
  agent : Nat
  scope : Nat
  at_ : Word
  launch : Nat
  tract : Nat
  deriving DecidableEq, Repr, Inhabited

/-- A fatal-error dump (R355): where it stands, its tempo and cause, and what its sections hold: contexts of the plots, the
hub cores' registers, the directory entries in states E, M and OL, the link status words. -/
structure Dump where
  pa : Nat
  tempo : Word
  cause : Word
  index : Nat
  plots : NMap Area
  hubs : NMap Seq
  dir : NMap DirEntry
  links : NMap Word
  deriving DecidableEq, Repr, Inhabited

/-- Bring-up and power (R390 to R396): the stage reached, the acres tried, the groups of links and memories trained; whether a
signed flash image waits for the next power-on. -/
structure Power where
  stage : Nat := 0
  acresUp : Nat := 0
  ready : Bool := false
  recovery : Bool := false
  gated : Bool := false
  off : Bool := false
  stopAt : Option Word := none
  warned : Bool := false
  digest : List Word := []
  cap : Nat := 4200
  lastAcreAt : Option Word := none
  flashPending : Bool := false
  absent2 : List Nat := []
  entropyReady : Bool := false
  trained : Nat := 0
  /-- Knabry and Ethernet links that failed to train, told once the module is ready (R392) -/
  portsDown : List Nat := []
  /-- the stop tick that a TEMPOSTOP with POD has told the other modules of the pod (R293) -/
  podStop : Option Word := none
  deriving DecidableEq, Repr, Inhabited

/-- The fabric: links, pod and collectives (R356 to R367, R397). -/
structure Fabric where
  links : NMap Link := []
  retryCfg : Word := 0
  podIndex : Nat := 0
  podRanges : NMap PodRange := []
  snptmo : Nat := 50
  dir : NMap DirEntry := []
  dirOrd : Nat := 0
  dirQ : List DirReq := []
  nextReq : Nat := 1
  lines : NMap PodLine := []
  out : List Flit := []
  granted : List (Nat × Nat × Nat) := []
  /-- agents that still have to learn that this module lost a sector (R363) -/
  lostTo : List (Nat × Nat) := []
  /-- modules that lost a sector homed here, and have not been reachable since -/
  ownersLost : List (Nat × Nat) := []
  collPath : Word := 1
  colls : NMap Coll := []
  expired : List Nat := []
  credits : NMap Nat := []
  deriving DecidableEq, Repr, Inhabited

/-- The launches and the tables of hub 0 (R294 to R308). -/
structure Sched where
  launches : NMap Launch := []
  nextLaunch : Nat := 1
  lastStarted : NMap Nat := []
  headlands : List Headland := []
  events : NMap EvSlot := []
  episodes : List Episode := []
  nextEp : Nat := 1
  drains : List Drain := []
  nextDrain : Nat := 1
  ordinals : NMap Nat := []
  lastAging : Word := 0
  /-- entries taken from each location stream of a log (R371), by the log's node, kind and key -/
  logHeads : NMap Nat := []
  /-- the length of its log at which RECFULL was last raised for a launch, by its RCB (R370) -/
  logFull : NMap Nat := []
  contexts : NMap Nat := []
  /-- the record of every launch by its LAUNCHID, with its partition (R358) -/
  records : NMap (Nat × Nat) := []
  /-- the region control blocks that the scheduler has met, whose RO fields are its own (R4, R294, R295), each with the tick of its
  last quota-period boundary (R322) -/
  nodes : NMap Word := []
  deriving DecidableEq, Repr, Inhabited

/-- Observation: journal, seed log, trials, scope checker (R351 to R355, R373 to R379). -/
structure Observe where
  journal : Journal := {}
  seedW : Nat := 0
  seedB : Nat := 0
  trials : List Trial := []
  nextTrial : Nat := 1
  scopeCtl : NMap Word := []
  sectorTags : NMap SectorTag := []
  ringBase : Word := 0
  ringSize : Word := 0
  ringPos : Nat := 0
  ringOver : Word := 0
  dumps : List Dump := []
  seeds : Nat := 0
  /-- what the management port answered last -/
  readOut : List Word := []
  deriving DecidableEq, Repr, Inhabited

/-- The host port (R356 to R359). -/
structure HostPort where
  sessions : NMap Session := []
  replies : List GyordReply := []
  /-- words read from and written to host memory by the module's RDMA, oldest last -/
  rdmaOut : List (Nat × Nat × List (BitVec 32)) := []
  deriving DecidableEq, Repr, Inhabited

/-- One move of the schedule: an agent's sequencer runs, an event happens, ticks pass, the hardware fails at a place (R95,
R350), or the cache evicts a sector (R80, R97). -/
inductive Move where
  | run (agent : Nat)
  | event (i : Instr) (x : EvArgs)
  | elapse (ticks : Nat)
  | upset (x : EvArgs)
  | evict (sector : Nat)
  deriving DecidableEq, Repr

/-- The state of the module. An agent is numbered by its plot's coordinate (R8), a hub core c by 0x1000 + c (R293). -/
structure State where
  /-- the agent whose instruction is being executed -/
  cur : Nat
  /-- the model's own: which moves come next, and the record of the event in hand -/
  agenda : List Move
  evt : EvArgs
  /-- the model's own: how many free values have been taken -/
  fresh : Nat
  tempo : Word
  seqs : NMap Seq
  views : NMap View
  plots : NMap Plot
  acres : NMap Acre
  phys : Phys
  misses : List Miss
  windows : List Window
  winMisses : List WinMiss
  fwins : NMap FmtWin
  cache : NMap CacheSector
  /-- sectors of memory whose sideband has the poison bit set (R80, R97) -/
  poisoned : NMap Unit
  /-- the tiles that were published as one unit (R90, R109) -/
  tiles : List TileUnit
  flips : List Flip
  flight : List Flight
  det : NMap (List DetByte)
  epBytes : NMap (List EpByte)
  /-- contexts in save areas by the area's physical address; folded ones by 2^60 and their strand -/
  areas : NMap Area
  sched : Sched
  fabric : Fabric
  obs : Observe
  host : HostPort
  power : Power
  /-- registers of hub space that have no behaviour of their own (R78) -/
  hubRegs : NMap Word
  deriving DecidableEq, Repr

/-- A hub control core runs in supervisor mode (R278), with TVEC 0 and an empty code base; core 0 is out of reset and the
others are held (R390). -/
def hubReset (c : Nat) : Seq := { mode := 1, run := if c = 0 then .running else .held }

/-- The state after power-on reset (R390): the tempo 0, every plot of an acre that has no power scrubbed with GEN 0, links
untrained, memory with nothing listed. -/
def State.reset : State :=
  { cur := 0x1000, agenda := [], evt := {}, fresh := 0, tempo := 0,
    seqs := (List.range 32).map fun c => (0x1000 + c, hubReset c),
    views := [], plots := [], acres := [], phys := {}, misses := [], windows := [], winMisses := [], fwins := [], cache := [], poisoned := [], tiles := [], flips := [],
    flight := [], det := [], epBytes := [], areas := [], sched := {}, fabric := {}, obs := {}, host := {}, power := {}, hubRegs := [] }

end Sys2Proof.Machine
end

