-- ==== Sys2Proof/Machine/Ops.lean ====
section
/-! DEFINITION. The named operations that every meaning is built from: bit fields, lane check codes, memory by word, agents
and their registers, raising and taking an exception, returning from one, completing an instruction. -/

namespace Sys2Proof.Machine

/-! ### Bit fields and lane check codes -/

/-- Bits [lo + n - 1 : lo] as a number. -/
def bits {k : Nat} (v : BitVec k) (lo n : Nat) : Nat := v.toNat / 2 ^ lo % 2 ^ n

/-- A number as a register value. -/
def w64 (n : Nat) : Word := BitVec.ofNat 64 n

/-- A 32-bit immediate or offset, sign-extended. -/
def sx (v : BitVec 32) : Word := v.signExtend 64

/-- The lane check code of data: its value modulo 15 (R95). -/
def lcc (v : BitVec 32) : BitVec 4 := BitVec.ofNat 4 (v.toNat % 15)

/-- A word whose code its producer makes (R340). -/
def CW.mk' (v : BitVec 32) : CW := ⟨v, lcc v⟩

/-- A word marked as lost (R95, R97). -/
def CW.poison (v : BitVec 32) : CW := ⟨v, 15⟩

/-- What a consumer finds on checking a word (R96, R97): nothing wrong, poison, or a failed code. -/
def CW.check (w : CW) : Option Cause :=
  if w.c = 15 then some .poison else if w.c = lcc w.v then none else some .lccmis

/-- The bytes of a word, lowest address first (R2). -/
def byteOf (v : BitVec 32) (k : Nat) : Byte := v.extractLsb' (8 * k) 8

def wordOf (b0 b1 b2 b3 : Byte) : BitVec 32 := b3 ++ b2 ++ b1 ++ b0

/-- Byte k of the word comes from `new` where the mask has bit k. -/
def mergeBytes (old new : BitVec 32) (mask : BitVec 4) : BitVec 32 :=
  let f (k : Nat) : Byte := if mask.getLsbD k then byteOf new k else byteOf old k
  wordOf (f 0) (f 1) (f 2) (f 3)

/-- The code that the merge unit derives from the old one (R341): it never reads the new word. -/
def derivedCode (old new : BitVec 32) (c : BitVec 4) (mask : BitVec 4) : BitVec 4 :=
  let d (k : Nat) : Int :=
    if mask.getLsbD k then ((byteOf new k).toNat : Int) - ((byteOf old k).toNat : Int) else 0
  BitVec.ofNat 4 (((c.toNat : Int) + d 0 + d 1 + d 2 + d 3) % 15).toNat

/-- A store into a word (R97, R341): a full word replaces word and code; a part derives the code. The flag tells that the
old word was poisoned or failed, and the result then has code 15. A part that is lost makes its word lost. -/
def mergeWord (old : CW) (new : BitVec 32) (code : BitVec 4) (mask : BitVec 4) : CW × Bool :=
  if mask = 15 then (⟨new, code⟩, false)
  else if code = 15 then (⟨mergeBytes old.v new mask, 15⟩, false)
  else if old.c = 15 ∨ old.c ≠ lcc old.v then (⟨mergeBytes old.v new mask, 15⟩, true)
  else (⟨mergeBytes old.v new mask, derivedCode old.v new old.c mask⟩, false)

/-! ### Memory by byte and by word -/

/-- What an address that is not listed reads as: on the second face of publishable frames an unspecified byte (R110). -/
def Mem.blank (alt : Bool) (a : Nat) : Byte := if alt then Config.altByte a else Config.blankByte

def Mem.byte (alt : Bool) (m : Mem) (a : Nat) : Byte := (NMap.find m.bytes a).getD (Mem.blank alt a)

/-- One byte written, in canonical form: the blank byte is not listed (on the second face, whose blank is not known, every
written byte is). -/
def putCell (alt : Bool) (l : List Host.Cell) (a : Nat) (b : Byte) : List Host.Cell :=
  if !alt && b = Config.blankByte then NMap.del l a else NMap.set l a b

/-- The value of word k: bytes 4k to 4k + 3. -/
def Mem.value (alt : Bool) (m : Mem) (k : Nat) : BitVec 32 :=
  wordOf (m.byte alt (4 * k)) (m.byte alt (4 * k + 1)) (m.byte alt (4 * k + 2)) (m.byte alt (4 * k + 3))

/-- The word that holds the byte at an address, with its code. -/
def Mem.word (alt : Bool) (m : Mem) (a : Nat) : CW :=
  let v := m.value alt (a / 4)
  ⟨v, (NMap.find m.codes (a / 4)).getD (lcc v)⟩

/-- The word that holds the byte at an address is written with its code; a code that is the word's residue is not listed. -/
def Mem.put (alt : Bool) (m : Mem) (a : Nat) (w : CW) : Mem :=
  let k := a / 4
  { bytes := putCell alt (putCell alt (putCell alt (putCell alt m.bytes (4 * k) (byteOf w.v 0)) (4 * k + 1) (byteOf w.v 1))
      (4 * k + 2) (byteOf w.v 2)) (4 * k + 3) (byteOf w.v 3),
    codes := if w.c = lcc w.v then NMap.del m.codes k else NMap.set m.codes k w.c }

/-- Keys strictly rising. -/
def rising {α : Type} : List (Nat × α) → Bool
  | [] => true
  | [_] => true
  | (a, _) :: (b, v) :: l => a < b && rising ((b, v) :: l)

/-- The canonical form of a face: addresses strictly rising, none listed with the blank byte (the second face, whose blank is
not known, lists every byte written), no code listed that is its word's residue. -/
def Mem.wf (alt : Bool) (m : Mem) : Bool :=
  rising m.bytes && (alt || m.bytes.all fun c => c.2 != Config.blankByte) && rising m.codes &&
  m.codes.all fun c => c.2 != lcc (m.value alt c.1)

/-- The canonical form of physical memory: equal contents are equal data. -/
def Phys.wf (p : Phys) : Bool := p.face0.wf false && p.face1.wf true && rising p.flipped

/-- Which stored copy a face is: a flip exchanges the roles (R110). -/
def Phys.second (p : Phys) (hidden : Bool) (a : Nat) : Bool := (NMap.find p.flipped (a / 65536)).isSome != hidden

/-- The word at a physical word address, on the visible or the hidden face. -/
def Phys.word (p : Phys) (hidden : Bool) (a : Nat) : CW :=
  if p.second hidden a then p.face1.word true a else p.face0.word false a

def Phys.put (p : Phys) (hidden : Bool) (a : Nat) (w : CW) : Phys :=
  if p.second hidden a then { p with face1 := p.face1.put true a w } else { p with face0 := p.face0.put false a w }

/-- The faces of a frame exchange roles (R111). -/
def Phys.flip (p : Phys) (f : Nat) : Phys :=
  { p with flipped := if (NMap.find p.flipped f).isSome then NMap.del p.flipped f else NMap.set p.flipped f () }

/-- A doubleword of memory on the visible face, codes not looked at. -/
def Phys.dword (p : Phys) (a : Nat) : Word := (p.word false (a + 4)).v ++ (p.word false a).v

def Phys.putDword (p : Phys) (a : Nat) (v : Word) : Phys :=
  (p.put false a (CW.mk' (v.extractLsb' 0 32))).put false (a + 4) (CW.mk' (v.extractLsb' 32 32))

/-- The byte at a physical address, on the visible face. -/
def Phys.byte (p : Phys) (a : Nat) : Byte := if p.second false a then p.face1.byte true a else p.face0.byte false a

/-- `n` bytes of memory from `a` as a number, little-endian, codes not looked at (`a` need not be aligned). -/
def Phys.num (p : Phys) (a n : Nat) : Nat :=
  (List.range n).foldl (fun acc k => acc + (p.byte (a + k)).toNat * 256 ^ k) 0

/-- `n` bytes written from a number, within its words; the writer makes the codes. -/
def Phys.putNum (p : Phys) (a n : Nat) (v : Nat) : Phys :=
  (List.range n).foldl (fun p k =>
    let wa := (a + k) / 4 * 4
    let old := (p.word false wa).v
    let b : BitVec 32 := BitVec.ofNat 32 (v / 256 ^ k % 256 * 2 ^ (8 * ((a + k) % 4)))
    p.put false wa (CW.mk' (mergeBytes old b (BitVec.ofNat 4 (2 ^ ((a + k) % 4)))))) p

/-! ### Agents -/

/-- Hub core c is agent 0x1000 + c; a plot's agent is its coordinate (R8, R293). -/
def hubAgent (c : Nat) : Nat := 0x1000 + c
def isHub (a : Nat) : Bool := 0x1000 ≤ a

def acreOf (c : Nat) : Nat := c / 256
def rankOf (c : Nat) : Nat := c / 16 % 16
def fileOf (c : Nat) : Nat := c % 16
def coordOf (acre rank file : Nat) : Nat := acre * 256 + rank * 16 + file

/-- A coordinate that names a plot of the module (R8, R128). -/
def namesPlot (c : Nat) : Bool := acreOf c < 12 && fileOf c < 8

/-- The plots of a tract in local-index order (R11). -/
def Tract.plots (t : Tract) : List Nat :=
  (List.range (t.nr * t.nf)).map fun k => coordOf t.acre (t.rank + k / t.nf) (t.file + k % t.nf)

def Tract.has (t : Tract) (c : Nat) : Bool :=
  acreOf c = t.acre && t.rank ≤ rankOf c && rankOf c < t.rank + t.nr && t.file ≤ fileOf c && fileOf c < t.file + t.nf

def State.seqOf (s : State) (a : Nat) : Seq := s.seqs.get {} a
def State.seq (s : State) : Seq := s.seqOf s.cur
def State.setSeqOf (s : State) (a : Nat) (q : Seq) : State := { s with seqs := s.seqs.set a q }
def State.setSeq (s : State) (q : Seq) : State := s.setSeqOf s.cur q
def State.modSeq (s : State) (f : Seq → Seq) : State := s.setSeq (f s.seq)
def State.modSeqOf (s : State) (a : Nat) (f : Seq → Seq) : State := s.setSeqOf a (f (s.seqOf a))
def State.plot (s : State) (c : Nat) : Plot := s.plots.get {} c
def State.setPlot (s : State) (c : Nat) (p : Plot) : State := { s with plots := s.plots.set c p }
def State.modPlot (s : State) (c : Nat) (f : Plot → Plot) : State := s.setPlot c (f (s.plot c))
def State.view (s : State) (a : Nat) : View := s.views.get {} a
def State.setView (s : State) (a : Nat) (v : View) : State := { s with views := s.views.set a v }
def State.acre (s : State) (k : Nat) : Acre := s.acres.get {} k
def State.setAcre (s : State) (k : Nat) (x : Acre) : State := { s with acres := s.acres.set k x }
def State.modAcre (s : State) (k : Nat) (f : Acre → Acre) : State := s.setAcre k (f (s.acre k))
def State.modSched (s : State) (f : Sched → Sched) : State := { s with sched := f s.sched }
def State.modFabric (s : State) (f : Fabric → Fabric) : State := { s with fabric := f s.fabric }
def State.modObs (s : State) (f : Observe → Observe) : State := { s with obs := f s.obs }
def State.launch? (s : State) (id : Nat) : Option Launch := s.sched.launches.find id
def State.modLaunch (s : State) (id : Nat) (f : Launch → Launch) : State :=
  match s.launch? id with
  | some l => s.modSched fun c => { c with launches := c.launches.set id (f l) }
  | none => s

/-- The tract that an agent's strand belongs to. -/
def State.tractOf (s : State) (a : Nat) : Option Tract := (s.launch? (s.seqOf a).ctx.launch).bind fun l => l.tracts.find? (·.has a)

/-! ### Results -/

/-- How an instruction stops short: it traps, with no effect left (R3), or it stalls at its place. -/
inductive Stop where
  | trap (r : Raise)
  | stall (s : State)

abbrev Res (α : Type) := Except Stop α
abbrev Out := Host.Outcome State Fault Refusal

def trap {α : Type} (c : Cause) (t0 : Word := 0) (t1 : Word := 0) (t2 : Word := 0) : Res α :=
  .error (.trap { cause := c, t0 := t0, t1 := t1, t2 := t2 })

/-- Trap unless the condition holds. -/
def need (b : Bool) (c : Cause) (t0 : Word := 0) (t1 : Word := 0) : Res Unit :=
  if b then .ok () else trap c t0 t1

/-- A stall of the current sequencer (R166): it stands at its instruction, which it will execute afresh. -/
def State.stalledAt (s : State) : State := s.modSeq fun q => { q with stalled := true }

def stall {α : Type} (s : State) : Res α := .error (.stall s.stalledAt)

/-! ### Registers -/

/-- The generation that the current agent's registers are compared with; a hub core has none (R39). -/
def State.genOf (s : State) (a : Nat) : BitVec 16 := (s.plot a).gen

/-- A tagged value obtained from state: zero where it is stale (R40). -/
def State.fresh? (s : State) (tag : BitVec 16) : Bool := isHub s.cur || tag = s.genOf s.cur

/-- Register r as an instruction obtains it (R38, R40): s0 is zero, a stale register is zero. -/
def State.reg (s : State) (r : BitVec 5) : Word :=
  if r = 0 then 0
  else
    let x := s.seq.regs.get {} r.toNat
    if s.fresh? x.tag then x.val else 0

def State.stale (s : State) (r : BitVec 5) : Bool := r != 0 && !s.fresh? (s.seq.regs.get {} r.toNat).tag

/-- In strict mode a stale source register traps GENSTALE (R40, R133). -/
def State.sources (s : State) (word : Word) (rs : List (BitVec 5)) : Res Unit :=
  need (!(s.seq.gstrict && rs.any s.stale)) .genstale word

/-- A register written takes the current generation (R41); s0 discards (R38). -/
def State.setReg (s : State) (r : BitVec 5) (v : Word) : State :=
  if r = 0 then s
  else s.modSeq fun q => { q with regs := q.regs.set r.toNat { val := v, tag := s.genOf s.cur } }

def r5 (n : BitVec 8) : BitVec 5 := n.setWidth 5

/-- CYCLE: cycles since the strand's start, stalls included, at the acre's operating point in tenths of a GHz (R43, R394). -/
def State.cycleOf (s : State) (a : Nat) : Word :=
  let q := s.seqOf a
  let pt := if isHub a then 10 else (s.acre (acreOf a)).point
  q.cycle + w64 ((s.tempo - q.cycleAt).toNat * pt / 10)

/-! ### The journal's reports (R351, R352) -/

def State.report (s : State) (unit kind sev : Nat) (cause : BitVec 7 := 0) (addr : Word := 0) (syn : Word := 0)
    (launch : Nat := 0) : State :=
  s.modObs fun o => { o with journal := { o.journal with queue := o.journal.queue ++
    [{ tempo := s.tempo, unit := BitVec.ofNat 16 unit, kind := BitVec.ofNat 8 kind, sev := BitVec.ofNat 8 sev,
       cause := cause.setWidth 32, addr := addr, syn0 := syn, syn1 := 0, launch := BitVec.ofNat 32 launch }] } }

/-! ### Raising -/

/-- A raise joins a hub core's queue of 64; a full queue merges it into the latest of its cause, or gives it the cause's
reserve place (R380). -/
def queueRaise (l : List Raise) (r : Raise) : List Raise :=
  if l.length < 64 then l ++ [r]
  else if l.any (·.cause == r.cause) then
    (l.reverse.foldl (fun (acc : List Raise × Bool) x =>
      if !acc.2 && x.cause == r.cause then (r :: acc.1, true) else (x :: acc.1, acc.2)) ([], false)).1
  else l ++ [r]

/-- A cause of Point H goes to a hub core, core 0 unless its row names another (R323). -/
def State.raiseHub (s : State) (core : Nat) (r : Raise) : State :=
  s.modSeqOf (hubAgent core) fun q => { q with pend := queueRaise q.pend { r with unit := 9 } }

def State.raiseSup (s : State) (c : Cause) (t0 : Word := 0) (t1 : Word := 0) (t2 : Word := 0) : State :=
  s.raiseHub 0 { cause := c, t0 := t0, t1 := t1, t2 := t2 }

/-- An agent that traps OWNLOST has learnt of the loss of the sector (R363). -/
def State.learnt (s : State) (a : Nat) (r : Raise) : State :=
  if r.cause == .ownlost then s.modFabric fun f => { f with lostTo := f.lostTo.filter (· != (a, r.t1.toNat / 64)) } else s

/-- A boundary exception of a strand stays pending until it is delivered (R283). Exceptions recorded after a strand has
ended go to the launch's status (R145). -/
def State.raiseAt (s : State) (a : Nat) (r : Raise) : State :=
  let s := s.learnt a r
  let q := s.seqOf a
  if q.run = .ended then s.modLaunch q.ctx.launch fun l => { l with lateexc := true }
  else s.setSeqOf a { q with pend := q.pend ++ [r] }

/-- Flags that a unit records for a strand: ORed into FPFLAGS; enabled ones raise FPTRAP of that unit, once for all that it
has recorded since its last one was delivered (R59). -/
def State.recordFlags (s : State) (a unit : Nat) (f : BitVec 5) : State :=
  let q := s.seqOf a
  let q := { q with fpflags := q.fpflags ||| f }
  let on := f &&& q.ten
  if on = 0 then s.setSeqOf a q
  else if q.pend.any (fun r => r.cause == .fptrap && r.unit == unit) then
    s.setSeqOf a { q with pend := q.pend.map fun r =>
      if r.cause == .fptrap && r.unit == unit then { r with t0 := r.t0 ||| on.setWidth 64 } else r }
  else (s.setSeqOf a q).raiseAt a { cause := .fptrap, unit := unit, t0 := on.setWidth 64 }

/-! ### Taking an exception and returning from one -/

/-- TCAUSE of a raise (R280). -/
def tcauseOf (r : Raise) (boundary : Bool) : BitVec 12 :=
  BitVec.ofNat 12 (r.cause.code.toNat + (if boundary then 128 else 0) + 256 * (r.unit % 16))

/-- Trap entry as one action (R282); with `debug` the strand enters debug mode in its place (R284). The loop levels in use
follow the mode (R143). -/
def Seq.enter (q : Seq) (r : Raise) (boundary debug : Bool) (epc : Word) : Seq :=
  { q with
    pmode := if q.mode = 2 then q.pmode else q.mode,
    mode := if debug then 2 else 1, inh := !debug, epc := epc, tcause := tcauseOf r boundary,
    tval0 := r.t0, tval1 := r.t1, tval2 := r.t2, tval3 := r.t3,
    pc := if debug then q.pc else (q.tvec >>> 3) <<< 3,
    stalled := false, released := false, granted := false, answer := none, resv := none,
    faults := q.faults.filter (·.unit != 0), replies := q.replies.filter (·.unit != 0) }

/-- A message for a core or a plot (R293). -/
def State.mailTo (s : State) (a : Nat) (sender tag : Nat) (w1 w2 : Word) : State :=
  s.modSeqOf a fun q => { q with mail := q.mail ++
    [{ cause := .mbox, t0 := w64 (sender % 65536 + tag % 65536 * 65536), t1 := w1, t2 := w2, t3 := s.tempo }] }

/-- The engine operations of a failed strand complete their accesses but signal no tag; its actors are abandoned, its
streams stop (R327). -/
def Plot.abandon (p : Plot) : Plot :=
  { p with actors := [], ops := p.ops.map (fun o => { o with tag := none }), openBatch := none, batches := [],
           tagPend := [], recs := [], spills := [] }

/-- The collectives that an agent takes part in fail, but for those whose flips are scheduled (R197). -/
def State.failColls (s : State) (a : Nat) : State :=
  s.modFabric fun g => { g with colls := g.colls.map fun kc =>
    (kc.1, if kc.2.parts.any (fun p => p.agent = a) && !kc.2.done then { kc.2 with tmo := 0 } else kc.2) }

/-- A launch records the fault of a strand, the first one's cause (R298, R327). -/
def State.noteFault (s : State) (launch : Nat) (c : BitVec 7) : State :=
  s.modLaunch launch fun l => { l with fault := true, cause := if l.fault then l.cause else c }

/-- The nearest job RCB above a queue RCB (R294, R327): the PARENT field at offset 0x10 of a queue names a job. -/
def State.jobOf (s : State) (queue : Nat) : Nat := (s.phys.dword (queue + 0x10)).toNat

/-- RCBs from `r` upwards towards the root, at most eight (R294). -/
def State.ancestors (s : State) : Nat → Nat → List Nat
  | 0, _ => []
  | n + 1, r => if r = 0 then [] else r :: s.ancestors n (s.phys.dword (r + 0x10)).toNat

/-- A strand fails (R326): it stops, performs no release, its collectives fail, and its launch records the fault (R327). -/
def State.failOne (s : State) (c : BitVec 7) (a : Nat) : State :=
  let q := s.seqOf a
  if q.run = .failed ∨ q.run = .ended ∨ q.run = .idle then s
  else
    let s := s.setSeqOf a { q with run := .failed, stalled := false }
    let s := if isHub a then s else (s.modPlot a Plot.abandon).failColls a
    s.noteFault q.ctx.launch c

/-- The fault domain of a strand holds the strand `y` (R326, R327). -/
def State.inDomain (s : State) (x y : Ctx) : Bool :=
  match x.fdom with
  | 0 => y.launch = x.launch && y.strandix = x.strandix
  | 1 => y.launch = x.launch && y.tract = x.tract
  | 2 => y.launch = x.launch
  | _ =>
    match s.launch? x.launch, s.launch? y.launch with
    | some l, some m => (s.ancestors 8 m.queue).contains (s.jobOf l.queue)
    | _, _ => y.launch = x.launch

/-- The agents of plots whose strand satisfies a test. -/
def State.agentsWith (s : State) (f : Ctx → Bool) : List Nat :=
  (s.seqs.filter fun kq => !isHub kq.1 && kq.2.run != .idle && f kq.2.ctx).map (·.1)

/-- A context that is nowhere but in its area. -/
def Area.live (x : Area) : Bool := !x.out

/-- A strand in an area fails. -/
def Area.fail (x : Area) : Area :=
  { x with seq := { x.seq with run := match x.seq.run with | .ended => .ended | _ => .failed }, plot := x.plot.abandon }

/-- Every strand that satisfies a test fails, those in save areas included. -/
def State.failWhere (s : State) (c : BitVec 7) (f : Ctx → Bool) : State :=
  let s := (s.agentsWith f).foldl (fun s b => s.failOne c b) s
  let hit (x : Area) : Bool := x.live && f x.seq.ctx
  let gone := (s.areas.filter fun ka => hit ka.2 && ka.2.seq.run != .ended && ka.2.seq.run != .failed).map (·.2.seq.ctx.launch)
  let s := { s with areas := s.areas.map fun ka => (ka.1, if hit ka.2 then ka.2.fail else ka.2) }
  gone.foldl (fun s l => s.noteFault l c) s

/-- The launches that stop as a whole when a strand of a launch fails with an FDOM of 2 or 3 (R326). -/
def State.domainLaunches (s : State) (launch fdom : Nat) : List Nat :=
  match s.launch? launch with
  | none => []
  | some l =>
    if fdom = 3 then
      ((s.sched.launches.map (·.2)).filter fun m =>
        m.id = launch || (m.placedAt.isSome && (s.ancestors 8 m.queue).contains (s.jobOf l.queue))).map (·.id)
    else [launch]

/-- Launches stop as a whole. -/
def State.stopLaunches (s : State) (c : BitVec 7) (l : List Nat) : State :=
  l.foldl (fun s k => (s.noteFault k c).modLaunch k fun y => { y with stopAll := true }) s

/-- A strand fails with its fault domain (FAULT_DOMAIN_STOP). -/
def State.failStrand (s : State) (a : Nat) (c : BitVec 7) : State :=
  let x := (s.seqOf a).ctx
  let t := s.failWhere c fun y => s.inDomain x y
  if x.fdom ≤ 1 then t else t.stopLaunches c (s.domainLaunches x.launch x.fdom)

/-- A fault while a handler is active (R283): MACHCHK for a plot, FIRMERR for a hub core; the sequencer stops with its
registers unchanged. -/
def State.doubleFault (s : State) (r : Raise) : State :=
  let a := s.cur
  let c := r.cause.code.setWidth 64
  let s1 := if isHub a then s.raiseSup .firmerr (w64 (a - 0x1000)) c s.seq.pc else s.raiseSup .machchk (w64 a) c s.seq.pc
  if isHub a then s1.modSeqOf a fun q => { q with run := .failed }
  else s1.failStrand a r.cause.code

/-- A trap with TVEC invalid (R282, TRAP_FORWARD): no handler runs; the module supervisor has an MBOX message with the tag
0xFFFF, TCAUSE and EPC, and the fault domain decides what else stops. -/
def State.forward (s : State) (r : Raise) (boundary : Bool) (epc : Word) : State :=
  let a := s.cur
  let s1 := s.mailTo (hubAgent 0) a 0xFFFF ((tcauseOf r boundary).setWidth 64) epc
  if isHub a then s1.modSeqOf a fun q => { q with run := .failed } else s1.failStrand a r.cause.code

/-- Whether a cause enters debug mode in place of the handler (R284). -/
def Seq.intoDebug (q : Seq) (c : Cause) : Bool :=
  c == .dbghalt || (q.dbgen && (c == .brkpt || c == .step || c == .watchpt))

/-- The watchdog of a launch pauses, if it does not already (R328). -/
def State.holdWdog (s : State) (launch : Nat) : State :=
  s.modLaunch launch fun l => { l with wdogHeld := if l.wdogHeld.isSome then l.wdogHeld else some s.tempo }

/-- The watchdog pauses while a strand of its launch is in debug mode (R328). -/
def State.pauseWdog (s : State) (a : Nat) : State := s.holdWdog (s.seqOf a).ctx.launch

/-- A flit of a collective to the root unit, which the switches' own configuration names (R397): `typ` 4, 6 or 7. -/
def State.rootFlit (s : State) (typ cid index req part : Nat) (ws : List CW) : Flit :=
  { dst := (Config.firmware 1).toNat % 4096, src := s.fabric.podIndex, typ := typ, seq := 0, ack := 0, target := cid, index := index,
    req := req, part := part, status := 0, payload := ws }

def State.emit (s : State) (l : List Flit) : State := s.modFabric fun f => { f with out := f.out ++ l }

/-- A participant holds the time-out, or lets it go on (R365). -/
def Coll.hold (c : Coll) (now : Word) (ix : Nat) : Coll :=
  { c with holds := if c.holds.contains ix then c.holds else c.holds ++ [ix], startAt := none,
           used := c.used + (match c.startAt with | some t => (now - t).toNat | none => 0) }

def Coll.letGo (c : Coll) (now : Word) (ix : Nat) : Coll :=
  let h := c.holds.filter (· != ix)
  { c with holds := h, startAt := if h.isEmpty && c.startAt.isNone && !c.contributed.isEmpty then some now else c.startAt }

/-- A strand that enters debug mode with FREEZE set holds the collectives to which it has not contributed all (R365). -/
def State.holdColls (s : State) (a : Nat) : State :=
  if !(s.seqOf a).freeze then s
  else s.fabric.colls.foldl (fun s kc =>
    match kc.2.parts.find? (fun p => p.agent = a && !p.sent) with
    | none => s
    | some p =>
      let c := kc.2.hold s.tempo p.index
      let c := { c with parts := c.parts.map fun x => if x.agent = a then { x with held := true } else x }
      let s := s.modFabric fun f => { f with colls := f.colls.set kc.1 c }
      if c.local_ then s else s.emit [s.rootFlit 6 kc.1 p.index 0 (s.seqOf a).ctx.part []]) s

/-- It lets them go on when it leaves debug mode. -/
def State.letGoColls (s : State) (a : Nat) : State :=
  s.fabric.colls.foldl (fun s kc =>
    match kc.2.parts.find? (fun p => p.agent = a && p.held) with
    | none => s
    | some p =>
      let c := kc.2.letGo s.tempo p.index
      let c := { c with parts := c.parts.map fun x => if x.agent = a then { x with held := false } else x }
      let s := s.modFabric fun f => { f with colls := f.colls.set kc.1 c }
      if c.local_ then s else s.emit [s.rootFlit 7 kc.1 p.index 0 (s.seqOf a).ctx.part []]) s

/-- An exception is taken by the current agent: into debug mode, at its handler, or forwarded. -/
def State.takeException (s : State) (r : Raise) (boundary : Bool) (epc : Word) : State :=
  if s.seq.intoDebug r.cause then (s.modSeq fun q => q.enter r boundary true epc).pauseWdog s.cur |>.holdColls s.cur
  else if s.seq.tvec.getLsbD 0 then s.modSeq fun q => q.enter r boundary false epc
  else s.forward r boundary epc

/-- A fault (R282): EPC is the PC of the instruction. With a handler active it is a double fault (R283). -/
def State.takeFault (s : State) (r : Raise) : State :=
  let s := s.learnt s.cur r
  if s.seq.inh then s.doubleFault r else s.takeException r false s.seq.pc

/-- A cause taken after its instruction (R282): EPC is the PC of the next one. While a handler is active it stays pending
and is delivered later as a boundary exception (R283). -/
def State.takeAfter (s : State) (r : Raise) : State :=
  if s.seq.inh then s.modSeq fun q => { q with pend := q.pend ++ [r] } else s.takeException r false s.seq.pc

/-- What an instruction answers: its state, or the exception it takes, or its stall. -/
def settle (s : State) : Res State → Out
  | .ok t => .next t
  | .error (.trap r) => .next (s.takeFault r)
  | .error (.stall t) => .next t

/-! ### Completing an instruction -/

/-- The loop levels in use (R143). -/
def Seq.loops (q : Seq) : List LoopLevel := if q.mode = 0 then q.uloops else q.sloops

def Seq.setLoops (q : Seq) (l : List LoopLevel) : Seq :=
  if q.mode = 0 then { q with uloops := l } else { q with sloops := l }

/-- The active levels evaluated when the instruction at `pc` completes without a transfer, innermost first (R144). -/
def loopNext (pc : Word) : List LoopLevel → Word × List LoopLevel
  | [] => (pc + 8, [])
  | l :: ls =>
    if l.stop = pc then
      if 1 < l.cnt then (l.start, { l with cnt := l.cnt - 1 } :: ls) else loopNext pc ls
    else (pc + 8, l :: ls)

/-- A branch or J pops every level whose body does not contain the target (R144). -/
def loopsKept (target : Word) (ls : List LoopLevel) : List LoopLevel :=
  ls.filter fun l => l.start.toNat ≤ target.toNat && target.toNat ≤ l.stop.toNat

/-- The instruction's transient state is done with. -/
def Seq.settled (q : Seq) : Seq :=
  { q with stalled := false, released := false, granted := false, answer := none, resv := none,
           faults := q.faults.filter (·.unit != 0), replies := q.replies.filter (·.unit != 0) }

def Seq.advance (q : Seq) : Seq :=
  let n := loopNext q.pc q.loops
  { q.settled.setLoops n.2 with pc := n.1 }

def Seq.jump (q : Seq) (target : Word) : Seq := { q.settled.setLoops (loopsKept target q.loops) with pc := target }

/-- A transfer that pops no level: JAL, JALR (R144). -/
def Seq.jumpKeep (q : Seq) (target : Word) : Seq := { q.settled with pc := target }

/-- A trial counts the instruction that a selected strand completes (R376): inside the code range, or outside it in an
experiment window, where the accumulator gains p/100 and gives a cycle back at 1. -/
def Trial.issued (t : Trial) (c : Ctx) (pc : Nat) : Trial :=
  if t.launch = c.launch && t.lo ≤ c.strandix && c.strandix ≤ t.hi then
    if t.codeLo ≤ pc && pc < t.codeHi then { t with inside := t.inside + 1 }
    else if t.exper then { t with frac := t.frac.set c.strandix ((t.frac.get 0 c.strandix + t.pct) % 100) }
    else t
  else t

def State.issued (s : State) (pc : Word) : State :=
  if isHub s.cur then s else s.modObs fun o => { o with trials := o.trials.map fun t => t.issued s.seq.ctx pc.toNat }

/-- What follows every completed instruction: the watchdog's tick (R328), then STEP (R339) and WATCHPT, the lower code
first and the other pending. -/
def State.completed (s : State) (pc : Word) : State :=
  let s := s.issued pc
  let q := s.seq
  let user := q.mode = 0
  let s := if user then s.modSeq fun q => { q with lastDone := s.tempo } else s
  let stepR : Raise := { cause := .step, t0 := pc }
  let watchR : Raise := { cause := .watchpt, t0 := q.waddr }
  let s := if q.watch then s.modSeq fun q => { q with watch := false } else s
  if q.sstep && user then
    let s := if q.watch then s.modSeq fun q => { q with pend := q.pend ++ [watchR] } else s
    s.takeAfter stepR
  else if q.watch then s.takeAfter watchR
  else s

/-- An instruction that does not transfer control completes. -/
def State.retire (s : State) : State := (s.modSeq Seq.advance).completed s.seq.pc

/-- A branch or J completes at its target. -/
def State.branchTo (s : State) (target : Word) : State := (s.modSeq fun q => q.jump target).completed s.seq.pc

def State.callTo (s : State) (target : Word) : State := (s.modSeq fun q => q.jumpKeep target).completed s.seq.pc

/-- An instruction that completes with a cause taken after it (SWTRAP, FPTRAP of AFADD); a WATCHPT of the same
instruction has the higher code and stays pending. -/
def State.retireWith (s : State) (r : Raise) : State :=
  let s := s.issued s.seq.pc
  let q := s.seq
  let s := s.modSeq Seq.advance
  let s := if q.mode = 0 then s.modSeq fun q => { q with lastDone := s.tempo } else s
  let s := if q.watch then
      s.modSeq fun x => { x with watch := false, pend := x.pend ++ [{ cause := .watchpt, t0 := q.waddr }] }
    else s
  s.takeAfter r

/-! ### Where instructions may run (R130, R131, R279) -/

/-- Datapath classes run only on a plot in user mode. -/
def State.datapath (s : State) (word : Word) : Res Unit := do
  need (!isHub s.cur) .nodp word
  need (s.seq.mode = 0) .portprot word

/-- Privileged instructions that a plot's supervisor mode and a hub core may run. -/
def State.privileged (s : State) (word : Word) : Res Unit := need (isHub s.cur || s.seq.mode = 1) .priv word

/-- Instructions of hub cores alone. -/
def State.hubOnly (s : State) (word : Word) : Res Unit := need (isHub s.cur) .priv word

/-! ### Free values -/

/-- A new index for a free value. -/
def State.draw (s : State) : Nat × State := (s.fresh, { s with fresh := s.fresh + 1 })

end Sys2Proof.Machine
end

