-- ==== Sys2Proof/Machine/Memory.lean ====
section
/-! DEFINITION. Where an access goes: the physical map, translation, the stash, WINDOW ranges, pod sectors, and the words
that an agent sees through its snapshot and its own stores (chapters 05, 06, 20, 23). -/

namespace Sys2Proof.Machine

/-! ### The physical map (R78, R79) -/

def hubSpace : Nat := 0xF000_0000_0000
def frameOf (pa : Nat) : Nat := pa / 65536

/-- The home acre of a frame of tier-1 or tier-2 memory (R79). -/
def homeAcre (pa : Nat) : Nat :=
  let f := frameOf pa
  if pa < 0x0090_0000_0000 then f % 12
  else if pa < 0x0120_0000_0000 then (pa - 0x0090_0000_0000) / 0xC_0000_0000
  else ((f - 0x1000_0000) / 16) % 12

/-- The home slice within its acre (R79). -/
def homeSlice (pa : Nat) : Nat :=
  let f := frameOf pa
  if pa < 0x0090_0000_0000 then f / 12 % 24
  else if pa < 0x0120_0000_0000 then f % 24
  else ((f - 0x1000_0000) / 192) % 24

/-- The tier-2 module of a frame, and the hub it stands on (R79). -/
def tier2Module (pa : Nat) : Nat := (frameOf pa - 0x1000_0000) % 16

/-- What stands at a physical address: 0 nothing, 1 tier-1, 2 tier-2, 3 hub and management space (R78). Frames of an acre
that is not usable, and tier-2 modules that failed to train, are absent (R392). -/
def State.popKind (s : State) (pa : Nat) : Nat :=
  if pa < 0x0120_0000_0000 then (if (s.acre (homeAcre pa)).usable then 1 else 0)
  else if pa < 0x1000_0000_0000 then 0
  else if pa < 0x1200_0000_0000 then (if s.power.absent2.contains (tier2Module pa) then 0 else 2)
  else if pa < hubSpace then 0
  else if pa < 0x1_0000_0000_0000 then 3
  else 0

/-- The names of links (R291): UCIe of an acre's interface, Knabry, Ethernet. -/
def ucieLink (acre iface : Nat) : Nat := acre * 256 + iface
def knabryLink (port : Nat) : Nat := 0x1000 + port
def etherLink (port : Nat) : Nat := 0x2000 + port
def State.link (s : State) (l : Nat) : Link := s.fabric.links.get {} l
def State.setLink (s : State) (n : Nat) (l : Link) : State := s.modFabric fun f => { f with links := f.links.set n l }

/-- The links that an access of agent `a` to `pa` needs are ACTIVE (R383): a tier-2 frame travels between its home acre and
its hub, and a hub core reaches a home slice over its own interface. -/
def State.linkOk (s : State) (a pa : Nat) : Bool :=
  let up (l : Nat) : Bool := (s.link l).st = 0 && (s.link l).quiesceAt.isNone
  (s.popKind pa != 2 || up (ucieLink (homeAcre pa) (tier2Module pa / 4))) &&
  (!isHub a || s.popKind pa = 3 || up (ucieLink (homeAcre pa) ((a - 0x1000) / 8)))

/-! ### Pod ranges (R361) -/

/-- The pod index of the module that homes a pod-coherent physical address: that of its enabled range, else this one. -/
def State.podRangeOf (s : State) (pa : Nat) : Option Nat :=
  (s.fabric.podRanges.find? fun kr =>
    let r := kr.2
    let base := bits r.w0 29 23 * 2 ^ 29
    r.w1.getLsbD 63 && base ≤ pa && pa < base + bits r.w1 0 23 * 2 ^ 29).map fun kr => bits kr.2.w1 32 4

def State.podHome (s : State) (pa : Nat) : Nat := (s.podRangeOf pa).getD s.fabric.podIndex

/-- Memory of this module serves the address: no other module of the pod homes it. -/
def State.homedHere (s : State) (pa : Nat) : Bool := s.podHome pa = s.fabric.podIndex

/-! ### Page-table entries (R310) -/

def pteV (e : Word) : Bool := e.getLsbD 0
def pteR (e : Word) : Bool := e.getLsbD 1
def pteW (e : Word) : Bool := e.getLsbD 2
def pteX (e : Word) : Bool := e.getLsbD 3
def pteU (e : Word) : Bool := e.getLsbD 4
def ptePub (e : Word) : Bool := e.getLsbD 5
def ptePodc (e : Word) : Bool := e.getLsbD 6
def pteMt (e : Word) : Nat := bits e 8 2
def pteD (e : Word) : Bool := e.getLsbD 11
def pteRec (e : Word) : Bool := e.getLsbD 12
def pteBase (e : Word) : Nat := bits e 16 36 * 65536

/-- The page number of a 55-bit virtual address, in 64 KiB pages (R76). -/
def vpnOf (va : Word) : Nat := bits va 16 39

/-- Bits [63:55] equal bit 54 (R76). -/
def canonical (va : Word) : Bool :=
  let t := va.extractLsb' 54 10
  t = 0 || t = BitVec.allOnes 10

def Tlb.covers (t : Tlb) (asid vpn : Nat) : Bool :=
  t.asid = asid && (if t.big then t.vpn / 8192 = vpn / 8192 else t.vpn = vpn)

/-- The physical address through a leaf (R309). -/
def Tlb.pa (t : Tlb) (va : Word) : Nat :=
  if t.big then bits t.pte 29 23 * 2 ^ 29 + bits va 0 29 else pteBase t.pte + bits va 0 16

/-- The entry permits the access (R311 orders 5 and 6), and a write finds D set (R312). `kind` is 0 read, 1 write, 2 fetch. -/
def permits (e : Word) (kind : Nat) (user : Bool) : Bool :=
  (!user || pteU e) && (if kind = 0 then pteR e else if kind = 1 then pteW e && pteD e else pteX e)

def noTrans (kind : Nat) : Cause := if kind = 1 then .trnw else .trnr
def noAccess (kind : Nat) : Cause := if kind = 1 then .protw else .protr

/-- TVAL1 of a translation fault (R311): the level at which the walk stopped, write, user. -/
def walkBits (level kind : Nat) (user : Bool) : Word :=
  w64 (level + (if kind = 1 then 4 else 0) + (if user then 8 else 0))

/-- The TLB of an agent's acre; hub core c keeps its own under number 16 + c (R313). -/
def tlbKey (a : Nat) : Nat := if isHub a then 16 + (a - 0x1000) else acreOf a

/-- A hub core without translation: the physical page's entry (R385), ordinary memory of type 0, pod-coherent inside an
enabled range, hub space uncached. -/
def State.flatPte (s : State) (pa : Nat) : Word :=
  let b : Nat := (pa / 65536) * 65536 + 0xF + 0x800 + (if (s.podRangeOf pa).isSome then 0x40 else 0) +
    (if s.popKind pa = 3 then 0x100 else 0)
  w64 b

/-- The access of a unit counts as a user access: a sequencer's by its mode, an engine's always, a hub core's never. -/
def State.userAccess (s : State) (a unit : Nat) : Bool := !isHub a && (unit != 0 || (s.seqOf a).mode = 0)

/-- The physical range that a strand's accesses are checked against (R315): its partition's, as PBASE and PLIMIT stand now;
a hub core is outside every partition (R316). -/
def State.rangeOf (s : State) (a : Nat) : Nat × Nat :=
  let c := (s.seqOf a).ctx
  if isHub a then (0, 2 ^ 52 - 1)
  else if c.part = 0 then (c.pbase, c.plimit)
  else (s.phys.num (c.part + 0x50) 8, s.phys.num (c.part + 0x58) 8)

/-- The address space of an agent's accesses; a hub core without translation has none, and its addresses name no WINDOW
range. -/
def State.asidOf (s : State) (a : Nat) : Nat :=
  if isHub a && !(s.seqOf a).ctx.translate then 65536 else (s.seqOf a).ctx.asid

/-- A miss joins the queue of its acre, coalesced with one to the same page and ASID; a full queue of 512 makes the requester
wait for a place (R313). -/
def State.miss (s : State) (a unit vpn kind : Nat) : State :=
  let c := (s.seqOf a).ctx
  let k := tlbKey a
  let r : MissReq := { agent := a, unit := unit, kind := kind, user := s.userAccess a unit }
  let same (m : Miss) : Bool := m.acre = k && m.asid = c.asid && m.vpn = vpn
  if s.misses.any same then
    { s with misses := s.misses.map fun m => if same m && !m.reqs.contains r then { m with reqs := m.reqs ++ [r] } else m }
  else if 512 ≤ (s.misses.filter (·.acre = k)).length then s
  else
    let g := s.rangeOf a
    { s with misses := s.misses ++ [{ acre := k, asid := c.asid, vpn := vpn, reqs := [r],
                                      root := c.ptroot, pbase := g.1, plimit := g.2 }] }

/-- A unit of agent `a` waits; only unit 0, the sequencer, stalls. -/
def waitFor {α : Type} (s : State) (a unit : Nat) : Res α :=
  .error (.stall (if unit = 0 then s.modSeqOf a fun q => { q with stalled := true } else s))

/-- Translation of a virtual address for a unit of an agent (R76, R309 to R313): the translation, or the exception that the
walk found, or a stall while the walk is made. -/
def State.translate (s : State) (a unit : Nat) (va : Word) (kind : Nat) : Res Tlb :=
  let q := s.seqOf a
  let user := s.userAccess a unit
  if isHub a && !q.ctx.translate then
    if va.toNat < 2 ^ 52 && s.popKind va.toNat != 0 then
      .ok { asid := 65536, vpn := vpnOf va, big := false, pte := s.flatPte va.toNat }
    else trap (noAccess kind) va (walkBits 0 kind user)
  else if !canonical va then trap (noTrans kind) va (walkBits 0 kind user)
  else
    let vpn := vpnOf va
    match ((s.plot a).utlb ++ (s.acre (tlbKey a)).tlb).find? (fun t => t.covers q.ctx.asid vpn && permits t.pte kind user) with
    | some t => .ok t
    | none =>
      match q.faults.find? (fun f => f.unit = unit && f.vpn = vpn) with
      | some f => trap f.cause va f.t1 f.t2
      | none => waitFor (s.miss a unit vpn kind) a unit

/-- The answers of walks that an agent's unit has taken are done with. -/
def State.dropFaults (s : State) (a unit : Nat) : State :=
  s.modSeqOf a fun q => { q with faults := q.faults.filter (·.unit != unit) }

/-- A translation held by a TLB leads to nothing: an absent frame of a large page (R78, R311). -/
def State.present (s : State) (a unit : Nat) (t : Tlb) (va : Word) (kind : Nat) : Res Unit :=
  need (s.popKind (t.pa va) != 0) (noAccess kind) va (walkBits (if t.big then 1 else 2) kind (s.userAccess a unit))

/-! ### Charging and the cache (R80, R320) -/

/-- A node is exhausted while EUSED ≥ EQUOTA ≠ 0 (R322). -/
def State.exhaustedNode (s : State) (n : Nat) : Bool :=
  let q := s.phys.num (n + 0x2C) 4
  (s.phys.num (n + 8) 2).testBit 8 && q != 0 && q ≤ s.phys.num (n + 0xD4) 4

def State.exhausted? (s : State) (r : Nat) : Option Nat := (s.ancestors 8 r).find? s.exhaustedNode

/-- Every strand beneath an exhausted node is asked to take EQUOTA at its next pre-emption point (R322). -/
def State.askQuota (s : State) : State :=
  (s.agentsWith fun _ => true).foldl (fun s a =>
    let q := s.seqOf a
    match s.exhausted? q.ctx.rcb with
    | none => s
    | some n =>
      let ended := q.run == .ended || q.run == .failed
      if ended || q.req.quota.isSome || q.pend.any (·.cause == .equota) then s
      else
        let since := if q.req.drain || q.req.save then q.req.since else s.tempo
        s.setSeqOf a { q with req := { q.req with quota := some n, since := since } }) s

/-- Nanojoules charged at a node and at every node above it; EUSED shows whole millijoules, and a quota that it reaches asks for
EQUOTA (R320 to R322). -/
def State.chargePath (s : State) (node nj : Nat) : State :=
  let path := s.ancestors 8 node
  let used (r : Nat) : Nat := s.sched.contexts.get 0 r
  let t := path.foldl (fun t r =>
    let n := used r + nj
    let t := t.modSched fun c => { c with contexts := c.contexts.set r n }
    if n / 1000000 = used r / 1000000 then t else { t with phys := t.phys.putNum (r + 0xD4) 4 (n / 1000000) }) s
  if path.any fun r => (used r + nj) / 1000000 != used r / 1000000 then t.askQuota else t

/-- A launch holds a plot of a tract of its team: its strand is still to start, or stands there. -/
def State.holdsPlot (s : State) (t : Tract) (c : Nat) : Bool := !t.released || (s.seqOf c).run != .idle || (s.plot c).engaged

/-- The plots of an acre that a launch holds. -/
def State.plotsOn (s : State) (l : Launch) (acre : Nat) : Nat :=
  ((l.tracts.filter (·.acre = acre)).flatMap fun t => t.plots.filter (s.holdsPlot t)).length

/-- The launches placed on an acre. -/
def State.launchesOn (s : State) (acre : Nat) : List Launch :=
  (s.sched.launches.map (·.2)).filter fun l => l.placedAt.isSome && s.plotsOn l acre != 0

/-- A launch shares an acre with another (R43, R321). -/
def State.sharesAcre (s : State) (l : Launch) : Bool :=
  l.tracts.any fun t => (s.launchesOn t.acre).any fun m => m.id != l.id

/-- The context of a launch that has retired: its queue. -/
def queueCtx (queue : Nat) : Nat := 2 ^ 52 + queue

/-- Nanojoules of memory traffic charged to a context (R320): a launch and every RCB above it, the queue of a launch that has
retired, or the root for context 0. ENERGY.UJ of a launch that shares an acre does not advance (R321). -/
def State.charge (s : State) (launch nj : Nat) : State :=
  match s.launch? launch with
  | none =>
    if 2 ^ 52 ≤ launch then s.chargePath (launch - 2 ^ 52) nj
    else if launch = 0 then s.chargePath Config.rootRcb nj
    else s
  | some l => (if s.sharesAcre l then s else s.modLaunch launch fun l => { l with energyNj := l.energyNj + nj }).chargePath l.rcb nj

/-- The difference of two samples of an acre is charged (R321): to the one launch of an exclusive acre, or divided among those
that share it by the plots that they held since the last sample. -/
def State.chargeSample (s : State) (acre nj : Nat) : State :=
  match s.launchesOn acre with
  | [] => s
  | [l] => (s.modLaunch l.id fun l => { l with energyNj := l.energyNj + nj }).chargePath l.rcb nj
  | ls =>
    let total := ls.foldl (fun n l => n + s.plotsOn l acre) 0
    ls.foldl (fun t l => t.chargePath l.rcb (nj * s.plotsOn l acre / total)) s

/-- A sample of an acre's energy counter (R321). -/
def State.sampleAcre (s : State) (k : Nat) : State :=
  let t := s.chargeSample k (1000 * (s.acre k).meter)
  t.setAcre k { t.acre k with meter := 0, lastSampleAt := s.tempo }

/-- Samples of the acres of some tracts, before what is placed there changes. -/
def State.sampleTracts (s : State) (l : List Tract) : State := ((l.map (·.acre)).eraseDups).foldl State.sampleAcre s

/-- The rate of a sector: tier-1 2, tier-2 3, another module 6 nJ (R320). -/
def State.sectorRate (s : State) (pa : Nat) (podc : Bool) : Nat :=
  if podc && s.podHome pa != s.fabric.podIndex then 6 else if s.popKind pa = 2 then 3 else 2

/-- Bytes per block of a format window (R86). -/
def blockBytes (f : Nat) : Nat := match f with | 6 => 32 | 7 => 32 | 8 => 16 | _ => 8

def FmtWin.covers (w : FmtWin) (pa : Nat) : Bool := w.enable && w.base ≤ pa && pa < w.base + w.size

/-- The aligned words of the scale region that hold the scales of a sector inside a window (R86). -/
def FmtWin.scaleWords (w : FmtWin) (pa : Nat) : List Nat :=
  let a := w.scale + (pa / 64 * 64 - w.base) / blockBytes w.fmt
  (List.range ((a % 4 + 64 / blockBytes w.fmt + 3) / 4)).map fun k => a / 4 * 4 + 4 * k

/-- What a fill copies into the sideband of a sector: the scale words of the window that covers it, each with its code. -/
def State.framing (s : State) (pa : Nat) : List CW :=
  match s.fwins.find? fun kw => kw.2.covers pa with
  | some kw => (kw.2.scaleWords pa).map (s.phys.word false)
  | none => []

/-- A sector of memory with its poison bit set: every word of it takes code 15 (R97). -/
def State.lostWords (s : State) (pa : Nat) : State :=
  { s with phys := (List.range 16).foldl (fun p k =>
      let a := pa / 64 * 64 + 4 * k
      p.put false a (CW.poison (p.word false a).v)) s.phys }

/-- A sector fills into the cache, for the context that asked (R80, R86, R97, R320). -/
def State.fillSector (s : State) (l pa : Nat) (podc : Bool) : State :=
  let s := s.charge l (s.sectorRate pa podc)
  let s := if (s.poisoned.find (pa / 64)).isSome then s.lostWords pa else s
  { s with cache := s.cache.set (pa / 64) { dirty := false, ctx := 0, scales := s.framing pa } }

/-- An access to a sector: a fill is charged, a hit is not; a write marks the sector dirty for its context. An uncached access
allocates no line (R310). -/
def State.touch (s : State) (a pa : Nat) (podc unc write : Bool) : State :=
  let n := pa / 64
  let l := (s.seqOf a).ctx.launch
  let held := (s.cache.find n).isSome
  if unc && !held then s
  else
    let s := if held then s else s.fillSector l pa podc
    if write then { s with cache := s.cache.set n { s.cache.get { dirty := false, ctx := 0 } n with dirty := true, ctx := l } } else s

/-- At a write-back a sector's poison bit is written afresh from its words (R97). -/
def State.poisonBit (s : State) (pa : Nat) : State :=
  let bad := (List.range 16).any fun k => (s.phys.word false (pa / 64 * 64 + 4 * k)).c = 15
  { s with poisoned := if bad then s.poisoned.set (pa / 64) () else s.poisoned.del (pa / 64) }

/-- A dirty sector is written back; a launch that has retired leaves the charge to its queue (R320). -/
def State.writeBack (s : State) (pa : Nat) (podc : Bool) : State :=
  match s.cache.find (pa / 64) with
  | some c => if c.dirty then
      ({ s.charge c.ctx (s.sectorRate pa podc) with cache := s.cache.set (pa / 64) { c with dirty := false } } : State).poisonBit pa else s
  | none => s

/-- A sector leaves the cache, written back if it is dirty. -/
def State.dropSector (s : State) (pa : Nat) : State :=
  let s := s.writeBack pa false
  { s with cache := s.cache.del (pa / 64) }

/-- A store to a word of a scale region (R87): the element sectors whose scales it holds are written back if dirty, and their
framed copies are invalidated; the next fill gathers the new scales. -/
def State.scaleStore (s : State) (pa : Nat) : State :=
  s.fwins.foldl (fun s kw =>
    let w := kw.2
    let b := blockBytes w.fmt
    if w.enable && w.scale / 4 * 4 ≤ pa && pa < w.scale + w.size / b then
      let first := w.base + (pa - w.scale) * b
      (List.range ((4 * b + 63) / 64)).foldl (fun s k =>
        let e := first / 64 * 64 + 64 * k
        if w.covers e then s.dropSector e else s) s
    else s) s

/-! ### Stores into memory (R4, R87) -/

/-- The RO bits of the word at an offset of a region control block (R295), and of a launch record (R298). -/
def rcbRo (off : Nat) : BitVec 32 :=
  if off = 4 then 0x70
  else if (0x80 ≤ off && off < 0x90) || off = 0xC0 || (0xC8 ≤ off && off < 0xDC) || (0xE0 ≤ off && off < 0xEC) || off = 0xF0 || off = 0xF4
  then BitVec.allOnes 32 else 0

def recordRo (off : Nat) : BitVec 32 := if 0x60 ≤ off && off < 0x6C then BitVec.allOnes 32 else 0

/-- The bits of a word of memory that no store changes (R4): the RO fields of a block that the scheduler has read, those of the
record of a launch that has not retired, and the entries of the journal (R352). -/
def State.roBits (s : State) (pa : Nat) : BitVec 32 :=
  if Config.journalBase ≤ pa && pa < Config.journalBase + 64 * Config.journalSlots then BitVec.allOnes 32
  else if (s.sched.nodes.find (pa / 256 * 256)).isSome then rcbRo (pa % 256 / 4 * 4)
  else if s.sched.launches.any (fun kl => kl.2.record = pa / 128 * 128) then recordRo (pa % 128 / 4 * 4)
  else 0

/-- A word that software stores in memory, its read-only bits kept (R4). A block whose MAGIC is overwritten is one no more. -/
def State.putMemory (s : State) (pa : Nat) (cw : CW) : State :=
  let ro := s.roBits pa
  let v := ((s.phys.word false pa).v &&& ro) ||| (cw.v &&& ~~~ro)
  let s := { s with phys := s.phys.put false pa (if ro = 0 then cw else ⟨v, if cw.c = 15 then 15 else lcc v⟩) }
  let s := if (s.sched.nodes.find pa).isSome && cw.v != 0x5243_0001 then s.modSched fun c => { c with nodes := c.nodes.del pa } else s
  s.scaleStore pa

/-! ### The stash (R77, R82, R83) -/

/-- A word of stash; a stale granule reads zero (R40). -/
def Plot.word (p : Plot) (a : Nat) : CW :=
  let g := p.stash.get {} (a / 64)
  if g.tag = p.gen then g.ws.get CW.zero (a % 64 / 4) else CW.zero

def Plot.staleAt (p : Plot) (a : Nat) : Bool := (p.stash.get {} (a / 64)).tag != p.gen

/-- A word written into stash: a stale granule becomes zero first, and takes the generation (R41). -/
def Plot.put (p : Plot) (a : Nat) (w : CW) : Plot :=
  let g := p.stash.get {} (a / 64)
  let ws := if g.tag = p.gen then g.ws else []
  { p with stash := p.stash.set (a / 64) { tag := p.gen, ws := ws.set (a % 64 / 4) w } }

/-- Stale granules among bytes [a, a + n). -/
def Plot.anyStale (p : Plot) (a n : Nat) : Bool :=
  (List.range ((a + n + 63) / 64 - a / 64)).any fun k => p.staleAt (64 * (a / 64 + k))

/-- The token of bank b serves an access issued as number `id`: it is held, or was given up by a later BTGIVE (R181). -/
def Plot.holds (p : Plot) (id b : Nat) : Bool :=
  match p.banks.get .held b with
  | .held => true
  | .giving _ since => id < since
  | .away => false

/-- Orders 7 to 9 of R148 for bytes [a, a + n) of a plot's stash. -/
def Plot.localFault (p : Plot) (id a n : Nat) : Option Cause :=
  if n = 0 then none
  else if 0x20_0000 < a + n then some .space
  else if p.regions.any (fun r => 2 ≤ r.kind && r.base < a + n && a < r.base + r.size) then some .stashconf
  else if (List.range 16).any (fun b => !p.holds id b && 0x2_0000 * b < a + n && a < 0x2_0000 * (b + 1)) then some .btokbad
  else none

/-- The LOCAL checks for the current agent; a hub core has no stash (R77). -/
def State.localCheck (s : State) (a n : Nat) : Res Unit :=
  if isHub s.cur then trap .space (w64 a)
  else match (s.plot s.cur).localFault (s.plot s.cur).nextId a n with
    | some c => trap c (w64 a)
    | none => .ok ()

/-! ### WINDOW ranges (R84, R85) -/

def Window.length (w : Window) : Nat := w.size * 2 ^ w.j

/-- A byte address (55 bits significant) as a number. -/
def vaNum (va : Word) : Nat := va.toNat % 2 ^ 55

def State.winOf (s : State) (asid va : Nat) : Option Window :=
  s.windows.find? fun w => w.asid = asid && w.vbase ≤ va && va < w.vbase + w.length

/-- The place in the region of a range offset (R84). -/
def Window.place (w : Window) (va : Nat) : Nat := (va - w.vbase) % w.size / 64

def Window.sector (w : Window) (va : Nat) : Option WinSector :=
  match w.sectors.find (w.place va) with
  | some x => if x.va / 64 = va / 64 then some x else none
  | none => none

def State.setWindow (s : State) (w : Window) : State :=
  { s with windows := s.windows.map fun x => if x.owner = w.owner && x.base = w.base && x.asid = w.asid then w else x }

/-- The sixteen words of the sector at an address, as memory holds them. -/
def State.sectorWords (s : State) (pa : Nat) : List CW := (List.range 16).map fun k => s.phys.word false (pa / 64 * 64 + 4 * k)

/-- The sector as a fill finds it: of one that no cache holds, a set poison bit makes every word lost (R97). -/
def State.filled (s : State) (pa : Nat) : List CW :=
  let lost := (s.poisoned.find (pa / 64)).isSome && (s.cache.find (pa / 64)).isNone
  (s.sectorWords pa).map fun w => if lost then CW.poison w.v else w

/-- A dirty sector of a WINDOW range is written back to memory (R85, R320). -/
def State.writeSector (s : State) (w : WinSector) : State :=
  if w.dirty then
    let s := (List.range 16).foldl (fun s k => s.putMemory (w.pa + 4 * k) (w.words.getD k CW.zero)) s
    (s.charge w.ctxIx (s.sectorRate w.pa false)).poisonBit w.pa
  else s

/-- A sector takes its place in the region, for the context that asked; what stood there is written back. -/
def State.fillWindow (s : State) (w : Window) (l pa va : Nat) : State :=
  let k := w.place va
  let s := match w.sectors.find k with | some x => s.writeSector x | none => s
  let s := s.charge l (s.sectorRate pa false)
  let x : WinSector := { pa := pa / 64 * 64, va := va / 64 * 64, words := s.filled pa, dirty := false, ctxIx := l }
  s.setWindow { w with sectors := w.sectors.set k x }

/-- What the sectors of a range hold stands in its owner's stash, in granules of the generation (R41, R84). -/
def Plot.putWindow (p : Plot) (w : Window) : Plot :=
  w.sectors.foldl (fun p kx => (List.range 16).foldl (fun p i => p.put (w.base + 64 * kx.1 + 4 * i) (kx.2.words.getD i CW.zero)) p) p

/-- The owner writes its ranges back, and they return to the home slices (R85). -/
def State.closeWindows (s : State) (a : Nat) : State :=
  let mine := s.windows.filter (·.owner = a)
  let s := mine.foldl (fun s w => w.sectors.foldl (fun s kx => s.writeSector kx.2) s) s
  let s := if mine.isEmpty then s else s.modPlot a fun p => mine.foldl Plot.putWindow p
  { s with windows := s.windows.filter (·.owner != a) }

/-! ### Serialisation points (R81, R84, R106) -/

/-- The word that stands at the serialisation point of an address: the owning stash, this module's copy of a pod sector, or
the home. -/
def State.homeWord (s : State) (asid va pa : Nat) : CW :=
  match (s.winOf asid va).bind (·.sector va) with
  | some x => x.words.getD (pa % 64 / 4) CW.zero
  | none =>
    match s.fabric.lines.find (pa / 64) with
    | some l => l.words.getD (pa % 64 / 4) CW.zero
    | none => s.phys.word false pa

/-- A word performed at its serialisation point for the context l; on another module of the pod it has been performed by the
request that the home acknowledged (R362). -/
def State.homePut (s : State) (l asid va pa : Nat) (cw : CW) : State :=
  match s.winOf asid va, (s.winOf asid va).bind (·.sector va) with
  | some w, some x =>
    let x := { x with words := x.words.set (pa % 64 / 4) cw, dirty := true, ctxIx := l }
    s.setWindow { w with sectors := w.sectors.set (w.place va) x }
  | _, _ =>
    let here (s : State) : State := if s.homedHere pa then s.putMemory pa cw else s
    match s.fabric.lines.find (pa / 64) with
    | some x =>
      if 2 ≤ x.st then
        s.modFabric fun f => { f with lines := f.lines.set (pa / 64) { st := 3, words := x.words.set (pa % 64 / 4) cw } }
      else (here s).modFabric fun f => { f with lines := f.lines.set (pa / 64) { x with words := x.words.set (pa % 64 / 4) cw } }
    | none => here s

/-- An access that no WINDOW range serves touches the cache (R310, R320). -/
def State.touchAt (s : State) (a : Nat) (va : Word) (pa : Nat) (podc unc write : Bool) : State :=
  if (s.winOf (s.asidOf a) (vaNum va)).isSome then s else s.touch a pa podc unc write

/-- Physical memory as every home and owning stash has it: what a snapshot is taken of. -/
def State.coherent (s : State) : Phys :=
  s.windows.foldl (fun p w => w.sectors.foldl (fun p kx =>
    (List.range 16).foldl (fun p k => p.put false (kx.2.pa + 4 * k) (kx.2.words.getD k CW.zero)) p) p) s.phys

/-- A doubleword that a unit of the module reads by its physical address at the current moment (R105, R309): this module's
copy of a pod sector, or memory. -/
def State.currentDword (s : State) (pa : Nat) : Word :=
  (s.homeWord 65536 0 (pa + 4)).v ++ (s.homeWord 65536 0 pa).v

/-- The word of a publishable page on its visible face at the home (R110). -/
def State.visible (s : State) (pa : Nat) (podc : Bool) : CW :=
  if podc && !s.homedHere pa then s.homeWord 65536 0 pa else s.phys.word false pa

/-! ### What an agent sees (R99 to R105, R114) -/

/-- The key of a tract in the tables of deterministic launches and of barrier episodes. -/
def tractKey (c : Ctx) : Nat := c.launch * 16 + c.tract

/-- The bytes of a word whose latest stores the home keeps from the tract of agent a (R114). -/
def State.detBytes (s : State) (a pa : Nat) : List DetByte :=
  let c := (s.seqOf a).ctx
  if !c.det || isHub a then [] else (s.det.get [] (tractKey c)).filter fun b => pa ≤ b.pa && b.pa < pa + 4 && !b.passed

/-- They read as the tract's earlier value. -/
def detHide (l : List DetByte) (pa : Nat) (w : CW) : CW :=
  l.foldl (fun w b =>
    let k := b.pa - pa
    let v := mergeBytes w.v (BitVec.ofNat 32 (b.old.toNat * 2 ^ (8 * k))) (BitVec.ofNat 4 (2 ^ k))
    ⟨v, if b.oldCode = 15 then 15 else lcc v⟩) w

/-- Which of them a strand has written itself. -/
def detMask (l : List DetByte) (pa strandix : Nat) : BitVec 4 :=
  BitVec.ofNat 4 (l.foldl (fun n b => if b.writers.any (·.1 = strandix) then n ||| 2 ^ (b.pa - pa) else n) 0)

/-- The agent's own stores laid over a word, in program order (R102). -/
def overlay (l : List Store) (pa : Nat) (w : CW) : CW :=
  l.foldl (fun w st => if st.pa = pa then (mergeWord w st.data st.code st.mask).1 else w) w

/-- What a plain load finds (R102, R110): on a publishable page the visible face at the home; else the agent's own stores
over its snapshot; in a pod sector the snapshot is of the cached line. -/
def State.seenWord (s : State) (a : Nat) (t : Tlb) (pa : Nat) : CW :=
  if ptePub t.pte then s.visible pa (ptePodc t.pte)
  else
    let base := match (if ptePodc t.pte then s.fabric.lines.find (pa / 64) else none) with
      | some l => l.words.getD (pa % 64 / 4) CW.zero
      | none => (s.view a).snap.word false pa
    overlay (s.view a).stores pa (detHide (s.detBytes a pa) pa base)

/-- The own stores that count beside what the home holds: those not published, to an engine only the ones that a FENCE showed
it (R107); and of a published one the bytes that the home still keeps from the tract (R114). -/
def State.ownBeside (s : State) (a pa : Nat) (engine : Bool) : List Store :=
  let m := detMask (s.detBytes a pa) pa (s.seqOf a).ctx.strandix
  (s.view a).stores.filterMap fun st =>
    if st.published then (if st.mask &&& m = 0 then none else some { st with mask := st.mask &&& m })
    else if !engine || st.fenced then some st else none

/-- What a current load or an engine's read finds (R105, R179): the word at its serialisation point, with own stores over it. -/
def State.currentWord (s : State) (a : Nat) (t : Tlb) (va : Word) (pa : Nat) (engine : Bool) : CW :=
  if ptePub t.pte then s.visible pa (ptePodc t.pte)
  else overlay (s.ownBeside a pa engine) pa (detHide (s.detBytes a pa) pa (s.homeWord (s.asidOf a) (vaNum va) pa))

/-- A store enters the agent's own view (R99); the words of one instruction are a unit (R104). -/
def State.ownStore (s : State) (a : Nat) (t : Tlb) (va : Word) (pa : Nat) (mask : BitVec 4) (data : BitVec 32) (code : BitVec 4)
    (unit : Nat) : State :=
  let v := s.view a
  s.setView a { v with stores := v.stores ++ [{ id := v.nextId, va := va, pa := pa, mask := mask, data := data, code := code,
                                                podc := ptePodc t.pte, unc := pteMt t.pte = 1, big := t.big, unit := unit }],
                       nextId := v.nextId + 1 }

/-! ### Pod sectors (R362, R363) -/

/-- The answer of the directory that a unit waits for, if it is an error (R316, R344, R363). -/
def State.replyFor (s : State) (a unit sector : Nat) : Option Reply :=
  (s.seqOf a).replies.find? fun r => r.unit = unit && r.sector = sector

/-- What an error reply raises: OWNLOST names the sector too (R363). -/
def Reply.raise (r : Reply) (va : Word) : Raise :=
  { cause := r.cause, unit := r.unit, t0 := va, t1 := if r.cause == .ownlost then w64 (r.sector * 64) else 0 }

def State.dropReplies (s : State) (a unit : Nat) : State :=
  s.modSeqOf a fun q => { q with replies := q.replies.filter (·.unit != unit) }

/-- A byte mask of a sector as two words of a flit. -/
def maskWords (m : List Bool) : List CW :=
  if m.isEmpty then []
  else
    let half (o : Nat) : CW := CW.mk' (BitVec.ofNat 32 ((List.range 32).foldl (fun n k => if m.getD (o + k) false then n + 2 ^ k else n) 0))
    [half 0, half 32]

/-- A request of an access's kind waits for its answer. -/
def State.asked (s : State) (a unit kind sec : Nat) : Bool :=
  s.fabric.dirQ.any fun r => r.agent = a && r.unit = unit && r.sector = sec && r.kind % 10 = kind

/-- A request to the directory that homes a pod sector: queued here, or sent as a request flit to the home module. -/
def State.askDirectory (s : State) (a unit kind pa : Nat) (words : List CW) (mask : List Bool) : State :=
  let sec := pa / 64
  let home := s.podHome pa
  let f := s.fabric
  let mine := home = f.podIndex
  if s.asked a unit kind sec then s
  else
    let r : DirReq := { id := f.nextReq, kind := if mine then kind else 10 + kind, sector := sec, modl := f.podIndex,
                        agent := a, unit := unit, words := words, mask := mask }
    let fl : Flit := { dst := home, src := f.podIndex, typ := 0, seq := 0, ack := 0, target := sec, index := kind, req := f.nextReq,
                       part := (s.seqOf a).ctx.part, status := 0, payload := words ++ maskWords mask }
    s.modFabric fun f => { f with dirQ := f.dirQ ++ [r], nextReq := f.nextReq + 1, out := if mine then f.out else f.out ++ [fl] }

/-- This module's caches hold a pod sector in state 1 S, 2 E or 3 M. -/
def State.lineSt (s : State) (pa : Nat) : Nat := match s.fabric.lines.find (pa / 64) with | some l => l.st | none => 0

/-- An access of a unit's operation: the translation, the virtual and the physical address; how it reaches a pod sector, as
the request of that number would (9 needs no sector: a write into the agent's own view, or to a hidden face of this module);
and the words that a request to another module carries. -/
structure Access where
  t : Tlb
  va : Word
  pa : Nat
  kind : Nat
  ws : List CW := []
  mask : List Bool := []
  deriving Repr

/-- A pod sector is ready for an access: a shared copy for a fill, an exclusive one for an access as the owner; a write at the
home needs the entry in state I, or this module as the owner; a read that fills no cache the entry in state I, or a copy. -/
def State.podReady (s : State) (a unit : Nat) (x : Access) : Res State :=
  let sec := x.pa / 64
  match (if s.fabric.lostTo.contains (a, sec) then some { unit := unit, sector := sec, cause := Cause.ownlost } else s.replyFor a unit sec) with
  | some r => .error (.trap (r.raise x.va))
  | none =>
    let st := s.lineSt x.pa
    let idle := s.podHome x.pa = s.fabric.podIndex && st = 0 && (s.fabric.dir.get {} sec).st = 0
    let ready := match x.kind with
      | 0 => 1 ≤ st
      | 1 => 2 ≤ st
      | 2 => idle || 2 ≤ st
      | 4 => idle || 1 ≤ st
      | 9 => true
      | _ => false
    if ready || s.fabric.granted.contains (a * 16 + unit, x.kind, sec) then
      .ok (s.modFabric fun f => { f with granted := f.granted.filter (· != (a * 16 + unit, x.kind, sec)) })
    else waitFor (s.askDirectory a unit x.kind x.pa x.ws x.mask) a unit

/-- A home slice checks every access against the range of its context's partition (R315). -/
def State.homeRangeOk (s : State) (a pa : Nat) : Bool :=
  let g := s.rangeOf a
  isHub a || (s.seqOf a).ctx.launch = 0 || (g.1 ≤ pa && pa ≤ g.2)

/-- The touch of a WINDOW sector that waits for its fill. -/
def State.askWindow (s : State) (a : Nat) (w : Window) (va pa : Nat) : State :=
  let m : WinMiss := { owner := w.owner, vbase := w.vbase, offset := va - w.vbase, pa := pa / 64 * 64, ctx := (s.seqOf a).ctx.launch }
  if s.winMisses.any (fun x => x.owner = m.owner && x.vbase = m.vbase && x.offset / 64 = m.offset / 64) then s
  else { s with winMisses := s.winMisses ++ [m] }

/-- An access reaches its serialisation point: the links are up, a WINDOW sector has been filled, a pod sector is held. -/
def State.reach (s : State) (a unit : Nat) (x : Access) : Res State := do
  if !s.linkOk a x.pa then waitFor s a unit
  if x.kind = 9 then pure s
  else match s.winOf x.t.asid (vaNum x.va) with
    | some w => if (w.sector (vaNum x.va)).isSome then pure s else waitFor (s.askWindow a w (vaNum x.va) x.pa) a unit
    | none => if ptePodc x.t.pte then s.podReady a unit x else pure s

/-- The place of an access's WINDOW sector holds another sector that the same accesses need: the two cannot stand in the stash
at once, and the access evicts the other as it is made (R84). -/
def State.evicting (s : State) (l : List Access) (x : Access) : Option Window :=
  (s.winOf x.t.asid (vaNum x.va)).bind fun w =>
    match w.sector (vaNum x.va), w.sectors.find (w.place (vaNum x.va)) with
    | none, some y => if l.any (fun z => vaNum z.va / 64 = y.va / 64) then some w else none
    | _, _ => none

/-- What the accesses that cannot be made yet wait for is asked for; whether there is any. -/
def State.askAll (s : State) (a unit : Nat) (l : List Access) : State × Bool :=
  l.foldl (fun w x =>
    if (s.evicting l x).isSome && s.linkOk a x.pa then w
    else match w.1.reach a unit x with
      | .error (.stall t) => (t, true)
      | _ => w) (s, false)

/-- All the accesses are made at one instant. -/
def State.takeAll (s : State) (a unit : Nat) (l : List Access) : State :=
  l.foldl (fun s x =>
    match s.evicting l x with
    | some w => s.fillWindow w (s.seqOf a).ctx.launch x.pa (vaNum x.va)
    | none => match s.reach a unit x with | .ok t => t | .error _ => s) s

/-- The error replies that stand against the accesses: the sector, and what it raises. -/
def State.refusals (s : State) (a unit : Nat) (l : List Access) : List (Nat × Raise) :=
  l.filterMap fun x => match s.reach a unit x with
    | .error (.trap r) => some (x.pa / 64, r)
    | _ => none

/-- Every access of a list reaches its serialisation point, or none does and what is missing is asked for. -/
def State.reachAll (s : State) (a unit : Nat) (l : List Access) : Res State :=
  match s.refusals a unit l with
  | r :: _ => .error (.trap r.2)
  | [] =>
    let w := s.askAll a unit l
    if w.2 then .error (.stall w.1) else .ok (s.takeAll a unit l)

/-- How a plain load, a stream's or a tile's read reaches a page: it fills the cache, but not from an uncached or a publishable
page (R110, R362). -/
def loadKind (t : Tlb) : Nat := if ptePub t.pte || pteMt t.pte = 1 then 4 else 0

/-- How a write that a unit makes by itself reaches a page: to the hidden face of a publishable one at its home, else into the
strand's own view (R108, R110). -/
def State.writeKind (s : State) (t : Tlb) (pa : Nat) : Nat :=
  if ptePub t.pte && ptePodc t.pte && !s.homedHere pa then 8 else 9

/-- The words of a sector and its byte mask, put together from parts of words by their addresses. -/
def sectorParts (l : List (Nat × BitVec 4 × CW)) (sec : Nat) : List CW × List Bool :=
  let at_ (k : Nat) : CW × BitVec 4 := (l.filter fun y => y.1 = sec * 64 + 4 * k).foldl (fun r y =>
    if y.2.1 = 15 then (y.2.2, 15)
    else
      let v := mergeBytes r.1.v y.2.2.v y.2.1
      (⟨v, if r.1.c = 15 || y.2.2.c = 15 then 15 else lcc v⟩, r.2 ||| y.2.1)) (CW.zero, 0)
  let ws := (List.range 16).map at_
  (ws.map (·.1), ws.flatMap fun r => (List.range 4).map fun b => r.2.getLsbD b)

/-- The first bytes of the sectors that [a, a + n) touches. -/
def sectorsOf (a : Word) (n : Nat) : List Word :=
  (List.range ((a.toNat % 64 + n + 63) / 64)).map fun k => if k = 0 then a else (a >>> 6 <<< 6) + w64 (64 * k)

end Sys2Proof.Machine
end

