-- ==== Sys2Proof/Machine/Release.lean ====
section
/-! DEFINITION. Release and acquire boundaries, and how stores are performed at their homes (R99 to R114, R315, R341). -/

namespace Sys2Proof.Machine

/-! ### Who sees what (R98) -/

/-- Whether scope `c` of agent `b`'s release covers agent `a` (R98). -/
def State.covers (s : State) (b scope launch tract a : Nat) : Bool :=
  let x := (s.seqOf a).ctx
  if a = b then true
  else match scope with
    | 0 => false
    | 1 => !isHub a && !isHub b && x.launch = launch && x.tract = tract
    | 2 => !isHub a && acreOf a = acreOf b
    | _ => true

/-! ### A store performed at its home -/

/-- The bytes of a word that an arrival may perform: those on which no higher STRANDIX of the episode, or of a deterministic
tract since its last merge, has been performed (R113). -/
def State.yieldMask (s : State) (a pa : Nat) (mask : BitVec 4) (ep : Option Nat) : BitVec 4 :=
  let c := (s.seqOf a).ctx
  let el := match ep with | some e => s.epBytes.get [] e | none => []
  let dl := if c.det && !isHub a then s.det.get [] (tractKey c) else []
  let ok (k : Nat) : Bool :=
    mask.getLsbD k && !el.any (fun b => b.pa = pa + k && c.strandix < b.top) && !dl.any (fun b => b.pa = pa + k && c.strandix < b.top)
  BitVec.ofNat 4 ((if ok 0 then 1 else 0) + (if ok 1 then 2 else 0) + (if ok 2 then 4 else 0) + (if ok 3 then 8 else 0))

/-- What a deterministic tract's home keeps of a byte before a store lands on it, and who wrote it (R114). -/
def detNote (l : List DetByte) (pa : Nat) (old : CW) (k : Nat) (strandix : Nat) (va : Word) : List DetByte :=
  if l.any (·.pa = pa + k) then
    l.map fun b => if b.pa = pa + k then
      let b := if b.passed then { b with old := byteOf old.v k, oldCode := old.c, passed := false } else b
      { b with writers := if b.writers.any (·.1 = strandix) then b.writers else b.writers ++ [(strandix, va + w64 k)],
               top := Nat.max b.top strandix } else b
  else l ++ [{ pa := pa + k, old := byteOf old.v k, oldCode := old.c, writers := [(strandix, va + w64 k)], top := strandix }]

def epNote (l : List EpByte) (pa k strandix : Nat) : List EpByte :=
  if l.any (·.pa = pa + k) then l.map fun b => if b.pa = pa + k then { b with top := Nat.max b.top strandix } else b
  else l ++ [{ pa := pa + k, top := strandix }]

/-- The masked bytes of the word are noted in the tables of R113 and R114. -/
def State.noteLanding (s : State) (a : Nat) (va : Word) (pa : Nat) (old : CW) (mask : BitVec 4) (ep : Option Nat) : State :=
  let c := (s.seqOf a).ctx
  let ks := (List.range 4).filter fun k => mask.getLsbD k
  let dl := ks.foldl (fun l k => detNote l pa old k c.strandix va) (s.det.get [] (tractKey c))
  let s := if c.det && !isHub a then { s with det := s.det.set (tractKey c) dl } else s
  match ep with
  | some e => { s with epBytes := s.epBytes.set e (ks.foldl (fun l k => epNote l pa k c.strandix) (s.epBytes.get [] e)) }
  | none => s

/-- A write that every tract but `keep` sees stands on the masked bytes: the earlier values kept there are no longer shown. -/
def State.overrides (s : State) (keep : Option Nat) (pa : Nat) (mask : BitVec 4) : State :=
  { s with det := s.det.map fun kl => if keep = some kl.1 then kl else
      (kl.1, kl.2.map fun b => if pa ≤ b.pa && b.pa < pa + 4 && mask.getLsbD (b.pa - pa) then { b with passed := true } else b) }

/-- The tract that an agent's plain stores are kept from (R114). -/
def detTract (c : Ctx) (a : Nat) : Option Nat := if c.det && !isHub a then some (tractKey c) else none

/-- A pod sector that another module homes and this one does not own: its writes are performed there. -/
def State.elsewhere (s : State) (podc : Bool) (pa : Nat) : Bool := podc && !s.homedHere pa && s.lineSt pa < 2

/-- A store lands at its serialisation point: the bytes that do not yield are merged there (R113, R341); a part of a word
whose code fails leaves code 15 and an LCCHOME entry. -/
def State.land (s : State) (a : Nat) (st : Store) (ep : Option Nat) : State :=
  let c := (s.seqOf a).ctx
  let n := vaNum st.va
  let old := s.homeWord (s.asidOf a) n st.pa
  let m := s.yieldMask a st.pa st.mask ep
  let r := mergeWord old st.data st.code m
  let s := (s.noteLanding a st.va st.pa old st.mask ep).overrides (detTract c a) st.pa m
  if m = 0 || s.elsewhere st.podc st.pa then s
  else
    let s := (s.homePut c.launch (s.asidOf a) n st.pa r.1).touchAt a st.va st.pa st.podc st.unc true
    if r.2 then s.report (0x4000 + homeSlice st.pa) 0x13 1 0 (w64 st.pa) 0 c.launch else s

/-- The home slice remembers the release that last published into a sector (R378). -/
def State.tagSector (s : State) (a pa scope : Nat) : State :=
  let c := (s.seqOf a).ctx
  let g : SectorTag := { agent := a, scope := scope, at_ := s.tempo, launch := c.launch, tract := c.tract }
  s.modObs fun o => { o with sectorTags := o.sectorTags.set (pa / 64) g }

/-- A refused access of the home check is journalled (R315). -/
def State.homeCheckReport (s : State) (a pa : Nat) : State :=
  s.report (0x4000 + homeSlice pa) 0x0F 1 0 (w64 pa) 0 (s.seqOf a).ctx.launch

/-- A store of the agent's own is performed at its home, unless the home's check refuses it (R315). -/
def State.performStore (s : State) (a : Nat) (r : Release) (st : Store) : State :=
  if s.homeRangeOk a st.pa then (s.land a st r.episode).tagSector a st.pa r.scope else s.homeCheckReport a st.pa

/-- The stores that no publication has covered yet (R99). -/
def View.unpublished (v : View) : List Store := v.stores.filter fun st => !st.published

/-- The command or operation that made a store is complete (R108). -/
def Plot.storeDone (p : Plot) (st : Store) : Bool :=
  match st.src with
  | none => true
  | some k => !p.actors.any (·.id = k) && !p.ops.any (·.id = k) && (match st.tag with | some t => p.tagPend.get 0 t = 0 | none => true)

/-- The stores that a release boundary made now covers (R99, R108). -/
def State.coveredIds (s : State) (a : Nat) : List Nat := ((s.view a).unpublished.filter (s.plot a).storeDone).map (·.id)

def View.chosen (v : View) (ids : List Nat) : List Store := v.unpublished.filter fun st => ids.contains st.id

/-- A store after a publication of `now`: covered by it; or, older and not yet published, superseded on the bytes that it
wrote. -/
def Store.after (now : List Store) (st : Store) : Option Store :=
  if now.any (·.id = st.id) then some { st with published := true }
  else if st.published then some st
  else
    let m := now.foldl (fun m u => if u.pa = st.pa && st.id < u.id then m &&& ~~~u.mask else m) st.mask
    if m = 0 then none else some { st with mask := m }

/-- The tiles among published stores (R90, R109). -/
def tileUnits (now : List Store) (r : Release) (a : Nat) (c : Ctx) : List TileUnit :=
  let tiles := now.filter fun st => st.scope.isSome
  (tiles.map (·.unit)).eraseDups.map fun u =>
    let l := tiles.filter (·.unit = u)
    { words := l.map (·.pa), scope := (l.head?.bind (·.scope)).getD 0, rel := r.scope, agent := a, launch := c.launch, tract := c.tract }

/-- The stores of a publication are performed at their homes, in the agent's program order (R99). -/
def State.performAll (s : State) (a : Nat) (r : Release) : State :=
  let now := (s.view a).chosen r.ids
  let s := now.foldl (fun s st => s.performStore a r st) s
  let us := tileUnits now r a (s.seqOf a).ctx
  let s := { s with tiles := s.tiles.filter (fun (t : TileUnit) => !us.any (fun u => u.words = t.words)) ++ us }
  let v := s.view a
  s.setView a { v with stores := v.stores.filterMap (Store.after now) }

/-- The accesses that the stores of a publication make. One to a sector that another module homes carries what it writes. -/
def State.storeAccesses (s : State) (a : Nat) (ep : Option Nat) (l : List Store) : List Access :=
  l.map fun st =>
    let t : Tlb := { asid := s.asidOf a, vpn := 0, big := false, pte := if st.podc then 0x40 else 0 }
    let far := s.elsewhere st.podc st.pa
    let d := if far then sectorParts ((l.filter fun u => u.pa / 64 = st.pa / 64).map fun u =>
      (u.pa, s.yieldMask a u.pa u.mask ep, ⟨u.data, u.code⟩)) (st.pa / 64) else ([], [])
    { t := t, va := st.va, pa := st.pa, kind := 2, ws := d.1, mask := d.2 }

/-- Every store of a publication can reach its serialisation point now; otherwise what it waits for is asked for. A
deterministic tract first learns what stands at another module's home, and the requests sent there count at once (R113,
R114). -/
def State.storesReach (s : State) (a unit : Nat) (ep : Option Nat) (l : List Store) : Res State := do
  let far := l.filter fun st => s.elsewhere st.podc st.pa
  let old := if (detTract (s.seqOf a).ctx a).isNone then [] else
    (s.storeAccesses a ep (far.filter fun st => (s.fabric.lines.find (st.pa / 64)).isNone)).map fun x => { x with kind := 4 }
  let s ← if old.isEmpty then pure s else s.reachAll a unit old
  match s.reachAll a unit (s.storeAccesses a ep l) with
  | .error (.stall t) => .error (.stall (far.foldl (fun t st =>
      t.noteLanding a st.va st.pa (s.homeWord 65536 0 st.pa) st.mask ep) t))
  | r => r

/-- A home has refused the stores of an agent to the sector of an address: they are not performed, and the agent is told at its
next boundary (R316, R363). -/
def State.refuseStores (s : State) (a : Nat) (r : Raise) : State :=
  let v := s.view a
  let v := { v with stores := v.stores.filter fun st => st.published || st.va.toNat / 64 != r.t0.toNat / 64 }
  ((s.dropReplies a 9).setView a v).raiseAt a { r with unit := 9 }

/-! ### Release boundaries (R99, R100) -/

/-- A publication's stores are performed, and it is complete. -/
def State.publish (s : State) (a : Nat) (r : Release) : State :=
  let s := s.performAll a r
  let s := s.setView a { s.view a with rel := none }
  if r.quiet then s else s.modSeqOf a fun q => { q with released := true }

/-- A release by an instruction (R99, R100): with nothing to publish it is complete at once; otherwise the instruction stalls
until PUBLICATION has performed the stores. A release made for this instruction is not made again. -/
def State.releaseAt (s : State) (scope : Nat) (ep : Option Nat) : Res State :=
  let v := s.view s.cur
  let ids := s.coveredIds s.cur
  if s.seq.released || (v.rel.isNone && ids.isEmpty) then .ok s
  else if v.rel.isSome then stall s
  else stall (s.setView s.cur { v with rel := some { scope := scope, episode := ep, ids := ids } })

/-- Unpublished stores bound to the chosen ones: the rest of their units, and earlier stores to the same words (R104, R109). -/
def closeStores (l : List Store) : Nat → List Nat → List Nat
  | 0, ids => ids
  | n + 1, ids =>
    let more := (l.filter fun st => ids.contains st.id ||
      l.any fun u => ids.contains u.id && (u.unit = st.unit || (u.pa = st.pa && st.id < u.id))).map (·.id)
    if more.length = ids.length then ids else closeStores l n more

/-- The agent's own unpublished stores that an atomic or an addition meets are published before it (R106, R109), whole units
at a time: at once where their homes can be reached, else by a PUBLICATION that the access waits for. -/
def State.publishTouched (s : State) (a unit scope : Nat) (hit : Store → Bool) : Res State :=
  let v := s.view a
  let l := v.unpublished
  let ids := closeStores l l.length ((l.filter hit).map (·.id))
  if ids.isEmpty then .ok s
  else
    let r : Release := { scope := scope, episode := none, ids := ids, quiet := true }
    match s.storesReach a 9 none (v.chosen ids) with
    | .ok s => .ok (s.performAll a r)
    | .error (.trap x) => .error (.trap x)
    | .error (.stall _) => waitFor (if v.rel.isSome then s else s.setView a { v with rel := some r }) a unit

/-! ### Acquire boundaries (R101, R102) -/

/-- What stays of an own store after an acquire boundary: a published one only on the bytes that the home still keeps from the
tract (R114). -/
def State.keptStore (s : State) (a : Nat) (st : Store) : Option Store :=
  if !st.published then some st
  else
    let m := st.mask &&& detMask (s.detBytes a st.pa) st.pa (s.seqOf a).ctx.strandix
    if m = 0 then none else some { st with mask := m }

/-- The snapshot is taken afresh from the homes; own stores that were published are in it. -/
def State.refresh (s : State) (a : Nat) : State :=
  let v := s.view a
  s.setView a { v with snap := s.coherent, stores := v.stores.filterMap (s.keptStore a) }

/-- An acquire boundary (R101, R102). -/
def State.acquire (s : State) (a : Nat) : State := (s.refresh a).modSeqOf a fun q => { q with lastAcq := s.tempo }

/-- PHASEID counts (R155). -/
def State.countRelease (s : State) : State := s.modSeq fun q => { q with phaseRel := q.phaseRel + 1 }
def State.countAcquire (s : State) : State := s.modSeq fun q => { q with phaseAcq := q.phaseAcq + 1 }

/-! ### Writes of streams and engines (R108 to R110) -/

/-- What makes a write: a command or operation by its number, its tag, and of a tile the number of its unit and its scope. -/
structure Writer where
  src : Option Nat := none
  tag : Option Nat := none
  unit : Option Nat := none
  scope : Option Nat := none

/-- An engine's or stream's word is performed: on the hidden face of a publishable page at once (R110; at a home on another
module its request has performed it); else it counts as a store of the strand, which the strand's own reads and engines see
from now on, and which a release publishes once the command is complete (R108). -/
def State.engineWord (s : State) (a : Nat) (t : Tlb) (va : Word) (pa : Nat) (w : CW) (mask : BitVec 4) (by_ : Writer) : State :=
  if ptePub t.pte then
    if ptePodc t.pte && !s.homedHere pa then s
    else ({ s with phys := s.phys.put true pa (mergeWord (s.phys.word true pa) w.v w.c mask).1 } : State).touchAt a va pa (ptePodc t.pte) false true
  else
    let v := s.view a
    let st : Store := { id := v.nextId, va := va, pa := pa, mask := mask, data := w.v, code := w.c, podc := ptePodc t.pte,
                        unc := pteMt t.pte = 1, big := t.big, fenced := true, unit := by_.unit.getD v.nextId, src := by_.src, tag := by_.tag, scope := by_.scope }
    let again (x : Store) : Bool := !x.published && x.pa = pa && mask = 15 && x.src = by_.src && x.src.isSome
    s.setView a { v with stores := v.stores.filter (fun x => !again x) ++ [st], nextId := v.nextId + 1 }

/-- A tag is used afresh after it had come to zero: what was issued on it before is complete (R108). -/
def State.freshTag (s : State) (a : Nat) (t : Option Nat) : State :=
  match t with
  | none => s
  | some k =>
    if (s.plot a).tagPend.get 0 k != 0 || (s.view a).stores.all (·.tag != t) then s
    else s.setView a { s.view a with stores := (s.view a).stores.map fun st => if st.tag = t then { st with tag := none } else st }

/-! ### PUBLICATION -/

/-- The words that enter a snapshot together with those given: of every tile that covers the agent, all or none (R90, R109). -/
def closeTiles (tiles : List (List Nat)) : Nat → List Nat → List Nat
  | 0, ws => ws
  | n + 1, ws =>
    match tiles.find? fun t => t.any ws.contains && !t.all ws.contains with
    | none => ws
    | some t => closeTiles tiles n (ws ++ t.filter fun w => !ws.contains w)

/-- A racing publication enters the snapshot of agent b (R103): the aligned doubleword at a physical address as its home has
it (R104), with the tiles that it is part of. -/
def State.enterUnit (s : State) (b pa : Nat) : State :=
  let tiles := (s.tiles.filter fun t => s.covers t.agent t.scope t.launch t.tract b && s.covers t.agent t.rel t.launch t.tract b).map (·.words)
  let ws := closeTiles tiles tiles.length [pa / 8 * 8, pa / 8 * 8 + 4]
  let home := s.coherent
  let v := s.view b
  s.setView b { v with snap := ws.foldl (fun p a => p.put false a (home.word false a)) v.snap }

/-- PUBLICATION (R99, R103, R341): the publication that agent a has begun is performed, if its stores can reach their homes.
One that the directory refuses raises its cause before the instruction, which is then made again (R363). Each pair
(agent, address) lets a racing publication enter that agent's snapshot: in this event alone, by whole units (the model's choice,
log entry 71). -/
def State.publication (s : State) (a : Nat) (entering : List (Nat × Nat)) : State :=
  let s := match (s.view a).rel with
    | none => s
    | some r =>
      match s.storesReach a 9 r.episode ((s.view a).chosen r.ids) with
      | .ok s => s.publish a r
      | .error (.stall s) => s
      | .error (.trap x) =>
        let s := ((s.dropReplies a 9).setView a { s.view a with rel := none }).raiseAt a { x with unit := 9 }
        s.modSeqOf a fun q => { q with stalled := false }
  entering.foldl (fun s p => s.enterUnit p.1 p.2) s

end Sys2Proof.Machine
end

