-- ==== Sys2Proof/Machine/Scalar.lean ====
section
/-! DEFINITION. Classes 0x0 and 0x1: scalar integer instructions (R133 to R140). -/

namespace Sys2Proof.Machine

/-! ### What the two classes share -/

/-- STAT.ISAT set (R43). -/
def State.noteSat (s : State) : State := s.modSeq fun q => { q with isat := true }

/-- Sat64 (R134). -/
def sat64 (x : Int) : Int := if x > 2 ^ 63 - 1 then 2 ^ 63 - 1 else if x < -2 ^ 63 then -2 ^ 63 else x

/-- An instruction that reads the registers `srcs` and writes `v` to `sd` (R133). -/
def State.scalar (s : State) (word : Word) (srcs : List (BitVec 5)) (sd : BitVec 5) (v : Word) : Out :=
  settle s (do
    s.sources word srcs
    pure (s.setReg sd v).retire)

/-- The same for an exact result that .SAT clamps and that otherwise wraps (R133, R134). -/
def State.scalarExact (s : State) (word : Word) (srcs : List (BitVec 5)) (sd : BitVec 5) (sat : Bool) (x : Int) : Out :=
  settle s (do
    s.sources word srcs
    if sat && sat64 x != x then pure ((s.setReg sd (BitVec.ofInt 64 (sat64 x))).noteSat).retire
    else pure (s.setReg sd (BitVec.ofInt 64 x)).retire)

/-- Signed and unsigned division with the corner cases of R63. -/
def divS (a b : Word) : Word := if b = 0 then BitVec.allOnes 64 else BitVec.ofInt 64 (a.toInt.tdiv b.toInt)
def modS (a b : Word) : Word := if b = 0 then a else BitVec.ofInt 64 (a.toInt.tmod b.toInt)
def divU (a b : Word) : Word := if b = 0 then BitVec.allOnes 64 else BitVec.ofNat 64 (a.toNat / b.toNat)
def modU (a b : Word) : Word := if b = 0 then a else BitVec.ofNat 64 (a.toNat % b.toNat)

def flag (b : Bool) : Word := if b then 1 else 0

/-- Bit counts and reversal (R136). -/
def leadingZeros (v : Word) : Nat := ((List.range 64).find? fun i => v.getLsbD (63 - i)).getD 64
def trailingZeros (v : Word) : Nat := ((List.range 64).find? fun i => v.getLsbD i).getD 64
def ones (v : Word) : Nat := (List.range 64).foldl (fun n i => if v.getLsbD i then n + 1 else n) 0
def reversed (v : Word) : Word := v.reverse

/-- Bits [w − 1 : 0], extended to 64 bits. -/
def zext (v : Word) (w : Nat) : Word := w64 (v.toNat % 2 ^ w)
def sext (v : Word) (w : Nat) : Word :=
  let n := v.toNat % 2 ^ w
  BitVec.ofInt 64 (if 2 ^ (w - 1) ≤ n then (n : Int) - 2 ^ w else n)

/-- BFX and BFI (R137). -/
def bitExtract (v : Word) (lsb w : Nat) : Word := (v >>> lsb) &&& w64 (2 ^ w - 1)
def bitInsert (old v : Word) (lsb w : Nat) : Word :=
  let m := w64 ((2 ^ w - 1) * 2 ^ lsb)
  (old &&& ~~~m) ||| ((v <<< lsb) &&& m)

/-- The registers of a group of n from r (R138). -/
def group (r : BitVec 5) (n : Nat) : List (BitVec 5) := (List.range n).map fun i => r + BitVec.ofNat 5 i

/-- A group copied, every source read first. -/
def State.copyGroup (s : State) (sd sa : BitVec 5) (n : Nat) : State :=
  (List.range n).foldl (fun t i => t.setReg (sd + BitVec.ofNat 5 i) (s.reg (sa + BitVec.ofNat 5 i))) s

/-! ### Class 0x0 (R136) -/

/-- ADD. -/
def execAdd (x : S3) (s : State) : Out :=
  s.scalarExact (encode (.add x)) [x.sa, x.sb] x.sd (x.mod.getLsbD 0)
    ((s.reg x.sa).toInt + (s.reg x.sb).toInt)

/-- SUB. -/
def execSub (x : S3) (s : State) : Out :=
  s.scalarExact (encode (.sub x)) [x.sa, x.sb] x.sd (x.mod.getLsbD 0)
    ((s.reg x.sa).toInt - (s.reg x.sb).toInt)

/-- MUL. -/
def execMul (x : S3) (s : State) : Out :=
  s.scalarExact (encode (.mul x)) [x.sa, x.sb] x.sd (x.mod.getLsbD 0)
    ((s.reg x.sa).toInt * (s.reg x.sb).toInt)

/-- MULH: the high half of the signed product. -/
def execMulh (x : S3) (s : State) : Out :=
  s.scalar (encode (.mulh x)) [x.sa, x.sb] x.sd (BitVec.ofInt 64 ((s.reg x.sa).toInt * (s.reg x.sb).toInt / 2 ^ 64))

/-- MULHU: the high half of the unsigned product. -/
def execMulhu (x : S3) (s : State) : Out :=
  s.scalar (encode (.mulhu x)) [x.sa, x.sb] x.sd (BitVec.ofNat 64 ((s.reg x.sa).toNat * (s.reg x.sb).toNat / 2 ^ 64))

/-- DIV (R63). -/
def execDiv (x : S3) (s : State) : Out :=
  s.scalar (encode (.div x)) [x.sa, x.sb] x.sd (divS (s.reg x.sa) (s.reg x.sb))

/-- DIVU (R63). -/
def execDivu (x : S3) (s : State) : Out :=
  s.scalar (encode (.divu x)) [x.sa, x.sb] x.sd (divU (s.reg x.sa) (s.reg x.sb))

/-- MOD (R63). -/
def execMod (x : S3) (s : State) : Out :=
  s.scalar (encode (.mod x)) [x.sa, x.sb] x.sd (modS (s.reg x.sa) (s.reg x.sb))

/-- MODU (R63). -/
def execModu (x : S3) (s : State) : Out :=
  s.scalar (encode (.modu x)) [x.sa, x.sb] x.sd (modU (s.reg x.sa) (s.reg x.sb))

/-- AND. -/
def execAnd (x : S3) (s : State) : Out :=
  s.scalar (encode (.and x)) [x.sa, x.sb] x.sd ((s.reg x.sa) &&& (s.reg x.sb))

/-- OR. -/
def execOr (x : S3) (s : State) : Out :=
  s.scalar (encode (.or x)) [x.sa, x.sb] x.sd ((s.reg x.sa) ||| (s.reg x.sb))

/-- XOR. -/
def execXor (x : S3) (s : State) : Out :=
  s.scalar (encode (.xor x)) [x.sa, x.sb] x.sd ((s.reg x.sa) ^^^ (s.reg x.sb))

/-- ANDN. -/
def execAndn (x : S3) (s : State) : Out :=
  s.scalar (encode (.andn x)) [x.sa, x.sb] x.sd ((s.reg x.sa) &&& ~~~(s.reg x.sb))

/-- SHL: sb[5:0] counts. -/
def execShl (x : S3) (s : State) : Out :=
  s.scalar (encode (.shl x)) [x.sa, x.sb] x.sd ((s.reg x.sa) <<< (bits (s.reg x.sb) 0 6))

/-- SHR. -/
def execShr (x : S3) (s : State) : Out :=
  s.scalar (encode (.shr x)) [x.sa, x.sb] x.sd ((s.reg x.sa) >>> (bits (s.reg x.sb) 0 6))

/-- SRA. -/
def execSra (x : S3) (s : State) : Out :=
  s.scalar (encode (.sra x)) [x.sa, x.sb] x.sd ((s.reg x.sa).sshiftRight (bits (s.reg x.sb) 0 6))

/-- ROL. -/
def execRol (x : S3) (s : State) : Out :=
  s.scalar (encode (.rol x)) [x.sa, x.sb] x.sd ((s.reg x.sa).rotateLeft (bits (s.reg x.sb) 0 6))

/-- MIN, signed. -/
def execMin (x : S3) (s : State) : Out :=
  s.scalar (encode (.min x)) [x.sa, x.sb] x.sd (if (s.reg x.sb).slt (s.reg x.sa) then (s.reg x.sb) else (s.reg x.sa))

/-- MAX, signed. -/
def execMax (x : S3) (s : State) : Out :=
  s.scalar (encode (.max x)) [x.sa, x.sb] x.sd (if (s.reg x.sa).slt (s.reg x.sb) then (s.reg x.sb) else (s.reg x.sa))

/-- MINU. -/
def execMinu (x : S3) (s : State) : Out :=
  s.scalar (encode (.minu x)) [x.sa, x.sb] x.sd (if (s.reg x.sb).ult (s.reg x.sa) then (s.reg x.sb) else (s.reg x.sa))

/-- MAXU. -/
def execMaxu (x : S3) (s : State) : Out :=
  s.scalar (encode (.maxu x)) [x.sa, x.sb] x.sd (if (s.reg x.sa).ult (s.reg x.sb) then (s.reg x.sb) else (s.reg x.sa))

/-- SLT. -/
def execSlt (x : S3) (s : State) : Out :=
  s.scalar (encode (.slt x)) [x.sa, x.sb] x.sd (flag ((s.reg x.sa).slt (s.reg x.sb)))

/-- SLTU. -/
def execSltu (x : S3) (s : State) : Out :=
  s.scalar (encode (.sltu x)) [x.sa, x.sb] x.sd (flag ((s.reg x.sa).ult (s.reg x.sb)))

/-- SEQ. -/
def execSeq (x : S3) (s : State) : Out :=
  s.scalar (encode (.seq x)) [x.sa, x.sb] x.sd (flag ((s.reg x.sa) == (s.reg x.sb)))

/-- SEL. -/
def execSel (x : S3) (s : State) : Out :=
  s.scalar (encode (.sel x)) [x.sa, x.sb, x.sc] x.sd (if (s.reg x.sc) != 0 then (s.reg x.sa) else (s.reg x.sb))

/-- MADD: one clamp at the end. -/
def execMadd (x : S3) (s : State) : Out :=
  s.scalarExact (encode (.madd x)) [x.sa, x.sb, x.sc] x.sd (x.mod.getLsbD 0)
    ((s.reg x.sa).toInt * (s.reg x.sb).toInt + (s.reg x.sc).toInt)

/-- ADDSH: k in mod [6:1]. -/
def execAddsh (x : S3) (s : State) : Out :=
  s.scalarExact (encode (.addsh x)) [x.sa, x.sb] x.sd (x.mod.getLsbD 0)
    ((s.reg x.sa).toInt + (s.reg x.sb).toInt * 2 ^ (bits x.mod 1 6))

/-- CLZ. -/
def execClz (x : S3) (s : State) : Out :=
  s.scalar (encode (.clz x)) [x.sa] x.sd (w64 (leadingZeros (s.reg x.sa)))

/-- CTZ. -/
def execCtz (x : S3) (s : State) : Out :=
  s.scalar (encode (.ctz x)) [x.sa] x.sd (w64 (trailingZeros (s.reg x.sa)))

/-- POPC. -/
def execPopc (x : S3) (s : State) : Out :=
  s.scalar (encode (.popc x)) [x.sa] x.sd (w64 (ones (s.reg x.sa)))

/-- BREV. -/
def execBrev (x : S3) (s : State) : Out :=
  s.scalar (encode (.brev x)) [x.sa] x.sd (reversed (s.reg x.sa))

/-- SEXT: mod [5:0] is w − 1. -/
def execSext (x : S3) (s : State) : Out :=
  s.scalar (encode (.sext x)) [x.sa] x.sd (sext (s.reg x.sa) (bits x.mod 0 6 + 1))

/-- ZEXT. -/
def execZext (x : S3) (s : State) : Out :=
  s.scalar (encode (.zext x)) [x.sa] x.sd (zext (s.reg x.sa) (bits x.mod 0 6 + 1))

/-- BFX: mod [5:0] lsb, [11:6] w − 1 (R137). -/
def execBfx (x : S3) (s : State) : Out :=
  s.scalar (encode (.bfx x)) [x.sa] x.sd (bitExtract (s.reg x.sa) (bits x.mod 0 6) (bits x.mod 6 6 + 1))

/-- BFI: sd is also a source (R137). -/
def execBfi (x : S3) (s : State) : Out :=
  s.scalar (encode (.bfi x)) [x.sd, x.sa] x.sd (bitInsert (s.reg x.sd) (s.reg x.sa) (bits x.mod 0 6) (bits x.mod 6 6 + 1))

/-- MOVM: mod [4:0] is n − 1 (R138); an exact overlap reads nothing. -/
def execMovm (x : S3) (s : State) : Out :=
  let n := bits x.mod 0 5 + 1
  let word := encode (.movm x)
  settle s (do
    need (x.sd.toNat + n ≤ 32 && x.sa.toNat + n ≤ 32) .grpwrap word
    need (x.sd = x.sa || x.sd.toNat + n ≤ x.sa.toNat || x.sa.toNat + n ≤ x.sd.toNat) .grpovl word
    if x.sd = x.sa then pure s.retire
    else
      s.sources word (group x.sa n)
      pure (s.copyGroup x.sd x.sa n).retire)

/-! ### Class 0x1 (R139, R140) -/

/-- ADDI. -/
def execAddi (x : SI) (s : State) : Out :=
  s.scalarExact (encode (.addi x)) [x.sa] x.sd (x.mod.getLsbD 0) ((s.reg x.sa).toInt + (sx x.imm).toInt)

/-- MULI. -/
def execMuli (x : SI) (s : State) : Out :=
  s.scalarExact (encode (.muli x)) [x.sa] x.sd (x.mod.getLsbD 0) ((s.reg x.sa).toInt * (sx x.imm).toInt)

/-- ANDI. -/
def execAndi (x : SI) (s : State) : Out :=
  s.scalar (encode (.andi x)) [x.sa] x.sd ((s.reg x.sa) &&& (sx x.imm))

/-- ORI. -/
def execOri (x : SI) (s : State) : Out :=
  s.scalar (encode (.ori x)) [x.sa] x.sd ((s.reg x.sa) ||| (sx x.imm))

/-- XORI. -/
def execXori (x : SI) (s : State) : Out :=
  s.scalar (encode (.xori x)) [x.sa] x.sd ((s.reg x.sa) ^^^ (sx x.imm))

/-- SHLI. -/
def execShli (x : SI) (s : State) : Out :=
  s.scalar (encode (.shli x)) [x.sa] x.sd ((s.reg x.sa) <<< (bits x.imm 0 6))

/-- SHRI. -/
def execShri (x : SI) (s : State) : Out :=
  s.scalar (encode (.shri x)) [x.sa] x.sd ((s.reg x.sa) >>> (bits x.imm 0 6))

/-- SRAI. -/
def execSrai (x : SI) (s : State) : Out :=
  s.scalar (encode (.srai x)) [x.sa] x.sd ((s.reg x.sa).sshiftRight (bits x.imm 0 6))

/-- SLTI. -/
def execSlti (x : SI) (s : State) : Out :=
  s.scalar (encode (.slti x)) [x.sa] x.sd (flag ((s.reg x.sa).slt (sx x.imm)))

/-- SLTIU. -/
def execSltiu (x : SI) (s : State) : Out :=
  s.scalar (encode (.sltiu x)) [x.sa] x.sd (flag ((s.reg x.sa).ult (sx x.imm)))

/-- SEQI. -/
def execSeqi (x : SI) (s : State) : Out :=
  s.scalar (encode (.seqi x)) [x.sa] x.sd (flag ((s.reg x.sa) == (sx x.imm)))

/-- LI. -/
def execLi (x : SI) (s : State) : Out :=
  s.scalar (encode (.li x)) [] x.sd ((sx x.imm))

/-- LIH: the low half of sd is kept, and is a source. -/
def execLih (x : SI) (s : State) : Out :=
  s.scalar (encode (.lih x)) [x.sd] x.sd (x.imm ++ (s.reg x.sd).extractLsb' 0 32)

/-- LEA: a byte offset in the code image (R140). -/
def execLea (x : SI) (s : State) : Out :=
  s.scalar (encode (.lea x)) [] x.sd (s.seq.pc + (sx x.imm))

end Sys2Proof.Machine
end

