-- ==== Sys2Proof/Machine/Control.lean ====
section
/-! DEFINITION. Class 0x4: control (R141 to R146). -/

namespace Sys2Proof.Machine

/-! ### Shared operations -/

/-- The target of a relative transfer (R120, R141): offsets count instructions from the transferring one. -/
def State.relative (s : State) (off : BitVec 32) : Word := s.seq.pc + (sx off <<< 3)

/-- A conditional branch (R141). -/
def State.branchIf (s : State) (word : Word) (x : SB) (c : Bool) : Out :=
  settle s (do
    s.sources word [x.sa, x.sb]
    pure (if c then s.branchTo (s.relative x.off) else s.retire))

/-- HALT's wait is over (R7): no unretired actor, stream command or engine operation. That it waits for the markers in the queues
too, one whose port never brings its token among them, is the model's choice (log entry 74). -/
def Plot.drained (p : Plot) : Bool :=
  p.actors.all (fun x => match x.instr with | .vtos _ => x.fired != 0 | _ => false) && p.ops.isEmpty

/-- The strand ends with its levels discarded (R36, R144, R145). -/
def State.endStrand (s : State) : State :=
  s.modSeq fun q => { q.settled with run := .ended, uloops := [], sloops := [] }

/-- A request held for the strand is honoured at a pre-emption point (R146, R329): a drain or a save parks it; an
exhausted RCB becomes an EQUOTA exception, delivered there. A strand in supervisor mode is not pre-empted. -/
def State.honour (s : State) : State :=
  let q := s.seq
  if q.mode = 1 then s
  else if q.mode = 0 && (q.req.drain || q.req.save) then s.modSeq fun q => { q with run := .parked }
  else match q.req.quota with
    | some r => s.modSeq fun q => { q with req := { q.req with quota := none }, pend := q.pend ++ [{ cause := .equota, t0 := w64 r }] }
    | none => s

def Request.pending (r : Request) : Bool := r.drain || r.save || r.quota.isSome

/-- PROGRESS adds one to the point in the current window of every trial that runs on the strand (R146, R376). -/
def Trial.progress (t : Trial) (launch strandix id : Nat) : Trial :=
  if t.launch = launch && t.lo ≤ strandix && strandix ≤ t.hi then
    let bump (m : NMap Nat) : NMap Nat :=
      (List.range 4).foldl (fun m k => if t.pp.getD k 0xFFFF = id then m.set k ((m.get 0 k + 1) % 2 ^ 32) else m) m
    if t.exper then { t with expCnt := bump t.expCnt } else { t with baseCnt := bump t.baseCnt }
  else t

def State.progress (s : State) (id : Nat) : State :=
  let c := s.seq.ctx
  if isHub s.cur || id = 0xFFFF then s
  else s.modObs fun o => { o with trials := o.trials.map fun t => t.progress c.launch c.strandix id }

/-! ### Meanings -/

/-- BEQ. -/
def execBeq (x : SB) (s : State) : Out := s.branchIf (encode (.beq x)) x (s.reg x.sa == s.reg x.sb)

/-- BNE. -/
def execBne (x : SB) (s : State) : Out := s.branchIf (encode (.bne x)) x (s.reg x.sa != s.reg x.sb)

/-- BLT. -/
def execBlt (x : SB) (s : State) : Out := s.branchIf (encode (.blt x)) x ((s.reg x.sa).slt (s.reg x.sb))

/-- BGE. -/
def execBge (x : SB) (s : State) : Out := s.branchIf (encode (.bge x)) x (!(s.reg x.sa).slt (s.reg x.sb))

/-- BLTU. -/
def execBltu (x : SB) (s : State) : Out := s.branchIf (encode (.bltu x)) x ((s.reg x.sa).ult (s.reg x.sb))

/-- BGEU. -/
def execBgeu (x : SB) (s : State) : Out := s.branchIf (encode (.bgeu x)) x (!(s.reg x.sa).ult (s.reg x.sb))

/-- J. -/
def execJ (x : SB) (s : State) : Out := .next (s.branchTo (s.relative x.off))

/-- JAL: the link is written before the fetch at the target (R141). -/
def execJal (x : SB) (s : State) : Out := .next ((s.setReg 31 (s.seq.pc + 8)).callTo (s.relative x.off))

/-- JALR reads sa first, then writes the link (R142). -/
def execJalr (x : SB) (s : State) : Out :=
  settle s (do
    s.sources (encode (.jalr x)) [x.sa]
    pure ((s.setReg x.sb (s.seq.pc + 8)).callTo (s.reg x.sa + (sx x.off <<< 3))))

/-- LOOP (R143). -/
def execLoop (x : SB) (s : State) : Out :=
  let word := encode (.loop x)
  let n := s.reg x.sa
  let stop := s.relative x.off
  let ls := s.seq.loops
  settle s (do
    need (0 < x.off.toInt) .rsvfld word
    need (n.toNat ≤ 0xFFFFFFFF) .cfgbad word
    need (ls.length < 2 || n = 0) .loopnest word
    need (!ls.any (fun l => l.stop.toNat < stop.toNat)) .loopnest word
    s.sources word [x.sa]
    if n = 0 then pure (s.callTo (stop + 8))
    else
      let l : LoopLevel := { start := s.seq.pc + 8, stop := stop, cnt := n.toNat }
      pure ((s.modSeq fun q => q.setLoops (l :: ls)).callTo (s.seq.pc + 8)))

/-- HALT (R7, R36, R145): it waits, releases at system scope, and the strand ends. -/
def execHalt (s : State) : Out :=
  settle s (do
    if isHub s.cur || (s.plot s.cur).drained then
      let s ← s.releaseAt 5 none
      pure (s.closeWindows s.cur).endStrand
    else stall s)

/-- NOP. -/
def execNop (s : State) : Out := .next s.retire

/-- YIELD: with a request held for the strand it waits until that is honoured (R146). -/
def execYield (s : State) : Out :=
  if s.seq.req.pending && s.seq.mode = 0 then .next s.honour.stalledAt else .next s.retire

/-- PROGRESS (R146, R376). -/
def execProgress (x : SB) (s : State) : Out := .next (s.progress (bits x.off 0 16)).retire

end Sys2Proof.Machine
end

