-- ==== Sys2Proof/Machine/Hub.lean ====
section
/-! DEFINITION. The registers in hub and management space (R78, R354, R361, R363, R367, R378, R379, R397). -/

namespace Sys2Proof.Machine

def regSnptmo : Nat := hubSpace + 0x2000
def regRetry : Nat := hubSpace + 0x2008
def regRingBase : Nat := hubSpace + 0x2018
def regRingSize : Nat := hubSpace + 0x2020
def regRingOver : Nat := hubSpace + 0x2028
def regCollPath : Nat := hubSpace + 0x2030
def regPodRanges : Nat := hubSpace + 0x3000
def regScope : Nat := hubSpace + 0x4000
def regJournal : Nat := hubSpace + 0x1000

/-- SNPTMO takes a value from 10 to 10,000 with no other bit set; any other store is ignored (R363). -/
def State.setSnptmo (s : State) (v : Word) : State :=
  if 10 ≤ v.toNat ∧ v.toNat ≤ 10000 then s.modFabric fun f => { f with snptmo := v.toNat } else s

/-- The retry threshold and window of every UCIe link (R367). -/
def State.setRetryCfg (s : State) (v : Word) : State := s.modFabric fun f => { f with retryCfg := v }

/-- A word of a pod range (R361). -/
def State.setPodRange (s : State) (i word : Nat) (v : Word) : State :=
  let r := s.fabric.podRanges.get {} i
  let r : PodRange := if word = 0 then { r with w0 := v &&& 0x000F_FFFF_E000_0000 } else { r with w1 := v &&& 0x8000_000F_007F_FFFF }
  s.modFabric fun f => { f with podRanges := f.podRanges.set i r }

/-- The collective path register: a store that sets a reserved bit is ignored (R397). -/
def State.setCollPath (s : State) (v : Word) : State :=
  if v &&& ~~~0x33#64 = 0 then s.modFabric fun f => { f with collPath := v } else s

/-- A control word of the scope checker (R378). -/
def State.setScopeCtl (s : State) (k : Nat) (v : Word) : State :=
  s.modObs fun o => { o with scopeCtl := o.scopeCtl.set k (v &&& 0x8000_0000_0001_FFFF) }

/-- The trace ring's base (0), size (1) and overflow count (2) (R379). -/
def State.setRing (s : State) (which : Nat) (v : Word) : State :=
  s.modObs fun o =>
    if which = 0 then { o with ringBase := v, ringPos := 0 }
    else if which = 1 then { o with ringSize := v, ringPos := 0 }
    else { o with ringOver := v }

/-- A register that has no behaviour of its own keeps what is stored (R78). -/
def State.setPlain (s : State) (pa : Nat) (v : Word) : State := { s with hubRegs := s.hubRegs.set (pa / 8) v }

/-- Core c's window submits the eight doublewords standing there as a journal report (R354). A kind below 0x80 is dropped. -/
def State.submitEntry (s : State) (c : Nat) : Option State :=
  let d (k : Nat) : Word := s.hubRegs.get 0 ((regJournal + 0x40 * c) / 8 + k)
  if bits (d 2) 16 8 < 0x80 then none
  else
    let r : Report := { tempo := if d 1 = 0 then s.tempo else d 1, unit := (d 2).extractLsb' 0 16, kind := (d 2).extractLsb' 16 8,
                        sev := (d 2).extractLsb' 24 8, cause := (d 2).extractLsb' 32 32, addr := d 3, syn0 := d 4, syn1 := d 5,
                        launch := (d 6).extractLsb' 0 32 }
    some (s.modObs fun o => { o with journal := { o.journal with queue := o.journal.queue ++ [r] } })

/-- A doubleword written by agent `a` to a window of the journal: only its own core may, and the last doubleword submits. -/
def State.journalStore (s : State) (a pa : Nat) (v : Word) : Option State :=
  let c := (pa - regJournal) / 0x40
  if a != hubAgent c then none
  else
    let s := s.setPlain pa v
    if (pa - regJournal) % 0x40 = 0x38 then s.submitEntry c else some s

/-- A doubleword of hub space written by agent `a`; none is a PROTW. -/
def State.hubStore (s : State) (a pa : Nat) (v : Word) : Option State :=
  if regJournal ≤ pa ∧ pa < regJournal + 0x40 * 32 then s.journalStore a pa v
  else if pa = regSnptmo then some (s.setSnptmo v)
  else if pa = regRetry then some (s.setRetryCfg v)
  else if pa = regRingBase then some (s.setRing 0 v)
  else if pa = regRingSize then some (s.setRing 1 v)
  else if pa = regRingOver then some (s.setRing 2 v)
  else if pa = regCollPath then (if isHub a then some (s.setCollPath v) else none)
  else if regPodRanges ≤ pa ∧ pa < regPodRanges + 16 * 64 then some (s.setPodRange ((pa - regPodRanges) / 16) ((pa - regPodRanges) / 8 % 2) v)
  else if regScope ≤ pa ∧ pa < regScope + 8 * 64 then some (s.setScopeCtl ((pa - regScope) / 8) v)
  else some (s.setPlain pa v)

/-- A doubleword of hub space as agent `a` reads it; none is a PROTR. -/
def State.hubLoad (s : State) (a pa : Nat) : Option Word :=
  if pa = regSnptmo then some (w64 s.fabric.snptmo)
  else if pa = regRetry then some s.fabric.retryCfg
  else if pa = regRingBase then some s.obs.ringBase
  else if pa = regRingSize then some s.obs.ringSize
  else if pa = regRingOver then some s.obs.ringOver
  else if pa = regCollPath then (if isHub a then some s.fabric.collPath else none)
  else if regPodRanges ≤ pa ∧ pa < regPodRanges + 16 * 64 then
    let r := s.fabric.podRanges.get {} ((pa - regPodRanges) / 16)
    some (if (pa - regPodRanges) / 8 % 2 = 0 then r.w0 else r.w1)
  else if regScope ≤ pa ∧ pa < regScope + 8 * 64 then some (s.obs.scopeCtl.get 0 ((pa - regScope) / 8))
  else some (s.hubRegs.get 0 (pa / 8))

end Sys2Proof.Machine
end

