-- ==== Sys2Proof/Machine/Tree.lean ====
section
/-! DEFINITION. The region control block tree (R294 to R297) and the record and replay log (R369 to R372). -/

namespace Sys2Proof.Machine

/-! ### Region control blocks -/

/-- `n` bytes of the RCB at `r`. -/
def State.rcb (s : State) (r off n : Nat) : Nat := s.phys.num (r + off) n

def State.setRcb (s : State) (r off n v : Nat) : State := { s with phys := s.phys.putNum (r + off) n (v % 256 ^ n) }

def State.rcbKind (s : State) (r : Nat) : Nat := s.rcb r 4 1 % 8

/-- The node itself and the nodes above it, towards the root. -/
def State.path (s : State) (r : Nat) : List Nat := s.ancestors 8 r

/-- The node whose fields of group g are effective at `r` (R296). -/
def State.eff (s : State) (r g : Nat) : Nat :=
  ((s.path r).find? fun n => (s.rcb n 8 2).testBit g).getD Config.rootRcb

/-- The partition above a node: the nearest of kind 1. -/
def State.partitionOf (s : State) (r : Nat) : Nat := ((s.path r).find? fun n => s.rcbKind n = 1).getD 0

/-- Effective flags (R295, R296). -/
def State.effDet (s : State) (r : Nat) : Bool := (s.rcb (s.eff r 1) 6 1).testBit 0
def State.effRec (s : State) (r : Nat) : Bool := (s.rcb (s.eff r 1) 6 1).testBit 1
def State.effRep (s : State) (r : Nat) : Bool := (s.rcb (s.eff r 1) 6 1).testBit 2
def State.effStrict (s : State) (r : Nat) : Bool := (s.rcb (s.eff r 2) 6 1).testBit 3
def State.effStatus (s : State) (r : Nat) : Bool := (s.rcb (s.eff r 3) 6 1).testBit 4
def State.effFdom (s : State) (r : Nat) : Nat := s.rcb (s.eff r 4) 6 1 / 32 % 4
def State.effWdog (s : State) (r : Nat) : Nat := s.rcb (s.eff r 9) 0x34 4

/-- The limit of a budget at a node, where the node sets its group. A budget limits the use beneath its node (R296). -/
def State.limitAt (s : State) (n group off len : Nat) : Option Nat :=
  if (s.rcb n 8 2).testBit group then some (s.rcb n off len) else none

/-- There is room for `k` more of a resource at every node of the path; `used` is where the use stands. -/
def State.roomFor (s : State) (r group off len used ulen k : Nat) : Bool :=
  (s.path r).all fun n => match s.limitAt n group off len with
    | some m => s.rcb n used ulen + k ≤ m
    | none => true

/-- The use at every node of the path moves by k. -/
def State.useMore (s : State) (r used ulen k : Nat) : State :=
  (s.path r).foldl (fun s n => s.setRcb n used ulen (s.rcb n used ulen + k)) s

def State.useLess (s : State) (r used ulen k : Nat) : State :=
  (s.path r).foldl (fun s n => s.setRcb n used ulen (s.rcb n used ulen - k)) s

/-! ### The log -/

/-- An entry of the record log (R369), with its index. -/
structure LogEnt where
  ix : Nat
  lord : Nat
  kind : Nat
  strandix : Nat
  tempo : Word
  key : Nat
  value : Word

/-- Entry i of the log at `base`. -/
def State.logEntry (s : State) (base i : Nat) : LogEnt :=
  let a := base + 32 * i
  { ix := i, lord := s.phys.num a 4, kind := s.phys.num (a + 4) 1, strandix := s.phys.num (a + 6) 2, tempo := s.phys.dword (a + 8),
    key := s.phys.num (a + 16) 8, value := s.phys.dword (a + 24) }

/-- Kinds 2 to 5 and 10 stand in one stream per strand, 6 to 8 in one per key, 1 and 9 in one per launch. The keys of 7 and 8
are frames, those of 6 names (log entry 25). -/
def byStrand (kind : Nat) : Bool := (2 ≤ kind && kind ≤ 5) || kind = 10
def byLocation (kind : Nat) : Bool := 6 ≤ kind && kind ≤ 8
def locClass (kind : Nat) : Nat := if kind = 8 then 7 else kind

def LogEnt.inStream (e : LogEnt) (ordinal kind strandix key : Nat) : Bool :=
  if byStrand kind then byStrand e.kind && e.strandix = strandix && e.lord = ordinal
  else if byLocation kind then byLocation e.kind && locClass e.kind = locClass kind && e.key = key
  else e.kind = kind && e.lord = ordinal

def locKey (node kind key : Nat) : Nat := (node * 16 + locClass kind) * 2 ^ 64 + key

/-- How many entries of a stream have been taken. -/
def State.taken (s : State) (l : Launch) (node kind strandix key : Nat) : Nat :=
  if byLocation kind then s.sched.logHeads.get 0 (locKey node kind key)
  else l.logNext.get 0 (if byStrand kind then strandix else 0x10000 + kind)

def State.take1 (s : State) (l : Launch) (node kind strandix key : Nat) : State :=
  let n := s.taken l node kind strandix key + 1
  if byLocation kind then s.modSched fun c => { c with logHeads := c.logHeads.set (locKey node kind key) n }
  else s.modLaunch l.id fun l => { l with logNext := l.logNext.set (if byStrand kind then strandix else 0x10000 + kind) n }

/-- The next entry of a stream in replay. -/
def State.nextEntry (s : State) (l : Launch) (kind strandix key : Nat) : Option LogEnt :=
  let node := s.eff l.rcb 12
  let es := (List.range (s.rcb node 0x70 8 / 32)).map (s.logEntry (s.rcb node 0x68 8))
  (es.filter fun e => e.inStream l.ordinal kind strandix key)[s.taken l node kind strandix key]?

/-- A launch fails (R326): all its strands, and under an effective FDOM of 3 every launch beneath the job. -/
def State.failLaunch (s : State) (launch : Nat) (c : Cause) : State :=
  let fdom := match s.launch? launch with | some l => s.effFdom l.rcb | none => 0
  let l := s.domainLaunches launch fdom
  (s.failWhere c.code fun y => l.contains y.launch).stopLaunches c.code l

/-- REPDIV (R372): the tick of the failing entry and its index; the launch fails. -/
def State.diverge (s : State) (launch : Nat) (tick : Word) (ix : Nat) : State :=
  (s.raiseSup .repdiv tick (w64 ix)).failLaunch launch .repdiv

/-- An entry is appended to the log; none when it is full (R370). -/
def State.appendLog (s : State) (l : Launch) (kind strandix : Nat) (key value : Word) : Option State :=
  let node := s.eff l.rcb 12
  let used := s.rcb node 0xF0 8
  if s.rcb node 0x70 8 < used + 32 then none
  else
    let a := s.rcb node 0x68 8 + used
    let p := s.phys.putNum a 4 (l.ordinal % 2 ^ 32)
    let p := p.putNum (a + 4) 4 (kind % 256 + strandix % 65536 * 65536)
    let p := (p.putDword (a + 8) s.tempo).putDword (a + 16) key
    some ({ s with phys := p.putDword (a + 24) value }.setRcb node 0xF0 8 (used + 32))

/-- RECFULL on the module supervisor, with the launch's RCB: once for a length of the log, until the supervisor lets a strand of
the launch go on (R370). -/
def State.recFull (s : State) (rcb : Nat) : State :=
  let size := s.rcb (s.eff rcb 12) 0x70 8
  if s.sched.logFull.find rcb = some size then s
  else (s.raiseSup .recfull (w64 rcb)).modSched fun c => { c with logFull := c.logFull.set rcb size }

/-- What record or replay makes of a decision: it stands; in replay it is forced to the logged value; it cannot be taken
now; it diverges. -/
inductive Decision where
  | free (s : State)
  | forced (s : State) (e : LogEnt)
  | full (s : State)
  | diverged (s : State)

/-- A decision of kind `kind` for a launch (R369 to R372). In replay the entry is not yet taken. At a location the value is the
issuer, and an entry of another issuer is no divergence: this one waits (R371). -/
def State.decide (s : State) (launch kind strandix : Nat) (key value : Word) : Decision :=
  match s.launch? launch with
  | none => .free s
  | some l =>
    if s.effRep l.rcb then
      match s.nextEntry l kind strandix key.toNat with
      | none => .diverged (s.diverge launch s.tempo (s.rcb (s.eff l.rcb 12) 0x70 8 / 32))
      | some e =>
        if e.kind = kind || (byLocation kind && e.value != value) then .forced s e else .diverged (s.diverge launch e.tempo e.ix)
    else if s.effRec l.rcb then
      match s.appendLog l kind strandix key value with
      | some t => .free t
      | none => .full (s.recFull l.rcb)
    else .free s

/-- The entry that a forced decision followed has been taken. -/
def State.tookEntry (s : State) (launch kind strandix : Nat) (key : Word) : State :=
  match s.launch? launch with
  | none => s
  | some l => s.take1 l (s.eff l.rcb 12) kind strandix key.toNat

/-- The issuer as VALUE writes it: STRANDIX and launch ordinal; a hub core or host is all ones (R369). -/
def State.issuer (s : State) (a : Nat) : Word :=
  if isHub a then BitVec.allOnes 64
  else match s.launch? (s.seqOf a).ctx.launch with
    | some l => w64 ((s.seqOf a).ctx.strandix % 65536 + l.ordinal % 2 ^ 32 * 65536)
    | none => BitVec.allOnes 64

/-- A launch waits under replay while nothing of it moves: it diverges (R372). -/
def State.stuckLaunch (s : State) (launch : Nat) : Bool :=
  match s.launch? launch with
  | none => false
  | some l => (l.tracts.flatMap Tract.plots).all fun a =>
      let q := s.seqOf a
      (q.stalled || q.run != .running) && (s.plot a).actors.isEmpty && (s.plot a).ops.isEmpty

/-- The current strand stops where its log is full (R370). -/
def State.stopFull (s : State) : State := s.modSeq fun q => { q with run := .exhausted }

/-- A strand's own decision (kinds 2 to 5 and 10): the state after it, with what replay forces. -/
def State.strandDecision (s : State) (kind : Nat) (value : Word) (key : Word := 0) : Res (State × Option Word) :=
  let c := s.seq.ctx
  match s.decide c.launch kind c.strandix key value with
  | .free t => .ok (t, none)
  | .forced t e => .ok (t, some e.value)
  | .full t => .error (.stall t.stopFull.stalledAt)
  | .diverged t => .error (.stall t)

/-- A decision at a location (kinds 6 to 8) by an issuer: it stands, and in replay has taken its entry; or it is `forced` to wait,
since the entry belongs to another issuer (R371). -/
def State.atLocation (s : State) (launch kind : Nat) (key issuer : Word) : Decision :=
  match s.decide launch kind 0xFFFF key issuer with
  | .forced t e => if e.value = issuer then .free (t.tookEntry launch kind 0xFFFF key) else .forced t e
  | d => d

/-- An instruction's own decision at a location: it is performed, or the instruction waits for its turn, or for the log. -/
def State.locationDecision (s : State) (launch kind : Nat) (key : Word) : Res State :=
  match s.atLocation launch kind key (s.issuer s.cur) with
  | .free t => .ok t
  | .forced t e =>
    if !isHub s.cur && t.stalledAt.stuckLaunch launch then .error (.stall (t.stalledAt.diverge launch e.tempo e.ix))
    else .error (.stall t.stalledAt)
  | .full t => .error (.stall (if isHub s.cur then t.stalledAt else t.stopFull.stalledAt))
  | .diverged t => .error (.stall t)

/-- Decisions of a unit at several locations: all of them stand, or none does and the unit waits. -/
def State.atLocations (s : State) (launch kind : Nat) (issuer : Word) (keys : List Word) : Except State State :=
  let next (r : Decision) (k : Word) : Decision := match r with | .free t => t.atLocation launch kind k issuer | d => d
  match keys.foldl next (.free s) with
  | .free t => .ok t
  | .forced _ _ => .error s
  | .full _ => .error (match s.launch? launch with | some l => s.recFull l.rcb | none => s)
  | .diverged t => .error t

end Sys2Proof.Machine
end

