-- ==== Sys2Proof/Machine/Fetch.lean ====
section
/-! DEFINITION. Fetching an instruction, instruction boundaries, and the order of boundary exceptions (R115, R282, R283,
R310, R329). -/

namespace Sys2Proof.Machine

/-! ### Fetch (R115, R131 orders 1 and 2) -/

/-- The word that a hub core fetches: through its translation, with X (R310, R311). Every failure is IFETCH. -/
def State.hubFetch (s : State) : Res Word :=
  let pc := s.seq.pc
  let va := s.seq.codeBase + pc
  match s.translate s.cur 0 va 2 with
  | .ok t =>
    let pa := t.pa va
    let lo := s.seenWord s.cur t pa
    let hi := s.seenWord s.cur t (pa + 4)
    if (CW.check lo).isSome || (CW.check hi).isSome then trap .ifetch pc else .ok (hi.v ++ lo.v)
  | .error (.trap _) => trap .ifetch pc
  | .error (.stall t) => .error (.stall t)

/-- The word at the current agent's PC. -/
def State.fetch (s : State) : Res Word := do
  let pc := s.seq.pc
  need (pc.toNat % 8 = 0) .ialign pc
  if isHub s.cur then s.hubFetch
  else
    let p := s.plot s.cur
    need (pc.toNat < p.codeLen && !p.codeBad.contains (pc.toNat / 8)) .ifetch pc
    pure (p.code.get 0 (pc.toNat / 8))

/-- The instruction at the current agent's PC, if there is one. -/
def State.atPc (s : State) : Option Instr :=
  match s.fetch with
  | .ok w => (match decodeWord w with | .ok i => some i | .error _ => none)
  | .error _ => none

/-! ### Pre-emption points and boundaries -/

/-- The instructions whose stall is a pre-emption point (R145, R146, R166, R181, R223, R258, R293, R329): a stalled one is
executed afresh, so a boundary stands before it. -/
def preemptible : Instr → Bool
  | .yield | .halt | .cbclose => true
  | .tagwaitany _ | .tagwaitall _ | .tagclr _ | .cbwait _ | .barwait _ | .bar _ | .evwait _ | .launch _ | .seed _ => true
  | .bttake _ | .vtos _ | .isample _ | .iflags _ | .mbox _ => true
  | _ => false

/-- The wait of a barrier instruction is over: its episode is done, and the instruction ends before the next boundary (R114). -/
def Seq.waitOver (q : Seq) : Instr → Bool
  | .bar x => (q.joined.find (bits x.imm 0 4)).any (·.done)
  | .barwait x => (q.joined.find (bits x.imm 0 4)).any (·.done)
  | _ => false

/-- A boundary stands before the instruction: it has not begun, or it stalls at a pre-emption point. -/
def State.atBoundary (s : State) (i : Option Instr) : Bool :=
  !s.seq.stalled || (match i with | some i => preemptible i && s.seq.answer.isNone && !s.seq.waitOver i | none => true)

/-- The pending exceptions that may be delivered next: of the generators' causes only the lowest generator's (R325), and
the head of the messages as MBOX (R293). -/
def Seq.candidates (q : Seq) : List Raise :=
  let gens := q.pend.filter fun r => 1 ≤ r.unit && r.unit ≤ 4
  let lowest := gens.foldl (fun m r => Nat.min m r.unit) 5
  q.pend.filter (fun r => !(1 ≤ r.unit && r.unit ≤ 4) || r.unit = lowest) ++ q.mail.take 1

/-- The one with the lowest cause code is delivered (R283), of one cause that of the lowest unit (R59). -/
def Seq.nextRaise (q : Seq) : Option Raise :=
  q.candidates.foldl (fun (m : Option Raise) r =>
    match m with
    | none => some r
    | some x =>
      let k (r : Raise) : Nat := r.cause.code.toNat * 16 + r.unit
      if k r < k x then some r else some x) none

/-- A boundary exception is pending (SSTAT.PEND, R280). -/
def Seq.hasPending (q : Seq) : Bool := !q.candidates.isEmpty

/-- The exception is no longer pending. -/
def Seq.dropRaise (q : Seq) (r : Raise) : Seq :=
  if r.cause == .mbox && q.mail.head? == some r then { q with mail := q.mail.tail } else { q with pend := q.pend.erase r }

/-- Boundary exceptions are delivered to a running sequencer, not while a handler is active (R283), nor during a drain or a
save (R331). -/
def Seq.delivers (q : Seq) : Bool := q.run == .running && q.mode != 2 && !q.inh && !q.req.drain && !q.req.save

/-- A stall of a pre-emption point, or an escalated request, lets the request take effect (R329); debug mode is such a point
for an EQUOTA request. -/
def State.mayHonour (s : State) (i : Option Instr) : Bool :=
  s.seq.mode = 2 && s.seq.req.quota.isSome || s.seq.req.pending && s.seq.mode = 0 &&
    ((match i with | some i => preemptible i && (s.seq.stalled || i == .halt) | none => false) || s.seq.req.escalated && !s.seq.stalled)

end Sys2Proof.Machine
end

