-- ==== Sys2Proof/Machine/Walk.lean ====
section
/-! DEFINITION. Page walks and TLBs (R309 to R314), and the background scrubber (R318). -/

namespace Sys2Proof.Machine

/-- How a walk ends: at a leaf, or at the first failing check with its level and the entry as read (R311). -/
inductive WalkEnd where
  | leaf (t : Tlb) (addr : Nat)
  | fail (cause : Cause) (level : Nat) (pte : Word)
  deriving DecidableEq, Repr

/-- Reserved bits of an entry, or MT 3 (R310, R311 order 2). -/
def pteBad (e : Word) : Bool := bits e 13 3 != 0 || bits e 52 12 != 0 || pteMt e = 3

def pteLeaf (e : Word) : Bool := pteR e || pteW e || pteX e

/-- A pointer uses only V and BASE (R310). -/
def pointerBad (e : Word) : Bool := bits e 1 12 != 0

/-- The blocked tier-1 range (R78). -/
def blockedTier1 (pa : Nat) : Bool := 0x0090_0000_0000 ≤ pa && pa < 0x0120_0000_0000

/-- AFF outside the blocked range, or PUB or PODC with MT ≠ 0 (R311 order 2). -/
def leafBad (e : Word) : Bool :=
  (e.getLsbD 7 && !blockedTier1 (pteBase e)) || ((ptePub e || ptePodc e) && pteMt e != 0)

/-- A page or table of n bytes lies in the partition's range (R315). -/
def inRange (pbase plimit a n : Nat) : Bool := pbase ≤ a && a + n - 1 ≤ plimit

/-- Orders 3 to 6 at a leaf. -/
def State.leafCheck (s : State) (pbase plimit : Nat) (t : Tlb) (level kind : Nat) (user : Bool) (va : Word) : Option WalkEnd :=
  let e := t.pte
  let size := if t.big then 2 ^ 29 else 65536
  let base := if t.big then bits e 29 23 * 2 ^ 29 else pteBase e
  let k := s.popKind (t.pa va)
  let bad : Option Word :=
    if !inRange pbase plimit base size || k = 0 || (!ptePodc e && !s.homedHere base) then some 0
    else if k = 3 && (pteU e || pteMt e != 1) then some e
    else if user && !pteU e then some e
    else if !(if kind = 0 then pteR e else if kind = 1 then pteW e else pteX e) then some e
    else none
  bad.map fun p => WalkEnd.fail (noAccess kind) level p

/-- A table of the walk stands in memory of the module inside the range (R309). -/
def State.tableOk (s : State) (pbase plimit a : Nat) : Bool :=
  inRange pbase plimit a 65536 && (s.popKind a = 1 || s.popKind a = 2)

/-- The walk of R309 for a page, checks in the order of R311; entries are read as current reads. -/
def State.walkEnd (s : State) (asid root pbase plimit vpn kind : Nat) (user : Bool) : WalkEnd :=
  let va := w64 (vpn * 65536)
  let tr := noTrans kind
  if !s.tableOk pbase plimit root then .fail (noAccess kind) 0 0
  else
    let a0 := root + 8 * (vpn / 2 ^ 26 % 8192)
    let e0 := s.currentDword a0
    if !pteV e0 || pteBad e0 || pteLeaf e0 || pointerBad e0 then .fail tr 0 e0
    else if !s.tableOk pbase plimit (pteBase e0) then .fail (noAccess kind) 0 0
    else
      let a1 := pteBase e0 + 8 * (vpn / 8192 % 8192)
      let e1 := s.currentDword a1
      if !pteV e1 || pteBad e1 then .fail tr 1 e1
      else if pteLeaf e1 then
        if bits e1 16 13 != 0 || leafBad e1 then .fail tr 1 e1
        else
          let t : Tlb := { asid := asid, vpn := vpn, big := true, pte := e1 }
          (s.leafCheck pbase plimit t 1 kind user va).getD (.leaf t a1)
      else if pointerBad e1 then .fail tr 1 e1
      else if !s.tableOk pbase plimit (pteBase e1) then .fail (noAccess kind) 1 0
      else
        let a2 := pteBase e1 + 8 * (vpn % 8192)
        let e2 := s.currentDword a2
        if !pteV e2 || pteBad e2 || leafBad e2 then .fail tr 2 e2
        else
          let t : Tlb := { asid := asid, vpn := vpn, big := false, pte := e2 }
          (s.leafCheck pbase plimit t 2 kind user va).getD (.leaf t a2)

/-- An entry written at its home as an atomic writes it. -/
def State.putEntry (s : State) (a : Nat) (e : Word) : State :=
  (s.homePut 0 65536 0 a (CW.mk' (e.extractLsb' 0 32))).homePut 0 65536 0 (a + 4) (CW.mk' (e.extractLsb' 32 32))

/-- A and D are set in the entry before the first access through the leaf (R312). -/
def State.walk (s : State) (asid root pbase plimit vpn kind : Nat) (user : Bool) : WalkEnd × State :=
  match s.walkEnd asid root pbase plimit vpn kind user with
  | .leaf t a =>
    let e := t.pte ||| (if kind = 1 then 0xC00 else 0x400)
    (.leaf { t with pte := e } a, if e = t.pte then s else s.putEntry a e)
  | r => (r, s)

/-- A translation enters the acre's TLB, or the hub core's. -/
def State.fillTlb (s : State) (k : Nat) (t : Tlb) : State :=
  let x := s.acre k
  let l := (x.tlb.filter fun u => !u.covers t.asid t.vpn) ++ [t]
  let l := l.drop (l.length - 16384)
  s.setAcre k { x with tlb := l }

/-- A translation enters a plot's micro-TLB of 64 entries. -/
def Plot.fillTlb (p : Plot) (t : Tlb) : Plot :=
  let l := (p.utlb.filter fun u => !u.covers t.asid t.vpn) ++ [t]
  let l := l.drop (l.length - 64)
  { p with utlb := l }

/-- What a walk finds for one of its requesters: a translation for the TLBs, or the fault that its own access meets. -/
def State.answerWalk (s : State) (m : Miss) (r : MissReq) : State :=
  match s.walk m.asid m.root m.pbase m.plimit m.vpn r.kind r.user with
  | (.leaf t _, s) =>
    let s := s.fillTlb m.acre t
    if isHub r.agent then s else s.modPlot r.agent fun p => p.fillTlb t
  | (.fail c level pte, s) =>
    s.modSeqOf r.agent fun q => { q with faults := q.faults ++ [{ unit := r.unit, vpn := m.vpn, cause := c, t1 := walkBits level r.kind r.user, t2 := pte }] }

/-- PAGE_WALK (R309, R311 to R313): one of the acre's 32 walkers, which take misses in arrival order, ends its walk of the i-th
waiting miss; every coalesced requester has its result. -/
def execPageWalk (s : State) : Out :=
  match s.misses[s.evt.a]? with
  | none => .next s
  | some m =>
    if 32 ≤ ((s.misses.take s.evt.a).filter (·.acre = m.acre)).length then .next s
    else
      let t := m.reqs.foldl (fun s r => s.answerWalk m r) s
      .next { t with misses := t.misses.eraseIdx s.evt.a }

/-- Two ranges overlap; an empty one overlaps nothing. -/
def overlaps (a n b m : Nat) : Bool := 0 < n && 0 < m && a < b + m && b < a + n

/-- A 55-bit number as a virtual address (R76). -/
def vaWord (n : Nat) : Word := (BitVec.ofNat 55 n).signExtend 64

/-- Where a page of an address space stands, for units that translate on their own (the loader, Gyord messages, the format
windows): the walk of the partition's tables without a TLB. -/
def State.flatWalk (s : State) (part : Nat) (va : Word) (kind : Nat) (user : Bool) : Except Cause (Nat × Word) :=
  let p := s.phys
  if !canonical va then .error (noTrans kind)
  else match s.walkEnd 0 (p.num (part + 0x48) 8) (p.num (part + 0x50) 8) (p.num (part + 0x58) 8) (vpnOf va) kind user with
    | .leaf t _ => .ok (t.pa va, t.pte)
    | .fail c _ _ => .error c

/-- A sequencer's register that is stale becomes zero; its tag stays (R318). -/
def Seq.scrubReg (q : Seq) (gen : BitVec 16) (r : Nat) : Seq :=
  match q.regs.find r with
  | some x => if x.tag = gen then q else { q with regs := q.regs.set r { x with val := 0 } }
  | none => q

/-- Stale data of a plot become zero, with code 0; their tags stay (R318): 0 a granule, 2 a vector accumulator, 3 a matrix
accumulator, 4 a weight slot, 5 an integrator, 6 a carry entry, by number. -/
def Plot.scrubStale (p : Plot) (kind n : Nat) : Plot :=
  match kind with
  | 0 => match p.stash.find n with
    | some x => if x.tag = p.gen then p else { p with stash := p.stash.set n { x with ws := [] } }
    | none => p
  | 2 => match p.va.find n with
    | some x => if x.tag = p.gen then p else { p with va := p.va.set n { tag := x.tag } }
    | none => p
  | 3 => match p.accs.find n with
    | some x => if x.tag = p.gen then p else { p with accs := p.accs.set n { x with els := [] } }
    | none => p
  | 4 => match p.wslots.find n with
    | some x => if x.tag = p.gen then p else { p with wslots := p.wslots.set n { x with ws := [], scales := [], scaleBad := [] } }
    | none => p
  | 5 => match p.ints.find n with
    | some x => if x.tag = p.gen then p else { p with ints := p.ints.set n { tag := x.tag } }
    | none => p
  | 6 => match p.carry.find n with
    | some x => if x.tag = p.gen then p else { p with carry := p.carry.set n { tag := x.tag } }
    | none => p
  | _ => p

/-- BACKGROUND_SCRUB (R318): of plot a, datum b of kind c: as `Plot.scrubStale` numbers them, 1 a register of its sequencer. -/
def execBackgroundScrub (s : State) : Out :=
  let a := s.evt.a
  if isHub a then .next s
  else if s.evt.c = 1 then .next (if (s.seqs.find a).isSome then s.modSeqOf a fun q => q.scrubReg (s.plot a).gen s.evt.b else s)
  else .next (s.modPlot a fun p => p.scrubStale s.evt.c s.evt.b)

end Sys2Proof.Machine
end

