-- ==== Sys2Proof/Machine/Image.lean ====
section
/-! DEFINITION. The graph image as the loader reads it (R127, R128, R22, R274 to R277, R280). Where R277 gives fields
without their places, the places are the model's own (log entry 8). -/

namespace Sys2Proof.Machine

/-- An image: in a partition's address space, read as code, or at a physical address (R280). -/
structure Img where
  part : Nat
  base : Nat
  phys : Bool
  deriving DecidableEq, Repr

abbrev Load (α : Type) := Except Unit α

/-- The aligned word that holds byte `off` of the image; a translation that fails, an X bit that is clear or a failed code
rejects the image (R311). -/
def State.imgWord (s : State) (m : Img) (off : Nat) : Load (BitVec 32) :=
  let a := (m.base + off) / 4 * 4
  let pa : Load Nat :=
    if m.phys then .ok a
    else match s.flatWalk m.part (vaWord a) 2 false with | .ok (pa, _) => .ok pa | .error _ => .error ()
  match pa with
  | .error () => .error ()
  | .ok pa =>
    let w := s.homeWord 65536 0 pa
    if (CW.check w).isSome then .error () else .ok w.v

/-- The n aligned words from the one that holds byte `off` of the image, as one number. -/
def State.imgWords (s : State) (m : Img) (off : Nat) : Nat → Load Nat
  | 0 => .ok 0
  | n + 1 => do
    let v ← s.imgWords m off n
    let w ← s.imgWord m (if n = 0 then off else off + 4 * n - (m.base + off) % 4)
    pure (v + w.toNat * 2 ^ (32 * n))

/-- n bytes of the image from `off`, little-endian. -/
def State.imgNum (s : State) (m : Img) (off n : Nat) : Load Nat := do
  let o := (m.base + off) % 4
  let v ← s.imgWords m off ((o + n + 3) / 4)
  pure (v / 256 ^ o % 256 ^ n)

structure ImgHead where
  nmap : Nat
  acc : Nat
  datasz : Nat
  argsz : Nat
  sect : List Nat
  deriving DecidableEq, Repr, Inhabited

/-- An entry of the mapping table: fraction code, KSPLIT, ROUNDED, shapes, energy, offset of its strand table. -/
structure ImgMap where
  frac : Nat
  ksplit : Bool
  rounded : Bool
  shapes : List (Nat × Nat)
  energy : Nat
  strands : Nat
  deriving DecidableEq, Repr, Inhabited

/-- An entry of a strand table, 32 bytes: code offset and length, relocation offset and count, entry point, stash
declarations' offset and count, strand section, and the banks that arrive by token (R31). -/
structure ImgStrand where
  code : Nat
  len : Nat
  rel : Nat
  nrel : Nat
  entry : Nat
  decl : Nat
  ndecl : Nat
  sect : Nat
  banks : Nat
  deriving DecidableEq, Repr, Inhabited

structure ImgDecl where
  kind : Nat
  j : Nat
  base : Nat
  size : Nat
  arg : Nat
  deriving DecidableEq, Repr, Inhabited

/-- An entry of the edge-name table with its name. -/
structure ImgEdge where
  off : Nat
  sect : Nat
  phase : Nat
  name : Nat
  deriving DecidableEq, Repr, Inhabited

def ok? (b : Bool) : Load Unit := if b then .ok () else .error ()

/-- The header (R277): MAGIC, VERSION, LEVEL, and sections in order, each aligned to 64 bytes, none overlapping. -/
def State.imgHead (s : State) (m : Img) : Load ImgHead := do
  ok? ((← s.imgNum m 0 4) = 0x42584731)
  ok? ((← s.imgNum m 4 2) = 1)
  ok? ((← s.imgNum m 6 1) ≤ 1)
  let nmap ← s.imgNum m 7 1
  ok? (1 ≤ nmap && nmap ≤ 4)
  let acc ← s.imgNum m 8 1
  ok? (1 ≤ acc && acc ≤ 32)
  ok? ((← s.imgNum m 9 7) = 0)
  let datasz ← s.imgNum m 0x10 8
  let argsz ← s.imgNum m 0x18 8
  let sect ← (List.range 8).mapM fun k => s.imgNum m (0x20 + 4 * k) 4
  let at_ (k : Nat) : Nat := sect.getD k 0
  ok? (sect.all (· % 64 = 0) && 64 ≤ at_ 0 && at_ 0 + 64 * nmap ≤ at_ 1 && (List.range 7).all (fun k => at_ k ≤ at_ (k + 1)) &&
    at_ 6 + datasz ≤ at_ 7)
  pure { nmap := nmap, acc := acc, datasz := datasz, argsz := argsz, sect := sect }

def ImgMap.plots (m : ImgMap) : Nat := m.shapes.foldl (fun n s => n + s.1 * s.2) 0

/-- The strands that a mapping lists: 2^f for each plot (R334). -/
def ImgMap.count (m : ImgMap) : Nat := m.plots * 2 ^ m.frac

def State.imgMap (s : State) (m : Img) (h : ImgHead) (k : Nat) : Load ImgMap := do
  let b := h.sect.getD 0 0 + 64 * k
  let f ← s.imgNum m b 1
  ok? (f / 4 % 16 = 0)
  let n ← s.imgNum m (b + 1) 1
  ok? (1 ≤ n && n ≤ 16)
  let shapes ← (List.range n).mapM fun k => do
    let x ← s.imgNum m (b + 2 + k) 1
    ok? (x / 8 % 2 = 0)
    pure (x / 16 + 1, x % 8 + 1)
  let energy ← s.imgNum m (b + 0x14) 4
  let st ← s.imgNum m (b + 0x18) 4
  let r : ImgMap := { frac := f % 4, ksplit := f / 128 = 1, rounded := f / 64 % 2 = 1, shapes := shapes, energy := energy, strands := st }
  ok? (h.sect.getD 1 0 ≤ st && st + 32 * r.count ≤ h.sect.getD 2 0)
  pure r

def State.imgStrand (s : State) (m : Img) (h : ImgHead) (x : ImgMap) (ix : Nat) : Load ImgStrand := do
  let b := x.strands + 32 * ix
  let n (o l : Nat) := s.imgNum m (b + o) l
  let r : ImgStrand := { code := ← n 0 4, len := ← n 4 4, rel := ← n 8 4, nrel := ← n 12 4, entry := ← n 16 4, decl := ← n 20 4,
                         ndecl := ← n 24 2, sect := ← n 26 2, banks := ← n 28 2 }
  let at_ (k : Nat) : Nat := h.sect.getD k 0
  ok? (r.len % 8 = 0 && r.len ≤ 0x40000 && at_ 2 ≤ r.code && r.code + r.len ≤ at_ 3 && at_ 3 ≤ r.rel && r.rel + 8 * r.nrel ≤ at_ 4 &&
    r.entry % 8 = 0 && r.entry < r.len && at_ 5 ≤ r.decl && r.decl + 16 * r.ndecl ≤ at_ 6)
  pure r

/-- The instruction word at a code offset. -/
def State.imgCode (s : State) (m : Img) (x : ImgStrand) (off : Nat) : Load Word := do
  pure (w64 (← s.imgNum m (x.code + off) 8))

/-- A relocation entry: the word's offset and the field kind (R127). -/
def State.imgReloc (s : State) (m : Img) (x : ImgStrand) (k : Nat) : Load (Nat × Nat) := do
  let e ← s.imgNum m (x.rel + 8 * k) 8
  ok? (e / 2 ^ 40 = 0)
  let off := e % 2 ^ 32
  let kind := e / 2 ^ 32 % 256
  ok? (off % 8 = 0 && off < x.len && (kind = 1 || kind = 2))
  let w ← s.imgCode m x off
  let cls := (fieldAt 60 4 w).toNat
  ok? (if kind = 1 then 11 ≤ cls else cls = 1 || cls = 5)
  pure (off, kind)

def State.imgRelocs (s : State) (m : Img) (x : ImgStrand) : Load (List (Nat × Nat)) :=
  (List.range x.nrel).mapM fun k => s.imgReloc m x k

/-- A stash declaration, its checks those of R169 and R83 (R274). -/
def State.imgDecl (s : State) (m : Img) (x : ImgStrand) (k : Nat) : Load ImgDecl := do
  let b := x.decl + 16 * k
  let d : ImgDecl := { kind := ← s.imgNum m b 1, base := ← s.imgNum m (b + 4) 4, size := ← s.imgNum m (b + 8) 4,
                       j := ← s.imgNum m (b + 12) 1, arg := ← s.imgNum m (b + 13) 3 }
  let unit := if 2 ≤ d.kind then 65536 else 64
  ok? (d.kind ≤ 3 && d.j ≤ (if d.kind = 2 then 8 else 0) && 0 < d.size && d.size % unit = 0 && d.base % unit = 0 &&
    d.base + d.size ≤ 0x20_0000)
  pure d

def disjoint : List ImgDecl → Bool
  | [] => true
  | d :: l => l.all (fun e => !(d.base < e.base + e.size && e.base < d.base + d.size)) && disjoint l

def State.imgDecls (s : State) (m : Img) (x : ImgStrand) : Load (List ImgDecl) := do
  let l ← (List.range x.ndecl).mapM fun k => s.imgDecl m x k
  ok? (disjoint l && (l.filter (·.kind = 3)).length ≤ 1 &&
    l.all fun d => (List.range 16).all fun b => !(x.banks.testBit b && d.base < 0x2_0000 * (b + 1) && 0x2_0000 * b < d.base + d.size))
  pure l

def State.imgEdges (s : State) (m : Img) (h : ImgHead) : Load (List ImgEdge) := do
  let a := h.sect.getD 4 0
  let n := (h.sect.getD 5 0 - a) / 12
  let l ← (List.range n).mapM fun k => do
    let e ← s.imgNum m (a + 8 * k) 8
    ok? (e / 2 ^ 56 = 0)
    let nm ← s.imgNum m (a + 8 * n + 4 * k) 4
    pure { off := e % 2 ^ 32, sect := e / 2 ^ 32 % 65536, phase := e / 2 ^ 48 % 256, name := nm }
  pure (l.filter (·.name != 0))

/-! ### Tracts and relocation (R11, R128) -/

/-- TRACTID and local index of a strand, from the shapes of its mapping. -/
def locate : List (Nat × Nat) → Nat → Nat → Nat × Nat
  | [], t, ix => (t, ix)
  | s :: l, t, ix => if ix < s.1 * s.2 then (t, ix) else locate l (t + 1) (ix - s.1 * s.2)

/-- The plot of the placement that strand ix runs on: its tract and local index (R334). -/
def ImgMap.seat (x : ImgMap) (ix : Nat) : Nat × Nat := locate x.shapes 0 (ix / 2 ^ x.frac)

/-- The strands of tracts with a lower number. -/
def strandsBefore (shapes : List (Nat × Nat)) (t : Nat) : Nat := ((shapes.take t).foldl (fun n s => n + s.1 * s.2) 0)

/-- The tract that a relative coordinate names. -/
def refTract (own c : Nat) : Nat := if c / 256 % 16 = 0 then own else c / 256 % 16 - 1

/-- R128: the absolute coordinate, 0xFFF where it names no plot, none where the tract does not exist. -/
def relocate (tracts : List Tract) (own c : Nat) : Option Nat :=
  match tracts[refTract own c]? with
  | none => none
  | some t =>
    let r := t.rank + c / 16 % 16
    let f := t.file + c % 16
    some (if 15 < r || 7 < f then 0xFFF else coordOf t.acre r f)

/-- A word with its coordinate rewritten: kind 1 in e, kind 2 in imm32; both stand in bits [11:0]. -/
def rewrite (w : Word) (c : Nat) : Word := (w &&& ~~~0xFFF#64) ||| w64 (c % 4096)

/-! ### The check of R22 on a deterministic launch -/

/-- The source ports that an edge's word names: tract, rank offset, file offset, port; ranks or files of the tract for a
multicast. -/
def edgePorts (w : Word) (rel : Bool) (own : Nat) (sh : List (Nat × Nat)) (at_ : Nat × Nat) : List (Nat × Nat × Nat × Nat) :=
  let x := match decodeWord w with
    | .ok (.routeLocal d) => some (d, bits d.c 0 4) | .ok (.routeRemote d) => some (d, bits d.c 0 4)
    | .ok (.routeRank d) => some (d, bits d.c 0 4) | .ok (.routeFile d) => some (d, bits d.c 0 4)
    | .ok (.rtab d) => some (d, bits d.c 0 4) | _ => none
  match x with
  | none => []
  | some (d, kind) =>
    let p := bits d.b 0 4
    let c := bits d.e 0 12
    let me := sh.getD own (1, 1)
    match kind with
    | 0 => [(own, at_.1, at_.2, p)]
    | 1 => if rel then [(refTract own c, c / 16 % 16, c % 16, p)] else [(16, c / 16, c % 16, p)]
    | 2 => (List.range me.2).map fun f => (own, at_.1, f, p)
    | 3 => (List.range me.1).map fun r => (own, r, at_.2, p)
    | _ => []

/-- Two edges with different names feed one source port in one phase. -/
def edgeClash (l : List (ImgEdge × List (Nat × Nat × Nat × Nat))) : Bool :=
  l.any fun a => l.any fun b =>
    a.1.name != b.1.name && a.1.phase = b.1.phase && a.2.any (fun p => b.2.contains p)

/-- The edges of a mapping with the ports that they feed. -/
def State.mapEdges (s : State) (m : Img) (h : ImgHead) (x : ImgMap) :
    Load (List (ImgEdge × List (Nat × Nat × Nat × Nat))) := do
  let es ← s.imgEdges m h
  let ll ← (List.range x.count).mapM fun ix => do
    let st ← s.imgStrand m h x ix
    let rs ← s.imgRelocs m st
    let t := x.seat ix
    let sh := x.shapes.getD t.1 (1, 1)
    (es.filter (·.sect = st.sect)).mapM fun e => do
      ok? (e.off % 8 = 0 && e.off < st.len)
      let w ← s.imgCode m st e.off
      pure (e, edgePorts w (rs.any (·.1 = e.off)) t.1 x.shapes (t.2 / sh.2, t.2 % sh.2))
  pure ll.flatten

/-! ### The whole image -/

/-- The relocation entries of a strand name tracts of the team (R128). -/
def refsOk (n own : Nat) (ws : List Nat) : Bool := ws.all fun c => refTract own c < n

def State.strandOk (s : State) (m : Img) (h : ImgHead) (x : ImgMap) (handler ix : Nat) : Load Unit := do
  let st ← s.imgStrand m h x ix
  ok? (st.len + handler ≤ 0x40000)
  let rs ← s.imgRelocs m st
  let cs ← rs.mapM fun r => do pure ((← s.imgCode m st r.1).toNat % 4096)
  ok? (refsOk x.shapes.length (x.seat ix).1 cs)
  let _ ← s.imgDecls m st
  pure ()

/-- The shapes by which a mapping's strands are numbered: those of the full mapping where the image has one (R334). -/
def fullShapes (maps : List ImgMap) (k : Nat) : List (Nat × Nat) :=
  match maps.find? (·.frac = 0) with
  | some f => f.shapes
  | none => (maps.getD k default).shapes

def distinct : List Nat → Bool
  | [] => true
  | a :: l => !l.contains a && distinct l

/-- The image passes R277 and R127; under DET the check of R22. `handler` is the handler's code length. -/
def State.imgCheck (s : State) (m : Img) (det : Bool) (handler : Nat) : Load (ImgHead × List ImgMap) := do
  let h ← s.imgHead m
  let maps ← (List.range h.nmap).mapM fun k => s.imgMap m h k
  ok? (distinct (maps.map (·.frac)))
  let _ ← (List.range h.nmap).mapM fun k => do
    let x := maps.getD k default
    let _ ← (List.range x.count).mapM fun ix => s.strandOk m h x handler ix
    if det then
      let es ← s.mapEdges m h x
      ok? (!edgeClash es)
    else pure ()
  pure (h, maps)

/-- The partition's handler image (R280): its code words and its entry; one mapping of one plot, no relocations, edges or
declarations. -/
def State.handlerCode (s : State) (part : Nat) : Load (List Word × Nat) := do
  let a := s.rcb part 0x60 8
  if a = 0 then pure ([], 0)
  else
    let m : Img := { part := part, base := a, phys := true }
    let (h, maps) ← s.imgCheck m false 0
    let x := maps.getD 0 default
    ok? (h.nmap = 1 && x.shapes = [(1, 1)] && x.frac = 0)
    let st ← s.imgStrand m h x 0
    ok? (st.nrel = 0 && st.ndecl = 0 && (h.sect.getD 5 0 = h.sect.getD 4 0))
    let ws ← (List.range (st.len / 8)).mapM fun k => s.imgCode m st (8 * k)
    pure (ws, st.entry)

/-- The pages of a range of a partition's address space are walked as the loader reads them: A is set first (R312). -/
def State.walkRange (s : State) (part base n kind : Nat) (user : Bool) : State :=
  (List.range ((base % 65536 + n + 65535) / 65536)).foldl (fun s k =>
    let p := s.phys
    (s.walk (p.num (part + 0x40) 2) (p.num (part + 0x48) 8) (p.num (part + 0x50) 8) (p.num (part + 0x58) 8)
      (vpnOf (vaWord (base + 65536 * k))) kind user).2) s

/-- The loader's reads of an image: its header and its sections as far as the stash declarations. -/
def State.walkImage (s : State) (m : Img) (h : ImgHead) : State :=
  if m.phys then s else s.walkRange m.part m.base (h.sect.getD 6 0) 2 false

/-- The bytes of stash that a mapping's strands declare (R296). -/
def State.mapStash (s : State) (m : Img) (h : ImgHead) (x : ImgMap) : Load Nat := do
  let l ← (List.range x.count).mapM fun ix => do
    let st ← s.imgStrand m h x ix
    let ds ← s.imgDecls m st
    pure (ds.foldl (fun n d => n + d.size) 0)
  pure (l.foldl (· + ·) 0)

end Sys2Proof.Machine
end

