-- ==== Sys2Proof/Machine/Launch.lean ====
section
/-! DEFINITION. Launches: the checks of nodes and records, acceptance, placement, start and retirement (R35, R36, R294 to
R305, R368, R393). -/

namespace Sys2Proof.Machine

/-! ### Nodes of the tree (R294, R295) -/

/-- Reserved bytes of an RCB, as offset and length. -/
def rcbReserved : List (Nat × Nat) :=
  [(0x07, 1), (0x0A, 6), (0x42, 6), (0x78, 8), (0x96, 2), (0xA0, 32), (0xC4, 4), (0xDC, 4), (0xEC, 4), (0xF8, 8)]

/-- A node's own fields (R295): MAGIC, reserved bytes, PRIO ≤ PCAP; the root sets bits 0 to 12 of OVR. -/
def State.nodeOk (s : State) (r : Nat) : Bool :=
  let pr := s.rcb r 5 1
  r % 256 = 0 && s.rcb r 0 4 = 0x52430001 && s.rcbKind r ≤ 4 && s.rcb r 4 1 / 128 = 0 && s.rcb r 4 1 / 8 % 2 = 0 &&
  pr % 16 ≤ pr / 16 && s.rcb r 6 1 / 128 = 0 && s.rcb r 8 2 / 8192 = 0 && s.rcb r 0x1E 2 / 4096 = 0 && s.rcb r 0x95 1 / 128 = 0 &&
  rcbReserved.all (fun f => s.rcb r f.1 f.2 = 0) && (s.rcbKind r != 0 || s.rcb r 8 2 % 8192 = 8191)

/-- What may stand beneath what (R294). -/
def parentOk (kind parent : Nat) : Bool :=
  match kind with
  | 1 => parent = 0
  | 2 => parent = 1 || parent = 2
  | 3 => parent = 2
  | _ => false

def State.pathOk (s : State) : List Nat → Bool
  | [] => false
  | [r] => s.nodeOk r && r = Config.rootRcb && s.rcbKind r = 0 && s.rcb r 0x10 8 = 0
  | r :: p :: l => s.nodeOk r && parentOk (s.rcbKind r) (s.rcbKind p) && s.pathOk (p :: l)

/-- A queue node with a sound path to the root, at level 7 at most. -/
def State.queueOk (s : State) (q : Nat) : Bool :=
  s.rcbKind q = 3 && (s.path q).length ≤ 7 && s.pathOk (s.path q)

/-- The RO fields of a region control block, which read 0 at its creation (R295), as offset and length. -/
def rcbOwn : List (Nat × Nat) :=
  [(0x80, 8), (0x88, 8), (0xC0, 4), (0xC8, 8), (0xD0, 2), (0xD2, 2), (0xD4, 4), (0xD8, 4), (0xE0, 8), (0xE8, 4), (0xF0, 8)]

/-- The scheduler meets a node for the first time: whatever was stored in its RO fields was ignored (R4, R295). -/
def State.meetNode (s : State) (r : Nat) : State :=
  if (s.sched.nodes.find r).isSome || s.rcb r 0 4 != 0x5243_0001 then s
  else (rcbOwn.foldl (fun s f => s.setRcb r f.1 f.2 0) s).modSched fun c => { c with nodes := c.nodes.set r s.tempo }

/-- The nodes from a queue to the root are met. -/
def State.meet (s : State) (q : Nat) : State := (s.path q).foldl State.meetNode s

/-- The scheduler writes DEPTH, the level minus 1. -/
def State.writeDepths (s : State) (q : Nat) : State :=
  let p := s.path q
  (List.range p.length).foldl (fun s k =>
    let r := p.getD k 0
    s.setRcb r 4 1 (s.rcbKind r + 16 * (p.length - 1 - k))) s

/-! ### Free plots and placement (R303) -/

/-- Plots that belong to a placed launch, but for those whose strand has been saved, or to a headland tract. -/
def State.takenPlots (s : State) : List Nat :=
  (s.sched.launches.flatMap fun kl => kl.2.tracts.flatMap fun t => t.plots.filter (s.holdsPlot t)) ++
    (s.sched.headlands.flatMap fun h => h.tract.plots)

def State.acresOf (s : State) (part : Nat) : List Nat :=
  (List.range Config.acres).filter fun k => (s.rcb part 0x1E 2).testBit k && (s.acre k).usable

/-- The free rectangle of a shape with the lowest acre, then origin rank, then origin file. -/
def findRect (taken : List Nat) (acres : List Nat) (sh : Nat × Nat) : Option Tract :=
  let cands := acres.flatMap fun a => (List.range (17 - sh.1)).flatMap fun r => (List.range (9 - sh.2)).map fun f =>
    ({ acre := a, rank := r, file := f, nr := sh.1, nf := sh.2 } : Tract)
  cands.find? fun t => sh.1 ≤ 16 && sh.2 ≤ 8 && t.plots.all fun c => !taken.contains c

/-- A whole team, tract by tract in TRACTID order. -/
def findTeam (acres : List Nat) : List Nat → List (Nat × Nat) → Option (List Tract)
  | _, [] => some []
  | taken, sh :: l =>
    match findRect taken acres sh with
    | none => none
    | some t => (findTeam acres (taken ++ t.plots) l).map (t :: ·)

/-- Shapes fit their node's limits, and more plots and stash its budgets (R296, R297, R303); with `unused` every budget counts
as unused. -/
def State.budgetOk (s : State) (queue : Nat) (shapes : List (Nat × Nat)) (plots stash : Nat) (unused : Bool) : Bool :=
  let g := s.eff queue 5
  let fits (use more limit : Nat) : Bool := more = 0 || (if unused then 0 else use) + more ≤ limit
  shapes.all (fun sh => sh.1 ≤ s.rcb g 0x1C 1 && sh.2 ≤ s.rcb g 0x1D 1) &&
  (s.path queue).all (fun n =>
    (match s.limitAt n 5 0x18 4 with | some m => fits (s.rcb n 0xC0 4) plots m | none => true) &&
    (match s.limitAt n 6 0x20 8 with | some m => fits (s.rcb n 0xC8 8) stash m | none => true))

/-- A mapping that divides a reduction with rounding is refused under effective DET (R304). -/
def State.refusedMap (s : State) (queue : Nat) (x : ImgMap) : Bool := s.effDet queue && x.ksplit && x.rounded

/-! ### Acceptance (R298, R299) -/

/-- `n` bytes of a launch record. -/
def recNum (ws : List (BitVec 32)) (off n : Nat) : Nat :=
  (List.range n).foldl (fun v k => v + (byteOf (ws.getD ((off + k) / 4) 0) ((off + k) % 4)).toNat * 256 ^ k) 0

/-- MAGIC, counts and reserved bytes of a record. -/
def recordOk (ws : List (BitVec 32)) : Bool :=
  let n := recNum ws
  n 0 4 = 0x4C520001 && n 4 1 / 64 = 0 && n 4 1 % 8 ≤ 4 && n 4 1 / 8 % 8 ≤ 4 && n 5 1 / 8 = 0 && 1 ≤ n 5 1 && n 5 1 ≤ 4 && n 6 2 = 0 &&
  (List.range 4).all (fun k => n (0x22 + 8 * k) 2 = 0) && (List.range 4).all (fun k => n (0x50 + k) 1 / 4 = 0) &&
  n 0x54 4 = 0 && n 0x5C 4 = 0 && n 0x6C 4 = 0 && n 0x70 16 = 0

def State.imgOf (_s : State) (part image : Nat) : Img := { part := part, base := image % 2 ^ 55, phys := false }

/-- A launch built from a record, not yet numbered. -/
def State.launchOf (s : State) (recPa : Nat) (ws : List (BitVec 32)) (hold : Bool) : Launch :=
  let n := recNum ws
  { id := 0, record := recPa, queue := n 0x18 8, part := s.partitionOf (n 0x18 8), rcb := 0, accepted := s.tempo, image := n 8 8,
    args := w64 (n 0x10 8),
    inev := (List.range (n 4 1 % 8)).map fun k => (n (0x20 + 8 * k) 2, n (0x24 + 8 * k) 4),
    outev := (List.range (n 4 1 / 8 % 8)).map fun k => (n (0x40 + 4 * k) 2, n (0x42 + 4 * k) 2),
    prefs := (List.range (n 5 1)).map fun k => n (0x50 + k) 1, podgrp := n 0x58 4, ordinal := 0, holdchild := hold }

/-- The mappings of a launch's image, if it passes. -/
def State.mapsOf (s : State) (l : Launch) : Load (ImgHead × List ImgMap) := do
  let hc ← s.handlerCode l.part
  s.imgCheck (s.imgOf l.part l.image) (s.effDet l.queue) (8 * hc.1.length)

/-- Launches accepted and not yet placed in a queue, in acceptance order. -/
def State.queued (s : State) (q : Nat) : List Launch :=
  ((s.sched.launches.map (·.2)).filter fun l => l.queue = q && l.placedAt.isNone && l.rcb != 0).mergeSort
    fun a b => a.accepted.toNat < b.accepted.toNat || (a.accepted = b.accepted && a.id ≤ b.id)

/-- The launches for which LAUNCH instructions of others have reserved a place (R167). -/
def State.reservations (s : State) : List Launch := (s.seqs.filter fun kq => kq.1 != s.cur).filterMap fun kq => kq.2.resv

def State.reserved (s : State) (q : Nat) : Nat := (s.reservations.filter fun l => l.queue = q).length

/-- QDEPTH, 0 meaning 4,096. -/
def State.qdepth (s : State) (q : Nat) : Nat := if s.rcb q 0x90 4 = 0 then 4096 else s.rcb q 0x90 4

/-- The checks of R299 in their order, for a submitter of partition `part` (0 for firmware). -/
def State.checkLaunch (s : State) (part recPa : Nat) (ws : List (BitVec 32)) (hold : Bool) : Except Cause Launch :=
  let l := s.launchOf recPa ws hold
  if !s.power.ready || !recordOk ws || !s.queueOk l.queue || (part != 0 && l.part != part) || (s.effRec l.queue && s.effRep l.queue)
  then .error .launchbad
  else if !canonical (w64 l.image) then .error .launchbad
  else match s.mapsOf l with
    | .error () => .error .launchbad
    | .ok (h, maps) =>
      if !l.prefs.all (· < h.nmap) then .error .launchbad
      else if s.qdepth l.queue ≤ s.rcb l.queue 0xE8 4 + s.reserved l.queue then .error .budget
      else
        let ms := (l.prefs.map fun k => maps.getD k default).filter fun x => !s.refusedMap l.queue x
        if ms.isEmpty then .error .ksplitref
        else
          let stash (x : ImgMap) : Nat := match s.mapStash (s.imgOf l.part l.image) h x with | .ok n => n | .error () => 0
          if ms.any (fun x => s.budgetOk l.queue x.shapes x.plots (stash x) true && (findTeam (s.acresOf l.part) [] x.shapes).isSome)
          then .ok l else .error .launchrej

/-- A free launch RCB: each live one has an index from 1 in the context table (R320). -/
def State.freeRcb (s : State) : Option Nat :=
  ((List.range 4095).map fun k => Config.launchRcbBase + 256 * (k + 1)).find? fun a => !s.sched.launches.any (·.2.rcb = a)

/-- The context table has room for one more launch beside those with a place reserved. -/
def State.contextRoom (s : State) : Bool := s.sched.launches.length + s.reservations.length < 4095

/-- The launch RCB (R294): kind 4 beneath the queue, OVR 0. -/
def State.writeRcb (s : State) (a queue : Nat) : State :=
  let p := (List.range 32).foldl (fun p k => p.putDword (a + 8 * k) 0) s.phys
  let s := { s with phys := p }
  let s := (s.setRcb a 0 4 0x52430001).setRcb a 4 1 (4 + 16 * (s.path queue).length)
  (s.setRcb a 0x10 8 queue).modSched fun c => { c with nodes := c.nodes.set a s.tempo }

/-- On success (R299): LAUNCHID, the launch RCB, and the record at QTAIL; none when the context table is full. -/
def State.enqueue (s : State) (l : Launch) : Option (State × Nat) :=
  match s.freeRcb with
  | none => none
  | some a =>
    let id := s.sched.nextLaunch
    let s := s.writeDepths l.queue
    let s := s.writeRcb a l.queue
    let node := s.eff l.queue 12
    let ord := s.sched.ordinals.get 0 node + 1
    let l := { l with id := id, rcb := a, accepted := s.tempo, ordinal := ord }
    let s := s.modSched fun c => { c with launches := c.launches.set id l, nextLaunch := if id = 0xFFFF_FFFF then 1 else id + 1,
                                          ordinals := c.ordinals.set node ord }
    let s := { s with phys := (s.phys.putDword (l.record + 0x60) 0).putNum (l.record + 0x68) 4 id }
    let s := match s.imgHead (s.imgOf l.part l.image) with | .ok h => s.walkImage (s.imgOf l.part l.image) h | .error () => s
    let s := s.modSched fun c => { c with records := c.records.set id (l.record, l.part) }
    let n := s.rcb l.queue 0xE8 4
    let s := if n = 0 then s.setRcb l.queue 0x80 8 l.record else s
    let s := (s.setRcb l.queue 0x88 8 l.record).setRcb l.queue 0xE8 4 (n + 1)
    some (s, id)

/-! ### Events (R164, R307) -/

/-- A live slot of a partition. -/
def State.slotOf (s : State) (part name : Nat) : Option EvSlot :=
  match s.sched.events.find name with
  | some e => if e.part = part then some e else none
  | none => none

def State.setSlot (s : State) (e : EvSlot) : State := s.modSched fun c => { c with events := c.events.set e.name e }

/-- Waits of the host on a slot are answered (R358): those that `f` picks by their value, with a status and a body. -/
def HostPort.answer (h : HostPort) (name : Nat) (f : Nat → Bool) (status : BitVec 16) (body : List (BitVec 32)) : HostPort :=
  h.sessions.foldl (fun h kq =>
    let hit (w : Nat × Nat × BitVec 64) : Bool := w.1 = name && f w.2.1
    let out : List GyordReply := (kq.2.waits.filter hit).map fun w => { session := kq.1, kind := 0x83, status := status, cookie := w.2.2, body := body }
    { h with sessions := h.sessions.set kq.1 { kq.2 with waits := kq.2.waits.filter fun w => !hit w }, replies := h.replies ++ out }) h

/-- The count rises modulo 2^32, and every waiter whose target is reached is released. -/
def State.signal (s : State) (e : EvSlot) (inc : Nat) : State :=
  let n := (e.count + inc) % 2 ^ 32
  let s := { s with host := s.host.answer e.name (· ≤ n) 0 [BitVec.ofNat 32 n] }
  s.setSlot { e with count := n, waiters := e.waiters.map fun w => { w with released := w.released || w.target ≤ n } }

/-- A slot is freed: its waiters' names are no longer live. -/
def State.freeSlot (s : State) (name : Nat) : State :=
  let s := { s with host := s.host.answer name (fun _ => true) (Cause.evname.code.setWidth 16) [] }
  s.modSched fun c => { c with events := c.events.del name }

/-! ### Choosing (R301, R302, R322) -/

def State.inputsReady (s : State) (l : Launch) : Bool :=
  l.inev.all fun e => match s.slotOf l.part e.1 with | some x => e.2 ≤ x.count | none => false

def State.waited (s : State) (l : Launch) : Nat := s.tempo.toNat - l.accepted.toNat

/-- Eff(L). -/
def State.effPrio (s : State) (l : Launch) : Nat :=
  let b := s.rcb (s.eff l.queue 0) 5 1
  Nat.min (b / 16) (b % 16 + s.waited l / 10_000_000)

/-- The queues of a partition with launches waiting, by address. -/
def State.queuesOf (s : State) (part : Nat) : List Nat :=
  (((s.sched.launches.map (·.2)).filter fun l => l.part = part && l.placedAt.isNone && l.rcb != 0 && !l.fault).map (·.queue)).eraseDups.mergeSort

def State.heads (s : State) (part : Nat) : List Launch :=
  (s.queuesOf part).filterMap fun q => (s.queued q).head?

/-- A team for the launch now: the mapping's index, and the tracts (R303); in replay the logged plots (R371). -/
def State.replayTracts (s : State) (l : Launch) (x : ImgMap) : Option (List Tract) :=
  let node := s.eff l.rcb 12
  let es := ((List.range (s.rcb node 0x70 8 / 32)).map (s.logEntry (s.rcb node 0x68 8))).filter fun e =>
    e.inStream l.ordinal 9 0xFFFF 0
  if es.length != x.shapes.length then none
  else some ((List.range x.shapes.length).map fun t =>
    let sh := x.shapes.getD t (1, 1)
    let c := match es.find? (·.key = t) with | some e => e.value.toNat | none => 0
    { acre := acreOf c, rank := rankOf c, file := fileOf c, nr := sh.1, nf := sh.2 })

def State.teamFor (s : State) (l : Launch) (x : ImgMap) : Option (List Tract) :=
  if s.effRep l.rcb then
    match s.replayTracts l x with
    | some ts => if (ts.flatMap Tract.plots).all (fun c => !s.takenPlots.contains c && (s.acre (acreOf c)).usable) then some ts else none
    | none => none
  else findTeam (s.acresOf l.part) s.takenPlots x.shapes

/-- The idle headland tract that makes a launch warm (R305), on an acre that the partition may still use (R297); in replay the
one that the log names (R371). -/
def State.warmTract (s : State) (l : Launch) (k : Nat) (x : ImgMap) : Option Headland :=
  let logged : Option (List Tract) := if s.effRep l.rcb then s.replayTracts l x else none
  s.sched.headlands.find? fun h =>
    h.queue = l.queue && h.busy.isNone && h.image = l.image && h.image = s.rcb l.queue 0x98 8 && h.mapping = k &&
      x.shapes = [(h.tract.nr, h.tract.nf)] && (s.acresOf l.part).contains h.tract.acre &&
      (!s.effRep l.rcb || logged == some [h.tract])

/-- The first preference whose whole team fits: mapping index, mapping, declared stash, team, headland. -/
def State.placement (s : State) (l : Launch) : Option (Nat × ImgMap × Nat × List Tract × Bool) :=
  match s.mapsOf l with
  | .error () => none
  | .ok (h, maps) =>
    (List.range l.prefs.length).findSome? fun i =>
      let k := l.prefs.getD i 0
      let x := maps.getD k default
      let stash := match s.mapStash (s.imgOf l.part l.image) h x with | .ok n => n | .error () => 0
      if s.refusedMap l.queue x then none
      else match (if i = 0 then s.warmTract l k x else none) with
        | some hd => if s.budgetOk l.queue x.shapes 0 stash false then some (k, x, stash, [hd.tract], true) else none
        | none => if s.budgetOk l.queue x.shapes x.plots stash false then (s.teamFor l x).map fun ts => (k, x, stash, ts, false) else none

def State.canPlace (s : State) (l : Launch) : Bool := (s.placement l).isSome

/-- A reserving head (R302). -/
def State.reserving (s : State) (l : Launch) : Bool :=
  let r := s.rcb (s.eff l.queue 11) 0x3C 4
  (if r = 0 then 50 else r) * 1_000_000 ≤ s.waited l && !s.canPlace l

/-- DEFICIT, signed. -/
def State.deficit (s : State) (q : Nat) : Int := (BitVec.ofNat 64 (s.rcb q 0xE0 8)).toInt
def State.setDeficit (s : State) (q : Nat) (d : Int) : State := s.setRcb q 0xE0 8 (BitVec.ofInt 64 d).toNat

def State.quantum (s : State) (q : Nat) : Nat := Nat.max 1 (s.rcb (s.eff q 10) 0x38 4)

/-- Queues in ring order after the one that last started at the level. -/
def ringFrom (last : Nat) (l : List Launch) : List Launch :=
  l.filter (fun x => last < x.queue) ++ l.filter (fun x => x.queue ≤ last)

/-- The least k that makes some deficit positive. -/
def State.quanta (s : State) (l : List Launch) : Nat :=
  l.foldl (fun k x =>
    let d := s.deficit x.queue
    let q := s.quantum x.queue
    let need := if 0 < d then 0 else d.natAbs / q + 1
    Nat.min k need) (2 ^ 64)

/-- The placement of each tract is a decision (R369, R371): it is logged, or follows the log. -/
def State.logPlacement (s : State) (l : Launch) (ts : List Tract) : Option State :=
  (List.range ts.length).foldl (fun (o : Option State) t =>
    match o with
    | none => none
    | some s =>
      let tr := ts.getD t { acre := 0, rank := 0, file := 0, nr := 1, nf := 1 }
      match s.decide l.id 9 0xFFFF (w64 t) (w64 (coordOf tr.acre tr.rank tr.file)) with
      | .free s => some s
      | .forced s _ => some (s.tookEntry l.id 9 0xFFFF (w64 t))
      | .full _ => none
      | .diverged _ => none) (some s)

/-- What a launch takes of its queue's path (R296): plots and declared stash. -/
def State.chargePlots (s : State) (queue plots stash : Nat) : State :=
  (s.useMore queue 0xC0 4 plots).useMore queue 0xC8 8 stash

/-- The head of a queue is placed: it leaves the queue, and its team is its own. -/
def State.start (s : State) (l : Launch) (x : Nat × ImgMap × Nat × List Tract × Bool) (full : List (Nat × Nat)) (p : Nat) : State :=
  let (k, m, stash, ts, warm) := x
  let s := s.sampleTracts ts
  let held := if warm then 0 else m.plots
  let s := s.chargePlots l.queue held stash
  let n := s.rcb l.queue 0xE8 4 - 1
  let s := s.setRcb l.queue 0xE8 4 n
  let nextHead := match (s.queued l.queue)[1]? with | some y => y.record | none => 0
  let s := (s.setRcb l.queue 0x80 8 nextHead)
  let s := if n = 0 then s.setRcb l.queue 0x88 8 0 else s
  let s := s.modLaunch l.id fun l =>
    { l with mapping := k, tracts := ts, placedAt := some s.tempo, warm := warm, full := full, plotsHeld := held, stashHeld := stash }
  s.modSched fun c => { c with
    lastStarted := c.lastStarted.set (l.part * 16 + p) l.queue,
    headlands := if warm then c.headlands.map fun h => if h.tract.plots == (ts.flatMap Tract.plots) then { h with busy := some l.id } else h
      else c.headlands }

/-- One decision of R301 among `l`, with the reserving heads of the partition. The quanta of a level stand once a head of it
is placed: in the example of R302 the queue whose head has fitted nowhere still has 0. -/
def State.choose (s : State) (part : Nat) (resv : List Launch) : Nat → List Launch → State
  | 0, _ => s
  | n + 1, l =>
    let p := l.foldl (fun m x => Nat.max m (s.effPrio x)) 0
    let lvl := ringFrom (s.sched.lastStarted.get 0 (part * 16 + p)) (l.filter fun x => s.effPrio x = p)
    let k := if lvl.any (fun x => 0 < s.deficit x.queue) then 0 else s.quanta lvl
    let u := lvl.foldl (fun s x => s.setDeficit x.queue (s.deficit x.queue + k * s.quantum x.queue)) s
    match lvl.find? (fun x => 0 < u.deficit x.queue) with
    | none => s
    | some x =>
      let held := resv.any fun r => r.id != x.id && u.effPrio x ≤ u.effPrio r
      match (if held then none else u.placement x), u.mapsOf x with
      | some pl, .ok (_, maps) =>
        match u.logPlacement x pl.2.2.2.1 with
        | some v => v.start x pl (fullShapes maps pl.1) p
        | none =>
          match s.decide x.id 9 0xFFFF 0 0 with
          | .full t | .diverged t => t
          | .free _ => s.recFull x.rcb
          | .forced _ _ => s
      | _, _ => s.choose part resv n (l.filter (·.id != x.id))

/-- The code of a strand, relocated, with the handler's behind it (R115, R280). -/
def State.strandCode (s : State) (m : Img) (st : ImgStrand) (tracts : List Tract) (own : Nat) (handler : List Word) : Load (List Word) := do
  let rs ← s.imgRelocs m st
  let ws ← (List.range (st.len / 8)).mapM fun k => do
    let w ← s.imgCode m st (8 * k)
    if rs.any (·.1 = 8 * k) then
      match relocate tracts own (w.toNat % 4096) with
      | some c => pure (rewrite w c)
      | none => .error ()
    else pure w
  pure (ws ++ handler)

def numbered {α : Type} (l : List α) : NMap α := (List.range l.length).filterMap fun k => (l[k]?).map fun x => (k, x)

/-! ### Headland tracts (R305) -/

/-- The shape of a queue's headland tracts, and how many it keeps: HLCOUNT goes to 16 (log entry 64). -/
def State.headShape (s : State) (q : Nat) : Nat × Nat := (s.rcb q 0x95 1 % 16 + 1, s.rcb q 0x95 1 / 16 % 8 + 1)
def State.headCount (s : State) (q : Nat) : Nat := Nat.min (s.rcb q 0x94 1) 16

/-- A headland tract is what its queue's fields ask for now. -/
def State.headFits (s : State) (q : Nat) (h : Headland) : Bool :=
  (h.tract.nr, h.tract.nf) = s.headShape q && h.image = s.rcb q 0x98 8 && (s.acresOf (s.partitionOf q)).contains h.tract.acre

/-- The idle headland tracts that a queue asks for no more are given up: those that do not fit it, and the last ones beyond its
count. -/
def State.dropHeadlands (s : State) (q : Nat) : State :=
  let mine := s.sched.headlands.filter (·.queue = q)
  let good := mine.filter fun h => h.busy.isSome || s.headFits q h
  let extra := good.length - s.headCount q
  let gone := mine.filter (fun h => !good.contains h) ++ ((good.filter fun h => h.busy.isNone).reverse.take extra)
  let plots := gone.foldl (fun n h => n + h.tract.nr * h.tract.nf) 0
  (s.useLess q 0xC0 4 plots).modSched fun c => { c with headlands := c.headlands.filter fun h => !gone.contains h }

/-- The mapping of HLIMAGE that is a single tract of the headland shape, and the code of its strands, relocated for a tract. -/
def State.headCode (s : State) (q : Nat) (t : Tract) : Load (Nat × List (List Word)) := do
  let part := s.partitionOf q
  let m := s.imgOf part (s.rcb q 0x98 8)
  let handler ← s.handlerCode part
  let (h, maps) ← s.imgCheck m (s.effDet q) (8 * handler.1.length)
  match (numbered maps).find? fun kx => kx.2.shapes = [(t.nr, t.nf)] with
  | none => .error ()
  | some (k, x) =>
    let ws ← (List.range x.plots).mapM fun i => do
      let st ← s.imgStrand m h x (i * 2 ^ x.frac)
      s.strandCode m st [t] 0 handler.1
    pure (k, ws)

/-- One more headland tract of a queue is placed and loaded, within its budgets. -/
def State.placeHeadland (s : State) (q : Nat) : State :=
  let sh := s.headShape q
  let n := sh.1 * sh.2
  if (s.sched.headlands.filter (·.queue = q)).length < s.headCount q && s.budgetOk q [sh] n 0 false then
    match findRect s.takenPlots (s.acresOf (s.partitionOf q)) sh with
    | none => s
    | some t =>
      match s.headCode q t with
      | .error () => s
      | .ok (k, ws) =>
        let s := (t.plots.zip ws).foldl (fun s cw =>
          s.modPlot cw.1 fun p => { p with code := numbered cw.2, codeLen := 8 * cw.2.length, codeBad := [] }) s
        (s.useMore q 0xC0 4 n).modSched fun c => { c with
          headlands := c.headlands ++ [{ queue := q, tract := t, busy := none, image := s.rcb q 0x98 8, mapping := k }] }
  else s

def State.keepHeadlands (s : State) (q : Nat) : State :=
  (List.range (s.headCount q)).foldl (fun s _ => s.placeHeadland q) (s.dropHeadlands q)

/-- The queues of a partition that the scheduler has met. -/
def State.metQueues (s : State) (part : Nat) : List Nat :=
  (s.sched.nodes.map (·.1)).filter fun q => s.rcbKind q = 3 && s.partitionOf q = part

/-- A decision of the module scheduler for a partition. While a head reserves, freed plots stay free for it (R302). -/
def State.schedule (s : State) (part : Nat) : State :=
  let ready (s : State) : List Launch := (s.heads part).filter fun l => s.inputsReady l && (s.exhausted? l.queue).isNone
  let held := (ready s).any s.reserving
  let s := if held then s else (s.metQueues part).foldl State.keepHeadlands s
  let l := ready s
  s.choose part (l.filter s.reserving) l.length l

/-- SCHEDULER_DECISION (R301 to R304). -/
def execSchedulerDecision (s : State) : Out := .next (if s.power.ready then s.schedule s.evt.a else s)

/-- AGING_STEP (R301): every 10 ms; a decision is made in each partition with launches waiting. -/
def execAgingStep (s : State) : Out :=
  if s.sched.lastAging.toNat + 10_000_000 ≤ s.tempo.toNat then
    let s := s.modSched fun c => { c with lastAging := s.tempo }
    let parts := ((s.sched.launches.map (·.2)).map (·.part)).eraseDups
    .next (parts.foldl (fun s p => s.schedule p) s)
  else .next s

/-! ### Start (R35, R42, R44, R128, R280, R287, R317) -/

/-- The untagged state takes its launch values; the tagged state stays, stale under the new generation (R39). -/
def Plot.bump (p : Plot) (g : BitVec 16) : Plot :=
  { gen := g, stash := p.stash, code := p.code, codeLen := p.codeLen, codeBad := p.codeBad, va := p.va, accs := p.accs,
    wslots := p.wslots, cbRows := p.cbRows, cbTag := p.cbTag, ints := p.ints, carry := p.carry, utlb := p.utlb, started := p.started,
    fallow := p.fallow, lastAct := p.lastAct }

/-- SCRUB (R287): tagged state is zero with tag 0, GEN 0; the code store is not touched. -/
def Plot.scrub (p : Plot) : Plot :=
  { p with gen := 0, stash := [], va := [], accs := [], wslots := [], cbRows := [], cbTag := none, ints := [], carry := [], rtab := [] }

/-- A generation that would reach 0xFF00 is scrubbed first (R317). -/
def Plot.freshGen (p : Plot) : Plot :=
  if p.gen.toNat + 1 < 0xFF00 then p.bump (p.gen + 1) else p.scrub.bump 1

/-- The scalar registers after that: a scrub zeroes them (R287). -/
def Plot.regsAfter (p : Plot) (r : NMap Reg) : NMap Reg := if p.gen.toNat + 1 < 0xFF00 then r else []

/-- The context of a strand of a launch: the effective fields of its RCB. -/
def State.ctxOf (s : State) (l : Launch) (tract strandix accs : Nat) : Ctx :=
  { launch := l.id, tract := tract, strandix := strandix, rcb := l.rcb, part := l.part, asid := s.rcb l.part 0x40 2, ptroot := s.rcb l.part 0x48 8,
    translate := true, pbase := s.rcb l.part 0x50 8, plimit := s.rcb l.part 0x58 8, det := s.effDet l.rcb, record := s.effRec l.rcb,
    replay := s.effRep l.rcb, exhStatus := s.effStatus l.rcb, fdom := s.effFdom l.rcb, podgrp := l.podgrp, accs := accs }

/-- A WINDOW declaration of the image for a range of a length: its virtual base is a doubleword of the argument block, with the
checks of R169 (R274). -/
def State.windowBase (s : State) (l : Launch) (arg len : Nat) : Load Nat :=
  match s.flatWalk l.part (l.args + w64 arg) 0 true with
  | .ok (pa, _) =>
    let va := s.currentDword pa
    if va.toNat % 65536 = 0 && canonical va && canonical (va + w64 (len - 1)) && len ≤ 2 ^ 54 then .ok (vaNum va) else .error ()
  | .error _ => .error ()

/-- A virtual range of plot c is owned by no other plot and meets no format window (R84, R169). Ranges of one plot may share
addresses: the one declared first serves them (the model's choice, log entry 65). -/
def State.rangeFree (s : State) (c asid part vbase len : Nat) : Bool :=
  !s.windows.any (fun w => w.owner != c && w.asid = asid && overlaps vbase len w.vbase w.length) &&
  (s.fwins.all (fun kw => !kw.2.enable) || (List.range (len / 65536)).all fun k =>
    match s.flatWalk part (vaWord (vbase + 65536 * k)) 0 true with
    | .ok (pa, _) => !s.fwins.any fun kw => kw.2.enable && overlaps pa 65536 kw.2.base kw.2.size
    | .error _ => true)

/-- The regions and WINDOW ranges that a strand's declarations make on plot c, as STASHDECL would (R274). -/
def State.declared (s : State) (l : Launch) (c asid : Nat) (ds : List ImgDecl) : Load (List Region × List Window) :=
  ds.foldlM (fun r d => do
    let regions := r.1 ++ [{ kind := d.kind, base := d.base, size := d.size }]
    if d.kind = 2 then
      let len := d.size * 2 ^ d.j
      let vb ← s.windowBase l d.arg len
      ok? (s.rangeFree c asid l.part vb len)
      pure (regions, r.2 ++ [{ owner := c, base := d.base, size := d.size, vbase := vb, j := d.j, asid := asid }])
    else pure (regions, r.2)) ([], [])

/-- The doublewords of the argument block that hold virtual bases are read (R312). -/
def State.walkArgs (s : State) (l : Launch) (ds : List ImgDecl) : State :=
  (ds.filter (·.kind = 2)).foldl (fun s d => s.walkRange l.part (vaNum (l.args + w64 d.arg)) 8 0 true) s

/-- The sequencer of a strand at its start (R44). -/
def State.entrySeq (s : State) (x : Ctx) (regs : NMap Reg) (gen : BitVec 16) (l : Launch) (entry tvec : Nat) (sh : Nat × Nat) : Seq :=
  let put (r : NMap Reg) (k : Nat) (v : Word) : NMap Reg := r.set k { val := v, tag := gen }
  let regs := put (put (put regs 1 l.args) 2 (w64 x.strandix)) 3 (w64 (sh.1 * 256 + sh.2))
  { run := if l.holdchild then .held else .running, regs := regs, pc := w64 entry, gstrict := s.effStrict x.rcb, cycleAt := s.tempo,
    lastDone := s.tempo, tvec := w64 tvec, ctx := x, lastAcq := s.tempo }

/-- One strand is loaded: generation, code (which a warm launch finds there, R305), declarations, entry state; a folded one that
is not the first of its plot stands in an area (R334). -/
def State.loadStrand (s : State) (l : Launch) (m : Img) (h : ImgHead) (x : ImgMap) (handler : List Word × Nat) (ix : Nat) : Load State := do
  let st ← s.imgStrand m h x ix
  let ds ← s.imgDecls m st
  let seat := x.seat ix
  let full := locate l.full 0 ix
  let t := l.tracts.getD seat.1 { acre := 0, rank := 0, file := 0, nr := 1, nf := 1 }
  let c := (t.plots).getD seat.2 0
  let ws ← s.strandCode m st l.tracts seat.1 handler.1
  let p0 := s.plot c
  let p := p0.freshGen
  let banks : NMap BankTok := (List.range 16).filterMap fun b => if st.banks.testBit b then some (b, .away) else none
  let first := ix % 2 ^ x.frac = 0
  let p := if l.warm && first then p else { p with code := numbered ws, codeLen := 8 * ws.length, codeBad := [] }
  let p := { p with banks := banks, started := false, fallow := false }
  let cx := s.ctxOf l full.1 ix h.acc
  let tvec := if handler.1.isEmpty then 0 else st.len + handler.2 + 1
  let q := s.entrySeq cx (p0.regsAfter (s.seqOf c).regs) p.gen l st.entry tvec (l.full.getD full.1 (1, 1))
  let dw ← s.declared l c cx.asid ds
  let p := { p with regions := dw.1 }
  let s := s.walkArgs l ds
  if first then
    let s := (s.setPlot c p).setSeqOf c q
    let s := s.setView c { snap := s.coherent }
    pure { s with windows := s.windows ++ dw.2 }
  else
    let key := 2 ^ 60 + l.id * 65536 + ix
    let s := { s with areas := s.areas.set key { seq := q, plot := p, wins := dw.2, home := c } }
    pure (s.modPlot c fun p => { p with folded := p.folded ++ [key] })

/-- The strands of tract t are loaded. -/
def State.loadTract (s : State) (l : Launch) (t : Nat) : Load State := do
  let m := s.imgOf l.part l.image
  let (h, maps) ← s.mapsOf l
  let x := maps.getD l.mapping default
  let handler ← s.handlerCode l.part
  let ixs := (List.range x.count).filter fun ix => (x.seat ix).1 = t
  ixs.foldlM (fun s ix => s.loadStrand l m h x handler ix) (s.walkImage m h)

def setAt {α : Type} (l : List α) (k : Nat) (f : α → α) : List α := l.mapIdx fun i x => if i = k then f x else x

/-- STRAND_RELEASE (R35): the plots of the tract are bumped and loaded, and its strands released together. An image that no
longer loads, or a declaration that cannot be made, fails the launch with LAUNCHBAD (R274). -/
def execStrandRelease (s : State) : Out :=
  match s.launch? s.evt.a with
  | none => .next s
  | some l =>
    let k := s.evt.b
    match l.tracts[k]? with
    | none => .next s
    | some t =>
      if t.released || l.stopAll || t.drain.isSome then .next s
      else match s.loadTract l k with
        | .error () => .next (s.failLaunch l.id .launchbad)
        | .ok s =>
          .next (s.modLaunch l.id fun l => { l with
            tracts := setAt l.tracts k fun t => { t with released := true, relAt := s.tempo, ranksUp := 0 },
            wdogAt := s.tempo, wdogArmed := true, wdogUs := s.effWdog l.rcb })

/-- RANK_START (R393): one rank every 64 cycles from the origin rank on. -/
def execRankStart (s : State) : Out :=
  match s.launch? s.evt.a with
  | none => .next s
  | some l =>
    match l.tracts[s.evt.b]? with
    | none => .next s
    | some t =>
      let cycles := (s.tempo.toNat - t.relAt.toNat) * (s.acre t.acre).point / 10
      if t.released && t.ranksUp < t.nr && 64 * t.ranksUp ≤ cycles then
        let s := (List.range t.nf).foldl (fun s f =>
          s.modPlot (coordOf t.acre (t.rank + t.ranksUp) (t.file + f)) fun p => { p with started := true }) s
        .next (s.modLaunch l.id fun l => { l with tracts := setAt l.tracts s.evt.b fun t => { t with ranksUp := t.ranksUp + 1 } })
      else .next s

/-- HOLDCHILD_RELEASE (R289, R339): the held strands of a launch are released; each goes on with a fresh snapshot (R112). -/
def execHoldchildRelease (s : State) : Out :=
  let held := (s.agentsWith fun c => c.launch = s.evt.a).filter fun a => (s.seqOf a).run == .held
  let s := held.foldl (fun s a => (s.acquire a).modSeqOf a fun q => { q with run := .running }) s
  .next (s.modLaunch s.evt.a fun l => { l with holdchild := false })

/-! ### Retirement (R36, R300) -/

/-- Every strand of a launch, on a plot or in an area. -/
def State.strandsOf (s : State) (launch : Nat) : List Seq :=
  ((s.seqs.filter fun kq => !isHub kq.1 && kq.2.run != .idle && kq.2.ctx.launch = launch).map (·.2)) ++
  ((s.areas.filter fun ka => ka.2.live && ka.2.seq.ctx.launch = launch).map (·.2.seq))

def State.finished (s : State) (l : Launch) : Bool :=
  l.placedAt.isSome && (l.stopAll || l.tracts.all (·.released)) &&
    (s.strandsOf l.id).all fun q => q.run == .ended || q.run == .failed

/-- A byte written by two strands in a tract's final episode (R114). -/
def detClash (l : List DetByte) : Bool := l.any fun b => 1 < b.writers.length

/-- A log entry of the launch that no decision has taken (R372); those of its output events are still to come. -/
def State.untaken (s : State) (l : Launch) : Option LogEnt :=
  if !s.effRep l.rcb then none
  else
    let node := s.eff l.rcb 12
    let es := (List.range (s.rcb node 0x70 8 / 32)).map (s.logEntry (s.rcb node 0x68 8))
    let own (e : LogEnt) : Bool := e.kind = 6 && e.value = BitVec.allOnes 64 && l.outev.any (fun x => x.2 != 0 && x.1 = e.key)
    es.find? fun e => e.lord = l.ordinal && !own e &&
      s.taken l node e.kind e.strandix e.key ≤ ((es.filter fun f => f.ix < e.ix && f.inStream e.lord e.kind e.strandix e.key).length)

/-- Ports of the team's contexts hold tokens, or tokens fly towards its plots. -/
def State.hasResidue (s : State) (launch : Nat) (plots : List Nat) : Bool :=
  let left (p : Plot) : Bool := p.ports.any fun kt => !kt.2.isEmpty
  plots.any (fun c => left (s.plot c)) || s.flight.any (fun f => plots.contains f.dst && f.bank.isNone) ||
    s.areas.any (fun ka => ka.2.live && ka.2.seq.ctx.launch = launch && left ka.2.plot)

/-- STATUS (R298). -/
def Launch.status (l : Launch) : Word :=
  w64 (1 + (if l.residue then 2 else 0) + (if l.detconf then 4 else 0) + (if l.lateexc then 8 else 0) + (if l.fault then 16 else 0) +
    (if l.fault then 256 * l.cause.toNat else 0))

/-- A signal by firmware or a host: a decision of a launch at the slot, with all ones as its issuer (R369). An error keeps it back:
it is not its turn, or the log is full. -/
def State.signalFor (s : State) (launch : Nat) (x : EvSlot) (inc : Nat) : Except State State :=
  match s.atLocation launch 6 (w64 x.name) (BitVec.allOnes 64) with
  | .free t => .ok (t.signal x inc)
  | .diverged t => .ok t
  | .forced t _ | .full t => .error t

/-- An output event of a launch (R300): EVSIG with its increment, an increment of 0 signalling nothing; logged as the
firmware's where the launch records (R369). -/
def State.outputEvent (s : State) (l : Launch) (e : Nat × Nat) : Except State State :=
  if e.2 = 0 then .ok s
  else match s.slotOf l.part e.1 with
    | none => .ok s
    | some x => s.signalFor l.id x e.2

/-- What the launch held goes back to every ancestor: plots, stash, event slots of EVALLOC, barrier slots. An episode of a pod
barrier group outlives the launch that opened it while another launch of the group is there (R33, R308). -/
def State.giveBack (s : State) (l : Launch) : State :=
  let s := (s.useLess l.queue 0xC0 4 l.plotsHeld).useLess l.queue 0xC8 8 l.stashHeld
  let mine := s.sched.events.filter fun ke => ke.2.launch == some l.id
  let s := (s.useLess l.rcb 0xD0 2 mine.length)
  let s := mine.foldl (fun s ke => s.freeSlot ke.1) s
  let group := s.sched.launches.any fun kl => kl.1 != l.id && kl.2.podgrp = l.podgrp && l.podgrp != 0
  let ends (e : Episode) : Bool := if e.scope = 4 then e.group = l.podgrp && !group else e.launch = l.id
  let eps := s.sched.episodes.filter fun e => ends e && 2 ≤ e.scope
  let s := eps.foldl (fun s e => if e.launch = l.id then s.useLess l.rcb 0xD2 2 1 else s.useLess e.queue 0xD2 2 1) s
  s.modSched fun c => { c with episodes := c.episodes.filter fun e => !ends e,
                               headlands := c.headlands.map fun h => if h.busy == some l.id then { h with busy := none } else h }

/-- The plots of the team are idle again; their tagged state stays. -/
def State.clearPlots (s : State) (l : Launch) : State :=
  let plots := (l.tracts.flatMap Tract.plots).filter fun c => (s.seqOf c).ctx.launch = l.id
  let s := plots.foldl (fun s c => (s.setPlot c ((s.plot c).bump (s.plot c).gen)).modSeqOf c fun q => { regs := q.regs }) s
  let otherAreas := s.areas.filter (fun ka => ka.2.seq.ctx.launch != l.id)
  let late (x : CacheSector) : CacheSector := if x.ctx = l.id then { x with ctx := queueCtx l.queue } else x
  { s with
    views := s.views.filter (fun kv => !plots.contains kv.1),
    areas := otherAreas,
    windows := s.windows.filter (fun w => !plots.contains w.owner),
    flight := s.flight.filter (fun f => !plots.contains f.dst),
    det := s.det.filter (fun kd => kd.1 / 16 != l.id),
    cache := s.cache.map (fun kc => (kc.1, late kc.2)) }

/-- Steps 1 to 3 of a retirement (R300), with the energy sampled before (R321): STATUS, the return of what the launch held, its
plots idle, the plot-time. -/
def State.retireLaunch (s : State) (l : Launch) : State :=
  let plots := l.tracts.flatMap Tract.plots
  let us := (s.tempo.toNat - (l.placedAt.getD s.tempo).toNat) / 1000
  let s := s.sampleTracts l.tracts
  let s := { s with phys := s.phys.putDword (l.record + 0x60) l.status }
  let s := s.giveBack l
  let s := (s.setDeficit l.queue (s.deficit l.queue - (plots.length * us : Nat))).clearPlots l
  s.modLaunch l.id fun l => { l with retiring := true, tracts := [], plotsHeld := 0, stashHeld := 0 }

/-- Step 4: the output events one after the other; one that the log keeps back waits with those behind it (R370, R371). -/
def State.outputEvents (s : State) (l : Launch) : List (Nat × Nat) → State × List (Nat × Nat)
  | [] => (s, [])
  | e :: es =>
    match s.outputEvent l e with
    | .ok t => t.outputEvents l es
    | .error t => (t, e :: es)

/-- The launch is gone once its output events have been performed. -/
def State.endLaunch (s : State) (l : Launch) : State :=
  let r := s.outputEvents l l.outev
  if r.2.isEmpty then
    r.1.modSched fun c => { c with launches := c.launches.del l.id, contexts := c.contexts.del l.rcb, nodes := c.nodes.del l.rcb }
  else r.1.modLaunch l.id fun l => { l with outev := r.2 }

/-- LAUNCH_RETIREMENT (R36, R114, R300, R372). -/
def execLaunchRetirement (s : State) : Out :=
  match s.launch? s.evt.a with
  | none => .next s
  | some l =>
    if l.retiring then .next (s.endLaunch l)
    else if !s.finished l then .next s
    else
      let s := match s.untaken l with | some e => s.diverge l.id e.tempo e.ix | none => s
      let residue := s.hasResidue l.id (l.tracts.flatMap Tract.plots)
      let clash := s.det.any fun kd => kd.1 / 16 = l.id && detClash kd.2
      let s := s.modLaunch l.id fun l => { l with residue := residue, detconf := l.detconf || clash }
      match s.launch? l.id with
      | none => .next s
      | some l => .next ((s.retireLaunch l).endLaunch l)

/-- HEADLAND_SCRUB (R305): an idle headland plot whose GEN is at or above 0xFE00 is scrubbed. -/
def execHeadlandScrub (s : State) : Out :=
  let c := s.evt.a
  if s.sched.headlands.any (fun h => h.busy.isNone && h.tract.has c) && 0xFE00 ≤ (s.plot c).gen.toNat then
    .next ((s.modPlot c Plot.scrub).modSeqOf c fun q => { q with regs := [] })
  else .next s

end Sys2Proof.Machine
end

