-- ==== Sys2Proof/Machine/Access.lean ====
section
/-! DEFINITION. The sequencer's own accesses: the checks of R148, reading and writing 1, 2, 4 or 8 bytes in either space, and
what observes them (R96, R97, R315, R344, R378). -/

namespace Sys2Proof.Machine

/-! ### Words -/

/-- The word addresses that n bytes from `a` touch. -/
def wordsOf (a n : Nat) : List Nat := (List.range ((a % 4 + n + 3) / 4)).map fun k => a / 4 * 4 + 4 * k

/-- The n bytes from byte `a % 4` of the first word, as a number, little-endian. -/
def valueOf (a n : Nat) (ws : List CW) : Nat :=
  (List.range n).foldl (fun acc k =>
    acc + (byteOf (ws.getD ((a % 4 + k) / 4) CW.zero).v ((a % 4 + k) % 4)).toNat * 256 ^ k) 0

/-- The mask and the datum of word k of a store of n bytes at `a`. -/
def storeMask (a n k : Nat) : BitVec 4 :=
  let f (b : Nat) : Nat := if a % 4 ≤ 4 * k + b ∧ 4 * k + b < a % 4 + n then 2 ^ b else 0
  BitVec.ofNat 4 (f 0 + f 1 + f 2 + f 3)

def storeWord (a k : Nat) (v : Word) : BitVec 32 := BitVec.ofNat 32 (v.toNat * 2 ^ (8 * (a % 4)) / 2 ^ (32 * k))

/-- The first word of a list that its consumer must refuse: its place and the cause. -/
def firstBad : Nat → List CW → Option (Nat × Cause)
  | _, [] => none
  | k, w :: l => match CW.check w with | some c => some (k, c) | none => firstBad (k + 1) l

/-- A poisoned word that comes from another module is REMPOISON (R344). -/
def State.poisonCause (s : State) (t : Tlb) (pa : Nat) (c : Cause) : Cause :=
  if c == .poison && ptePodc t.pte && s.podHome pa != s.fabric.podIndex then .rempoison else c

/-- Consuming the words of an access (R96, R97, R344): TVAL0 is the address of the first bad one. -/
def State.consume (s : State) (t : Tlb) (va : Word) (pa : Nat) (ws : List CW) : Res Unit :=
  match firstBad 0 ws with
  | some (k, c) => trap (s.poisonCause t pa c) (w64 (va.toNat / 4 * 4 + 4 * k))
  | none => .ok ()

def consumeLocal (a : Nat) (ws : List CW) : Res Unit :=
  match firstBad 0 ws with
  | some (k, c) => trap c (w64 (a / 4 * 4 + 4 * k))
  | none => .ok ()

/-! ### What observes an access -/

/-- WATCHPT (R280): the access is to the watched doubleword; the trap is taken after the instruction. -/
def State.watchAccess (s : State) (va : Word) (n : Nat) (write : Bool) : State :=
  let q := s.seq
  if 0 < n && q.wctl.getLsbD (if write then 1 else 0) && va.toNat / 8 ≤ q.waddr.toNat / 8 && q.waddr.toNat / 8 ≤ (va.toNat + n - 1) / 8
  then s.modSeq fun q => { q with watch := true } else s

/-- A trace record (R379): 32 bytes in the ring; a full ring overwrites its oldest record and counts. -/
def State.trace (s : State) (a : Nat) (va : Word) (scope reason publisher : Nat) : State :=
  let o := s.obs
  let n := o.ringSize.toNat / 32
  if n = 0 then s
  else
    let at_ := o.ringBase.toNat + 32 * (o.ringPos % n)
    let p := (s.phys.putDword at_ s.tempo).putDword (at_ + 8) va
    let p := p.putNum (at_ + 16) 4 (a % 65536 + scope % 256 * 65536 + reason * 16777216)
    let p := p.putNum (at_ + 20) 4 ((s.seqOf a).ctx.launch % 2 ^ 32)
    let p := p.putDword (at_ + 24) (w64 publisher)
    { s with phys := p, obs := { o with ringPos := o.ringPos + 1, ringOver := if n ≤ o.ringPos then o.ringOver + 1 else o.ringOver } }

/-- The scope checker (R378) on a plain load or stream read of a sector: published by a release that does not cover the
reader, or by another agent after the reader's last acquire boundary. -/
def State.scopeCheck (s : State) (a : Nat) (va : Word) (pa : Nat) : State :=
  let q := s.seqOf a
  match s.obs.scopeCtl.find? (fun kv => kv.2.getLsbD 63 && bits kv.2 0 16 = q.ctx.asid), s.obs.sectorTags.find (pa / 64) with
  | some kv, some g =>
    let out := !s.covers g.agent g.scope g.launch g.tract a
    let late := g.agent != a && q.lastAcq.toNat < g.at_.toNat
    if out || late then
      if kv.2.getLsbD 16 then s.raiseAt a { cause := .scopechk, t0 := va } else s.trace a va g.scope (if out then 1 else 2) g.agent
    else s
  | _, _ => s

/-! ### The checks of R148 -/

/-- Orders 3 to 6 for a GLOBAL access at `va`: the translation. `kind` 1 counts as a write; a publishable page refuses
stores and atomics. -/
def State.reachGlobal (s : State) (va : Word) (kind : Nat) (pubBad : Bool) : Res Tlb := do
  let t ← s.translate s.cur 0 va kind
  s.present s.cur 0 t va kind
  need (!(pubBad && ptePub t.pte)) .pubbad va
  pure t

/-- Orders 3 to 6 of R148 for the n doublewords of a group, one check after the other over the whole group (R149). -/
def State.reachGroup (s : State) (va : Word) (n kind : Nat) (pubBad : Bool) : Res Unit := do
  let at_ (k : Nat) : Word := va + w64 (8 * k)
  let ts ← (List.range n).mapM fun k => s.translate s.cur 0 (at_ k) kind
  let pas := (List.range n).map fun k => (ts.getD k default).pa (at_ k)
  match (List.range n).find? (fun k => s.popKind (pas.getD k 0) = 0) with
  | some k => s.present s.cur 0 (ts.getD k default) (at_ k) kind
  | none =>
    match (List.range n).find? (fun k => pubBad && ptePub (ts.getD k default).pte) with
    | some k => trap .pubbad (at_ k)
    | none => pure ()

/-- The words of a GLOBAL read, the address translated, with what the fabric and the home make of it. -/
def State.readWords (s : State) (t : Tlb) (va : Word) (n : Nat) (current : Bool) : Res (List CW × State) := do
  let pa := t.pa va
  let s ← s.reach s.cur 0 { t := t, va := va, pa := pa, kind := if current then 4 else loadKind t }
  if !s.homeRangeOk s.cur pa then
    let s := s.homeCheckReport s.cur pa
    pure ((wordsOf pa n).map fun a => CW.poison (Config.lost a), s)
  else
    let s := s.touchAt s.cur va pa (ptePodc t.pte) (pteMt t.pte = 1) false
    let ws := (wordsOf pa n).map fun a => if current then s.currentWord s.cur t va a false else s.seenWord s.cur t a
    pure (ws, if current then s else s.scopeCheck s.cur va pa)

/-- A scalar read of n bytes at `va` in GLOBAL space, its address aligned and its sources checked. -/
def State.readGlobal (s : State) (va : Word) (n : Nat) (current : Bool) : Res (Nat × State) := do
  let t ← s.reachGlobal va 0 false
  let pa := t.pa va
  if s.popKind pa = 3 then
    match s.hubLoad s.cur (pa / 8 * 8) with
    | some v => pure (v.toNat / 2 ^ (8 * (pa % 8)) % 256 ^ n, s)
    | none => trap .protr va
  else
    let (ws, s) ← s.readWords t va n current
    s.consume t va pa ws
    pure (valueOf pa n ws, s)

/-- In strict mode the instruction that obtains bytes of a stale granule traps (R40). -/
def State.granules (s : State) (word : Word) (stale : Bool) : Res Unit := need (!(s.seq.gstrict && stale)) .genstale word

/-- A scalar read of n bytes of stash. -/
def State.readLocal (s : State) (word : Word) (a n : Nat) : Res Nat := do
  s.localCheck a n
  s.granules word ((s.plot s.cur).anyStale a n)
  let ws := (wordsOf a n).map (s.plot s.cur).word
  consumeLocal a ws
  pure (valueOf a n ws)

/-- A store of n bytes into hub space: uncached, performed at once. -/
def State.writeHub (s : State) (va : Word) (pa n : Nat) (v : Word) : Res State :=
  match s.hubLoad s.cur (pa / 8 * 8) with
  | none => trap .protw va
  | some old =>
    let sh := 8 * (pa % 8)
    let m : Word := w64 ((256 ^ n - 1) * 2 ^ sh)
    match s.hubStore s.cur (pa / 8 * 8) ((old &&& ~~~m) ||| ((v <<< sh) &&& m)) with
    | some t => .ok t
    | none => trap .protw va

/-- A scalar store of n bytes in GLOBAL space enters the strand's own view (R99); a part of a word is checked against the
word as the strand sees it (R341). -/
def State.writeGlobal (s : State) (va : Word) (n : Nat) (v : Word) : Res State := do
  let t ← s.reachGlobal va 1 true
  let pa := t.pa va
  if s.popKind pa = 3 then s.writeHub va pa n v
  else
    let s ← (if n < 4 then do
        let (ws, s) ← s.readWords t va n false
        s.consume t va pa ws
        pure s
      else pure s)
    let u := (s.view s.cur).nextId
    pure ((List.range ((n + 3) / 4)).foldl (fun s k =>
      let d := storeWord pa k v
      s.ownStore s.cur t (w64 (va.toNat / 4 * 4 + 4 * k)) (pa / 4 * 4 + 4 * k) (storeMask pa n k) d (lcc d) u) s)

/-- A scalar store of n bytes into stash, at once (R41, R147). -/
def State.writeLocal (s : State) (a n : Nat) (v : Word) : Res State := do
  s.localCheck a n
  let p := s.plot s.cur
  if n < 4 then consumeLocal a ((wordsOf a n).map p.word)
  pure (s.setPlot s.cur ((List.range ((n + 3) / 4)).foldl (fun p k =>
    let wa := a / 4 * 4 + 4 * k
    let d := storeWord a k v
    p.put wa (mergeWord (p.word wa) d (lcc d) (storeMask a n k)).1) p))

end Sys2Proof.Machine
end

