-- ==== Sys2Proof/Machine/LoadStore.lean ====
section
/-! DEFINITION. Class 0x2: scalar loads and stores, PREF and CLEAN (R147 to R151). -/

namespace Sys2Proof.Machine

/-! ### Shared operations -/

/-- The effective address (R119, R147). -/
def State.addr (s : State) (x : SM) : Word := s.reg x.sa + sx x.off

/-- A load of n bytes (R147, R148). -/
def State.loadThen (s : State) (word : Word) (x : SM) (n : Nat) (ext : Nat → Word) : Out :=
  let a := s.addr x
  settle s (do
    need (a.toNat % n = 0) .align a
    s.sources word [x.sa]
    if x.s = 1 then
      let v ← s.readLocal word a.toNat n
      pure (s.setReg x.rd (ext v)).retire
    else
      let (v, t) ← s.readGlobal a n (x.order = 1)
      pure ((t.setReg x.rd (ext v)).watchAccess a n false).retire)

/-- A store of n bytes (R147, R148). -/
def State.storeOf (s : State) (word : Word) (x : SM) (n : Nat) : Out :=
  let a := s.addr x
  let v := s.reg x.rd
  settle s (do
    need (a.toNat % n = 0) .align a
    s.sources word [x.sa, x.rd]
    if x.s = 1 then
      let t ← s.writeLocal a.toNat n v
      pure t.retire
    else
      let t ← s.writeGlobal a n v
      pure (t.watchAccess a n true).retire)

/-- Sign extension of an n-byte value, and the value itself. -/
def signOf (n v : Nat) : Word := sext (w64 v) (8 * n)

/-- The doublewords of a group read one after the other; none is kept unless all can be (R149). -/
def State.readGroup (s : State) (word : Word) (loc : Bool) (a : Word) : Nat → Res (List Nat × State)
  | 0 => .ok ([], s)
  | n + 1 => do
    let (l, s) ← s.readGroup word loc a n
    let d := a + w64 (8 * n)
    if loc then
      let v ← s.readLocal word d.toNat 8
      pure (l ++ [v], s)
    else
      let (v, s) ← s.readGlobal d 8 false
      pure (l ++ [v], s)

def State.writeGroup (s : State) (loc : Bool) (a : Word) : List Word → Nat → Res State
  | [], _ => .ok s
  | v :: l, k => do
    let d := a + w64 (8 * k)
    let s ← (if loc then s.writeLocal d.toNat 8 v else s.writeGlobal d 8 v)
    s.writeGroup loc a l (k + 1)

/-! ### Meanings -/

/-- LDB. -/
def execLdb (x : SM) (s : State) : Out := s.loadThen (encode (.ldb x)) x 1 (signOf 1)

/-- LDBU. -/
def execLdbu (x : SM) (s : State) : Out := s.loadThen (encode (.ldbu x)) x 1 w64

/-- LDH. -/
def execLdh (x : SM) (s : State) : Out := s.loadThen (encode (.ldh x)) x 2 (signOf 2)

/-- LDHU. -/
def execLdhu (x : SM) (s : State) : Out := s.loadThen (encode (.ldhu x)) x 2 w64

/-- LDW. -/
def execLdw (x : SM) (s : State) : Out := s.loadThen (encode (.ldw x)) x 4 (signOf 4)

/-- LDWU. -/
def execLdwu (x : SM) (s : State) : Out := s.loadThen (encode (.ldwu x)) x 4 w64

/-- LDD. -/
def execLdd (x : SM) (s : State) : Out := s.loadThen (encode (.ldd x)) x 8 w64

/-- STB. -/
def execStb (x : SM) (s : State) : Out := s.storeOf (encode (.stb x)) x 1

/-- STH. -/
def execSth (x : SM) (s : State) : Out := s.storeOf (encode (.sth x)) x 2

/-- STW. -/
def execStw (x : SM) (s : State) : Out := s.storeOf (encode (.stw x)) x 4

/-- STD. -/
def execStd (x : SM) (s : State) : Out := s.storeOf (encode (.std x)) x 8

/-- LDM (R149): every check is made, and every source read, before a register is written. -/
def execLdm (x : SM) (s : State) : Out :=
  let n := x.cnt.toNat + 1
  let a := s.addr x
  settle s (do
    need (x.rd.toNat + n ≤ 32) .grpwrap (encode (.ldm x))
    need (a.toNat % 8 = 0) .align a
    s.sources (encode (.ldm x)) [x.sa]
    if x.s = 1 then s.localCheck a.toNat (8 * n) else s.reachGroup a n 0 false
    let (l, t) ← s.readGroup (encode (.ldm x)) (x.s = 1) a n
    let t := (List.range n).foldl (fun t k => t.setReg (x.rd + BitVec.ofNat 5 k) (w64 (l.getD k 0))) t
    pure ((if x.s = 1 then t else t.watchAccess a (8 * n) false).retire))

/-- STM (R149). -/
def execStm (x : SM) (s : State) : Out :=
  let n := x.cnt.toNat + 1
  let a := s.addr x
  settle s (do
    need (x.rd.toNat + n ≤ 32) .grpwrap (encode (.stm x))
    need (a.toNat % 8 = 0) .align a
    s.sources (encode (.stm x)) (x.sa :: group x.rd n)
    if x.s = 1 then s.localCheck a.toNat (8 * n) else s.reachGroup a n 1 true
    let t ← s.writeGroup (x.s = 1) a ((group x.rd n).map s.reg) 0
    pure ((if x.s = 1 then t else t.watchAccess a (8 * n) true).retire))

/-- PREF (R150): no architectural effect; only GENSTALE of its base can be seen. -/
def execPref (x : SM) (s : State) : Out :=
  settle s (do
    s.sources (encode (.pref x)) [x.sa]
    pure s.retire)

/-- This module's dirty copy of a pod sector that it homes is written to memory; the entry stays with it in state E. -/
def State.cleanLine (s : State) (pa : Nat) (l : PodLine) : State :=
  let s := (List.range 16).foldl (fun s k => s.putMemory (pa / 64 * 64 + 4 * k) (l.words.getD k CW.zero)) s
  s.modFabric fun f => { f with lines := f.lines.set (pa / 64) { l with st := 2 },
                                dir := f.dir.set (pa / 64) { f.dir.get {} (pa / 64) with st := 2 } }

/-- The sector is written back: by its owning stash (R85), from this module's copy of a pod sector, or by the home slice. A
dirty copy of a sector that another module homes goes there by a WRH, which CLEAN waits for (R362). -/
def State.cleanSector (s : State) (va : Word) (t : Tlb) : Res State :=
  let pa := t.pa va
  match s.winOf (s.asidOf s.cur) (vaNum va) with
  | some w =>
    match w.sector (vaNum va) with
    | some x => .ok ((s.writeSector x).setWindow { w with sectors := w.sectors.set (w.place (vaNum va)) { x with dirty := false } })
    | none => .ok s
  | none =>
    let key := (s.cur * 16, 2, pa / 64)
    match (if ptePodc t.pte then s.fabric.lines.find (pa / 64) else none), s.replyFor s.cur 0 (pa / 64) with
    | some _, some r => .error (.trap (r.raise va))
    | some l, none =>
      if s.fabric.granted.contains key then .ok (s.modFabric fun f => { f with granted := f.granted.filter (· != key) })
      else if l.st != 3 then .ok s
      else if s.homedHere pa then .ok ((s.cleanLine pa l).writeBack pa true)
      else waitFor (s.askDirectory s.cur 0 2 pa l.words (List.replicate 64 true)) s.cur 0
    | none, _ => .ok (s.writeBack pa (ptePodc t.pte))

/-- CLEAN (R151): the checks of an LDB, but for alignment and the consumption of data. -/
def execClean (x : SM) (s : State) : Out :=
  let a := s.addr x
  settle s (do
    s.sources (encode (.clean x)) [x.sa]
    let t ← s.reachGlobal a 0 false
    if s.popKind (t.pa a) = 3 then pure s.retire
    else
      if !s.linkOk s.cur (t.pa a) then waitFor s s.cur 0
      pure (← s.cleanSector a t).retire)

end Sys2Proof.Machine
end

