-- ==== Sys2Proof/Machine/Flags.lean ====
section
/-! DEFINITION. Numbers: the floating-point formats, rounding and its flags, arithmetic on exact values, conversions,
integer elements, the Philox generator (R51 to R75). -/

namespace Sys2Proof.Machine

/-! ### Formats (R53) -/

/-- A floating-point format: exponent bits, mantissa bits, bias, the largest finite encoding; whether it has infinities. -/
structure FFmt where
  eb : Nat
  mb : Nat
  bias : Nat
  maxBits : Nat
  hasInf : Bool
  nan : Nat

/-- The format of a code; every code that is no floating-point element format answers F32. -/
def fmtOf (f : Nat) : FFmt :=
  match f with
  | 1 => { eb := 8, mb := 7, bias := 127, maxBits := 0x7F7F, hasInf := true, nan := 0x7FC0 }
  | 2 => { eb := 5, mb := 10, bias := 15, maxBits := 0x7BFF, hasInf := true, nan := 0x7E00 }
  | 3 | 6 | 9 => { eb := 4, mb := 3, bias := 7, maxBits := 0x7E, hasInf := false, nan := 0x7F }
  | 4 | 7 => { eb := 5, mb := 2, bias := 15, maxBits := 0x7B, hasInf := true, nan := 0x7E }
  | 5 | 8 => { eb := 2, mb := 1, bias := 1, maxBits := 0x7, hasInf := false, nan := 0x7 }
  | _ => { eb := 8, mb := 23, bias := 127, maxBits := 0x7F7FFFFF, hasInf := true, nan := 0x7FC00000 }

def FFmt.width (f : FFmt) : Nat := 1 + f.eb + f.mb
def FFmt.signBit (f : FFmt) : Nat := 2 ^ (f.eb + f.mb)

/-- The exponent of the least significant bit of a subnormal. -/
def FFmt.low (f : FFmt) : Int := 1 - f.bias - f.mb

/-- A value: NaN (with its sign, and whether it signals), infinity, or (−1)^neg × m × 2^e. -/
inductive FVal where
  | nan (neg signals : Bool)
  | inf (neg : Bool)
  | fin (neg : Bool) (m : Nat) (e : Int)
  deriving DecidableEq, Repr, Inhabited

/-- The value of an encoding (R53, R54). -/
def FFmt.decode (f : FFmt) (v : Nat) : FVal :=
  let neg := v / f.signBit % 2 = 1
  let e := v / 2 ^ f.mb % 2 ^ f.eb
  let m := v % 2 ^ f.mb
  if f.hasInf && e = 2 ^ f.eb - 1 then
    if m = 0 then .inf neg else .nan neg (7 ≤ f.mb && m < 2 ^ (f.mb - 1))
  else if f.eb = 4 && e = 15 && m = 7 then .nan neg false
  else if e = 0 then .fin neg m f.low
  else .fin neg (2 ^ f.mb + m) (f.low + (e - 1))

def f32 : FFmt := fmtOf 0

/-! ### Rounding and flags (R58, R59) -/

/-- Flags in FPFLAGS order: [0] NX, [1] UF, [2] OF, [3] DZ, [4] NV. -/
abbrev FlagSet := BitVec 5
def fNX : FlagSet := 1
def fUF : FlagSet := 2
def fOF : FlagSet := 4
def fDZ : FlagSet := 8
def fNV : FlagSet := 16

/-- Rounding modes: 0 nearest even, 1 toward zero, 2 toward −∞, 3 toward +∞. -/
def roundsUp (rm : BitVec 2) (neg : Bool) (r rem half : Nat) (sticky : Bool) : Bool :=
  let exact := rem = 0 && !sticky
  match rm.toNat with
  | 0 => half < rem || (rem = half && half != 0 && (sticky || r % 2 = 1))
  | 1 => false
  | 2 => neg && !exact
  | _ => !neg && !exact

/-- The magnitude m × 2^e (and a little more, if sticky) in units of 2^q, rounded; and whether that was inexact. -/
def roundAt (rm : BitVec 2) (neg : Bool) (m : Nat) (e q : Int) (sticky : Bool) : Nat × Bool :=
  if q ≤ e then (m * 2 ^ (e - q).toNat, sticky)
  else
    let sh := (q - e).toNat
    let r := m / 2 ^ sh
    let rem := m % 2 ^ sh
    (if roundsUp rm neg r rem (2 ^ (sh - 1)) sticky then r + 1 else r, rem != 0 || sticky)

/-- An exact value rounded to a format, with its flags. With `sat` an overflow gives the largest finite value; a format
without infinities always saturates (R64). -/
def FFmt.round (f : FFmt) (rm : BitVec 2) (sat neg : Bool) (m : Nat) (e : Int) (sticky : Bool) : Nat × FlagSet :=
  let sgn := if neg then f.signBit else 0
  if m = 0 && !sticky then (sgn, 0)
  else
    let top := e + Nat.log2 m
    let qU : Int := top - f.mb
    let u := roundAt rm neg m e qU sticky
    let tiny := qU < f.low && !(qU + 1 = f.low && u.1 = 2 ^ (f.mb + 1))
    if f.low ≤ qU && f.maxBits < (qU - f.low).toNat * 2 ^ f.mb + u.1 then
      let toInf := !sat && f.hasInf && (match rm.toNat with | 0 => true | 1 => false | 2 => neg | _ => !neg)
      (sgn + (if toInf then f.maxBits + 1 else f.maxBits), fOF ||| fNX)
    else
      let q := if qU < f.low then f.low else qU
      let b := roundAt rm neg m e q sticky
      (sgn + (q - f.low).toNat * 2 ^ f.mb + b.1, if b.2 then (if tiny then fNX ||| fUF else fNX) else 0)

def FFmt.canon (f : FFmt) : Nat := f.nan
def FFmt.infBits (f : FFmt) (neg : Bool) : Nat := (if neg then f.signBit else 0) + f.maxBits + 1
def FFmt.zero (f : FFmt) (neg : Bool) : Nat := if neg then f.signBit else 0

/-- A result: bits and flags. -/
abbrev FRes := Nat × FlagSet

def FVal.signals : FVal → Bool
  | .nan _ s => s
  | _ => false

def FVal.isNan : FVal → Bool
  | .nan _ _ => true
  | _ => false

/-- A NaN among the operands: the canonical NaN, and NV for a signalling one (R54). -/
def FFmt.nanResult (f : FFmt) (l : List FVal) : FRes := (f.canon, if l.any FVal.signals then fNV else 0)

/-! ### Exact sums -/

/-- (−1)^neg × m × 2^e in units of 2^q, q at most e. -/
def units (neg : Bool) (m : Nat) (e q : Int) : Int :=
  let v : Int := m * 2 ^ (e - q).toNat
  if neg then -v else v

/-- The exact sum of two finite values, rounded once; the sign of an exact zero follows R60. -/
def FFmt.addFin (f : FFmt) (rm : BitVec 2) (n1 : Bool) (m1 : Nat) (e1 : Int) (n2 : Bool) (m2 : Nat) (e2 : Int) : FRes :=
  let q := min e1 e2
  let s := units n1 m1 e1 q + units n2 m2 e2 q
  if s = 0 then
    if m1 = 0 && m2 = 0 && n1 = n2 then (f.zero n1, 0) else (f.zero (rm = 2), 0)
  else f.round rm false (s < 0) s.natAbs q false

/-- a + b (R60). -/
def FFmt.add (f : FFmt) (rm : BitVec 2) (a b : FVal) : FRes :=
  match a, b with
  | .nan _ _, _ => f.nanResult [a, b]
  | _, .nan _ _ => f.nanResult [a, b]
  | .inf x, .inf y => if x = y then (f.infBits x, 0) else (f.canon, fNV)
  | .inf x, _ => (f.infBits x, 0)
  | _, .inf y => (f.infBits y, 0)
  | .fin n1 m1 e1, .fin n2 m2 e2 => f.addFin rm n1 m1 e1 n2 m2 e2

def FVal.neg : FVal → FVal
  | .nan n s => .nan (!n) s
  | .inf n => .inf (!n)
  | .fin n m e => .fin (!n) m e

def FVal.isZero : FVal → Bool
  | .fin _ 0 _ => true
  | _ => false

def FVal.negative : FVal → Bool
  | .nan n _ => n
  | .inf n => n
  | .fin n _ _ => n

/-- The exact product: an infinity or a finite value; none is 0 × ∞. No operand is a NaN. -/
def FVal.times (a b : FVal) : Option FVal :=
  let n := a.negative != b.negative
  match a, b with
  | .fin _ m1 e1, .fin _ m2 e2 => some (.fin n (m1 * m2) (e1 + e2))
  | _, _ => if a.isZero || b.isZero then none else some (.inf n)

/-- a × b (R60). -/
def FFmt.mul (f : FFmt) (rm : BitVec 2) (a b : FVal) : FRes :=
  if a.isNan || b.isNan then f.nanResult [a, b]
  else match a.times b with
    | none => (f.canon, fNV)
    | some (.fin n m e) => f.round rm false n m e false
    | some p => (f.infBits p.negative, 0)

/-- a × b + c with one rounding (R60): 0 × ∞ raises NV even beside a quiet NaN. -/
def FFmt.fma (f : FFmt) (rm : BitVec 2) (a b c : FVal) : FRes :=
  if a.isNan || b.isNan then f.nanResult [a, b, c]
  else match a.times b with
    | none => (f.canon, fNV)
    | some p => if c.isNan then f.nanResult [c] else f.add rm p c

/-- a ÷ b (R60). -/
def FFmt.div (f : FFmt) (rm : BitVec 2) (a b : FVal) : FRes :=
  let n := a.negative != b.negative
  match a, b with
  | .nan _ _, _ => f.nanResult [a, b]
  | _, .nan _ _ => f.nanResult [a, b]
  | .inf _, .inf _ => (f.canon, fNV)
  | .inf _, _ => (f.infBits n, 0)
  | _, .inf _ => (f.zero n, 0)
  | .fin _ m1 e1, .fin _ m2 e2 =>
    if m2 = 0 then (if m1 = 0 then (f.canon, fNV) else (f.infBits n, fDZ))
    else
      let v := m1 * 2 ^ 80
      f.round rm false n (v / m2) (e1 - e2 - 80) (v % m2 != 0)

/-- The integer square root, bit by bit from bit k down. -/
def isqrtFrom (v : Nat) : Nat → Nat → Nat
  | 0, r => r
  | k + 1, r => isqrtFrom v k (if (r + 2 ^ k) * (r + 2 ^ k) ≤ v then r + 2 ^ k else r)

def isqrt (v : Nat) : Nat := isqrtFrom v (Nat.log2 v / 2 + 1) 0

/-- A finite value with an even exponent. -/
def evenExp (m : Nat) (e : Int) : Nat × Int := if e % 2 = 0 then (m, e) else (2 * m, e - 1)

/-- √a (R60). -/
def FFmt.sqrt (f : FFmt) (rm : BitVec 2) (a : FVal) : FRes :=
  match a with
  | .nan _ _ => f.nanResult [a]
  | .inf n => if n then (f.canon, fNV) else (f.infBits false, 0)
  | .fin n m e =>
    if m = 0 then (f.zero n, 0)
    else if n then (f.canon, fNV)
    else
      let x := evenExp m e
      let v := x.1 * 2 ^ 100
      let r := isqrt v
      f.round rm false false r ((x.2 - 100) / 2) (r * r != v)

/-- 1/a (R62). -/
def FFmt.rcp (f : FFmt) (rm : BitVec 2) (a : FVal) : FRes := f.div rm (.fin false 1 0) a

/-- 1/√a (R62). -/
def FFmt.rsq (f : FFmt) (rm : BitVec 2) (a : FVal) : FRes :=
  match a with
  | .nan _ _ => f.nanResult [a]
  | .inf n => if n then (f.canon, fNV) else (f.zero false, 0)
  | .fin n m e =>
    if m = 0 then (f.infBits n, fDZ)
    else if n then (f.canon, fNV)
    else
      let x := evenExp m e
      let r := isqrt (2 ^ 160 / x.1)
      f.round rm false false r (-(x.2 / 2) - 80) (r * r * x.1 != 2 ^ 160)

/-! ### 2^x and log2 x (R62)

Both are computed in fixed point with 256 fractional bits. Away from the exact cases neither value comes near a rounding
boundary of F32, so the truncation error of the series never shows. -/

/-- ln 2 in units of 2^−256. -/
def ln2 : Nat := 0xb17217f7d1cf79abc9e3b39803f2f6af40f343267298b62d8a0d175b8baafa2b

/-- Σ y^k / k! from term k on, in units of 2^−256; `t` is the term y^k / k!. -/
def expSeries (y : Nat) : Nat → Nat → Nat → Nat
  | 0, _, _ => 0
  | n + 1, k, t => t + expSeries y n (k + 1) (t * y / 2 ^ 256 / (k + 1))

/-- 2^a. -/
def FFmt.exp2 (f : FFmt) (rm : BitVec 2) (a : FVal) : FRes :=
  match a with
  | .nan _ _ => f.nanResult [a]
  | .inf n => if n then (f.zero false, 0) else (f.infBits false, 0)
  | .fin n m e =>
    if m = 0 then f.round rm false false 1 0 false
    else if 12 < e + Nat.log2 m then f.round rm false false (2 ^ 64) (if n then -4096 else 4096) true
    else
      let v : Int := units n m e (-256)                     -- a in units of 2^−256
      let k := v / 2 ^ 256
      let r := (v % 2 ^ 256).toNat
      if r = 0 then f.round rm false false 1 k false
      else f.round rm false false (expSeries (r * ln2 / 2 ^ 256) 80 0 (2 ^ 256)) (k - 256) true

/-- Σ u^(2k+1) / (2k+1) in units of 2^−256; `p` is u^(2k+1), `u2` is u². -/
def atanhSeries (u2 : Nat) : Nat → Nat → Nat → Nat
  | 0, _, _ => 0
  | n + 1, k, p => p / (2 * k + 1) + atanhSeries u2 n (k + 1) (p * u2 / 2 ^ 256)

/-- log2 a. -/
def FFmt.log2 (f : FFmt) (rm : BitVec 2) (a : FVal) : FRes :=
  match a with
  | .nan _ _ => f.nanResult [a]
  | .inf n => if n then (f.canon, fNV) else (f.infBits false, 0)
  | .fin n m e =>
    if m = 0 then (f.infBits true, fDZ)
    else if n then (f.canon, fNV)
    else
      let l := Nat.log2 m
      let k : Int := e + l
      if m = 2 ^ l then
        if k = 0 then (f.zero false, 0) else f.round rm false (k < 0) k.natAbs 0 false
      else
        let u := (m - 2 ^ l) * 2 ^ 256 / (m + 2 ^ l)
        let ln := 2 * atanhSeries (u * u / 2 ^ 256) 90 0 u
        let v : Int := k * 2 ^ 256 + (ln * 2 ^ 256 / ln2 : Nat)
        f.round rm false (v < 0) v.natAbs (-256) true

/-! ### Minimum, maximum, order (R61) -/

/-- a < b for values that are no NaN; −0 lies below +0 when `zeros`. -/
def FVal.less (zeros : Bool) (a b : FVal) : Bool :=
  match a, b with
  | .nan _ _, _ => false
  | _, .nan _ _ => false
  | .inf x, .inf y => x && !y
  | .inf x, _ => x
  | _, .inf y => !y
  | .fin n1 m1 e1, .fin n2 m2 e2 =>
    if m1 = 0 && m2 = 0 then zeros && n1 && !n2
    else
      let q := min e1 e2
      units n1 m1 e1 q < units n2 m2 e2 q

/-- Bits of the smaller (or larger) of two encodings. -/
def FFmt.minmax (f : FFmt) (larger : Bool) (x y : Nat) : FRes :=
  let a := f.decode x
  let b := f.decode y
  if a.isNan || b.isNan then f.nanResult [a, b]
  else if (if larger then a.less true b else b.less true a) then (y, 0) else (x, 0)

/-! ### Conversions (R64, R65) -/

/-- The largest finite value with a sign. -/
def FFmt.limit (f : FFmt) (neg : Bool) : Nat := (if neg then f.signBit else 0) + f.maxBits

/-- Floating point to floating point (R64). -/
def FFmt.convert (dst : FFmt) (rm : BitVec 2) (sat : Bool) (a : FVal) : FRes :=
  match a with
  | .nan n s =>
    if dst.eb = 2 then (dst.limit n, fNV) else (dst.canon, if s then fNV else 0)
  | .inf n => if dst.hasInf then (dst.infBits n, 0) else (dst.limit n, fNV)
  | .fin n m e => dst.round rm sat n m e false

/-- Ranges of the integer formats (R55). -/
def intSigned (f : Nat) : Bool := f != 0xD
def intMax (f : Nat) : Int := if intSigned f then 2 ^ (fmtWidth f - 1) - 1 else 255
def intMin (f : Nat) : Int := if intSigned f then -2 ^ (fmtWidth f - 1) else 0

/-- The value of an integer element. -/
def intOf (f : Nat) (v : Nat) : Int :=
  let w := fmtWidth f
  let u := v % 2 ^ w
  if intSigned f && 2 ^ (w - 1) ≤ u then (u : Int) - 2 ^ w else u

/-- The element of an integer, low bits kept. -/
def intBits (f : Nat) (v : Int) : Nat := (v % 2 ^ fmtWidth f).toNat

def clampInt (f : Nat) (v : Int) : Int := if intMax f < v then intMax f else if v < intMin f then intMin f else v

/-- Wrap, or clamp under .SAT; the second part tells that a clamp changed the value (R63). -/
def intFit (f : Nat) (sat : Bool) (v : Int) : Nat × Bool :=
  if sat then (intBits f (clampInt f v), clampInt f v != v) else (intBits f v, false)

/-- Floating point to integer (R65). -/
def toInt (f : Nat) (rm : BitVec 2) (a : FVal) : Nat × FlagSet :=
  match a with
  | .nan _ _ => (0, fNV)
  | .inf n => (intBits f (if n then intMin f else intMax f), fNV)
  | .fin n m e =>
    let r := roundAt rm n m e 0 false
    let v : Int := if n then -(r.1 : Int) else r.1
    if v < intMin f || intMax f < v then (intBits f (clampInt f v), fNV) else (intBits f v, if r.2 then fNX else 0)

/-- Integer to floating point (R65), the target's overflow as in R64. -/
def FFmt.ofInt (f : FFmt) (rm : BitVec 2) (v : Int) (sat : Bool := false) : FRes := f.round rm sat (v < 0) v.natAbs 0 false

/-! ### Quantising (R66) and dequantising (R67) -/

/-- emax of an MX target. -/
def mxEmax (f : Nat) : Int := if f = 6 then 8 else if f = 7 then 15 else 2

/-- RoundRNESat: nearest even, saturating; it raises NX and UF alone. -/
def FFmt.roundSat (f : FFmt) (neg : Bool) (m : Nat) (e : Int) : FRes :=
  let r := f.round 0 true neg m e false
  (r.1, r.2 &&& (fNX ||| fUF))

/-- The scale exponent of a finite block: floor(log2 amax) − emax, clamped (R66). -/
def blockScale (f : Nat) (l : List FVal) : Int :=
  let tops := l.filterMap fun v => match v with | .fin _ m e => if m = 0 then none else some (e + Nat.log2 m) | _ => none
  match tops with
  | [] => -127
  | t :: ts => max (-127) (min 127 (ts.foldl max t - mxEmax f))

/-- An MX block of 32 elements: the scale byte, the elements, the flags (R66). -/
def quantise (f : Nat) (l : List FVal) : Nat × List Nat × FlagSet :=
  let t := fmtOf f
  let special := l.any fun v => match v with | .fin _ _ _ => false | _ => true
  let s := if special then 0 else blockScale f l
  let rs := l.map fun v => match v with
    | .nan n sg => (if t.eb = 2 then t.limit n else t.canon, if sg then fNV else 0)
    | .inf n => (if t.eb = 2 then t.limit n else t.canon, (0 : FlagSet))
    | .fin n m e => t.roundSat n m (e - s)
  (if special then 0xFF else (s + 127).toNat, rs.map Prod.fst, rs.foldl (fun a r => a ||| r.2) 0)

/-- Element i of a block with scale byte c, in F32 (R67). -/
def dequantise (f c v : Nat) : FRes :=
  if c = 0xFF then (f32.canon, 0)
  else match (fmtOf f).decode v with
    | .nan _ _ => (f32.canon, 0)
    | .inf n => (f32.infBits n, 0)
    | .fin n m e => f32.round 0 false n m (e + c - 127) false

/-! ### Philox4x32-10 (R74) -/

def philoxRound (k : Nat × Nat) (c : Nat × Nat × Nat × Nat) : Nat × Nat × Nat × Nat :=
  let p0 := 0xD2511F53 * c.1
  let p1 := 0xCD9E8D57 * c.2.2.1
  let w := 2 ^ 32
  ((p1 / w) ^^^ c.2.1 ^^^ k.1, p1 % w, (p0 / w) ^^^ c.2.2.2 ^^^ k.2, p0 % w)

def philoxRounds : Nat → Nat × Nat → Nat × Nat × Nat × Nat → Nat × Nat × Nat × Nat
  | 0, _, c => c
  | n + 1, k, c => philoxRounds n ((k.1 + 0x9E3779B9) % 2 ^ 32, (k.2 + 0xBB67AE85) % 2 ^ 32) (philoxRound k c)

/-- Lane `lane` of the beat with index b (R74). -/
def philoxLane (seed stream b : Nat) (lane : Nat) : Nat :=
  let w := 2 ^ 32
  let r := philoxRounds 10 (seed % w, seed / w % w)
    (b % w, b / w % 65536 + lane / 4 * 65536, stream % w, stream / w % w)
  match lane % 4 with
  | 0 => r.1
  | 1 => r.2.1
  | 2 => r.2.2.1
  | _ => r.2.2.2

end Sys2Proof.Machine
end

