-- ==== Sys2Proof/Machine/Atomic.lean ====
section
/-! DEFINITION. Class 0x3: atomics, PHASE and PUBLISH (R106, R111, R152, R153, R155, R156). -/

namespace Sys2Proof.Machine

/-! ### Operations of the atomics (R152) -/

inductive AOp where
  | add | and | or | xor | min | max | minu | maxu | swp | cas | fadd
  deriving DecidableEq, Repr

/-- The number by which a request flit names the operation. -/
def AOp.num (o : AOp) : Nat := o.ctorIdx
def AOp.ofNum (n : Nat) : AOp :=
  [AOp.add, .and, .or, .xor, .min, .max, .minu, .maxu, .swp, .cas, .fadd].getD n .swp

/-- A w-bit number read as two's complement. -/
def sgn (w n : Nat) : Int := if 2 ^ (w - 1) ≤ n then (n : Int) - 2 ^ w else n

/-- Op(m, v) on w bits; `c` is the second register of ACAS. The flags are those of AFADD. -/
def AOp.apply (o : AOp) (w m v c : Nat) : Nat × FlagSet :=
  match o with
  | .add => ((m + v) % 2 ^ w, 0)
  | .and => (m &&& v, 0)
  | .or => (m ||| v, 0)
  | .xor => (m ^^^ v, 0)
  | .min => (if sgn w v < sgn w m then v else m, 0)
  | .max => (if sgn w m < sgn w v then v else m, 0)
  | .minu => (if v < m then v else m, 0)
  | .maxu => (if m < v then v else m, 0)
  | .swp => (v, 0)
  | .cas => (if m = v then c else m, 0)
  | .fadd => f32.add 0 (f32.decode m) (f32.decode v)

/-- How the old value is extended. -/
def AOp.ext (o : AOp) (w m : Nat) : Word :=
  match o with
  | .minu | .maxu | .fadd => w64 m
  | _ => sext (w64 m) w

/-- The new words of an operand of n bytes, codes made by the executing unit (R340). -/
def newWords (n v : Nat) : List CW := (List.range (n / 4)).map fun k => CW.mk' (BitVec.ofNat 32 (v / 2 ^ (32 * k)))

/-! ### Performing an atomic at its serialisation point -/

/-- Words performed by agent `a` at once: the home takes them, and every strand sees them, also those of a deterministic tract
(R106, R114). -/
def State.putNow (s : State) (a : Nat) (va : Word) (pa : Nat) (podc unc : Bool) (ws : List CW) : State :=
  let s := (List.range ws.length).foldl (fun s k =>
    (s.homePut (s.seqOf a).ctx.launch (s.asidOf a) (vaNum va + 4 * k) (pa + 4 * k) (ws.getD k CW.zero)).overrides none (pa + 4 * k) 15) s
  s.touchAt a va pa podc unc true

/-- The written words become part of the strand's own stores (R106). -/
def State.ownNow (s : State) (a : Nat) (pa : Nat) (ws : List CW) : State :=
  let v := s.view a
  let snap := (List.range ws.length).foldl (fun p k => p.put false (pa + 4 * k) (ws.getD k CW.zero)) v.snap
  s.setView a { v with snap := snap, stores := v.stores.filter fun st => !st.published || !(pa ≤ st.pa && st.pa < pa + 4 * ws.length) }

/-- The release of an atomic's ordering, and the publication of its strand's own stores to the bytes that it touches (R106). -/
def State.beforeAtomic (s : State) (x : SM) (pa n : Nat) : Res State := do
  let s ← if x.order.getLsbD 1 then s.releaseAt x.scope.toNat none else pure s
  s.publishTouched s.cur 0 x.scope.toNat fun st => pa ≤ st.pa && st.pa < pa + n

/-- The atomic's result reaches its register; then the acquire (R101), and FPTRAP after the instruction (R59). -/
def State.finishAtomic (s : State) (x : SM) (o : AOp) (w m : Nat) (fl : FlagSet) (va : Word) : State :=
  let s := s.setReg x.rd (o.ext w m)
  let s := if x.order.getLsbD 0 then (s.acquire s.cur).countAcquire else s
  let s := if x.s = 1 then s else s.watchAccess va (w / 8) true
  let s := s.modSeq fun q => { q with fpflags := q.fpflags ||| fl }
  let on := fl &&& s.seq.ten
  if on = 0 then s.retire else s.retireWith { cause := .fptrap, t0 := on.setWidth 64 }

/-- The request that an atomic without ownership sends to another module (R362, R363): the operation in the payload. -/
def atomWords (o : AOp) (n v c off : Nat) : List CW :=
  (o.num :: n :: off :: [v % 2 ^ 32, v / 2 ^ 32, c % 2 ^ 32, c / 2 ^ 32]).map fun k => CW.mk' (BitVec.ofNat 32 k)

/-- An atomic on stash, performed at once (R153). -/
def State.atomicLocal (s : State) (word : Word) (x : SM) (o : AOp) (n v c : Nat) : Res State := do
  let a := s.addr x
  need (x.scope = 0) .atomscope a
  s.localCheck a.toNat n
  let p := s.plot s.cur
  s.granules word (p.anyStale a.toNat n)
  let ws := (wordsOf a.toNat n).map p.word
  consumeLocal a.toNat ws
  let s ← if x.order.getLsbD 1 then s.releaseAt x.scope.toNat none else pure s
  let m := valueOf a.toNat n ws
  let r := o.apply (8 * n) m v c
  let nw := newWords n r.1
  let p := (List.range nw.length).foldl (fun p k => p.put (a.toNat + 4 * k) (nw.getD k CW.zero)) p
  let s := if x.order.getLsbD 1 then s.countRelease else s
  pure ((s.setPlot s.cur p).finishAtomic x o (8 * n) m r.2 a)

/-- An atomic of a pod sector homed on another module: it is performed there, and the old value comes back (R106, R363). Its place
in the log is taken before its request leaves (R369). -/
def State.atomicRemote (s : State) (t : Tlb) (x : SM) (o : AOp) (n v c : Nat) : Res State := do
  let a := s.addr x
  let pa := t.pa a
  match s.seq.answer with
  | some m =>
    let r := o.apply (8 * n) m.toNat v c
    let s := if x.order.getLsbD 1 then s.countRelease else s
    pure ((s.ownNow s.cur pa (newWords n r.1)).finishAtomic x o (8 * n) m.toNat r.2 a)
  | none =>
    match s.replyFor s.cur 0 (pa / 64) with
    | some r => .error (.trap (r.raise a))
    | none =>
      let s ← s.beforeAtomic x pa n
      let s ← (if pteRec t.pte && !s.asked s.cur 0 5 (pa / 64) then s.locationDecision s.seq.ctx.launch 8 (w64 (frameOf pa)) else pure s)
      waitFor (s.askDirectory s.cur 0 5 pa (atomWords o n v c (pa % 64)) []) s.cur 0

/-- An atomic on memory (R106, R153). -/
def State.atomicGlobal (s : State) (x : SM) (o : AOp) (n v c : Nat) : Res State := do
  let a := s.addr x
  let t ← s.translate s.cur 0 a 1
  let pa := t.pa a
  s.present s.cur 0 t a 1
  need (s.popKind pa != 3) .space a
  need (x.scope != 4 || ptePodc t.pte) .atomscope a
  need (!ptePub t.pte) .pubbad a
  let near := x.cnt = 1
  if ptePodc t.pte && !s.homedHere pa && !near && s.lineSt pa < 2 then s.atomicRemote t x o n v c
  else
    let s ← s.reach s.cur 0 { t := t, va := a, pa := pa, kind := if near then 1 else 2 }
    if !s.homeRangeOk s.cur pa then
      .error (.stall ((s.homeCheckReport s.cur pa).takeFault { cause := .poison, t0 := a }))
    else
      s.consume t a pa ((wordsOf pa n).map fun w => s.currentWord s.cur t a w false)
      let s ← s.beforeAtomic x pa n
      let s ← (if pteRec t.pte && !near then s.locationDecision s.seq.ctx.launch 8 (w64 (frameOf pa)) else pure s)
      let ws := (wordsOf pa n).map fun w => s.currentWord s.cur t a w false
      s.consume t a pa ws
      let m := valueOf pa n ws
      let r := o.apply (8 * n) m v c
      let nw := newWords n r.1
      let s := if x.order.getLsbD 1 then s.countRelease else s
      pure (((s.putNow s.cur a pa (ptePodc t.pte) (pteMt t.pte = 1) nw).ownNow s.cur pa nw).finishAtomic x o (8 * n) m r.2 a)

/-- An atomic (R152, R153). -/
def State.atomic (s : State) (word : Word) (x : SM) (o : AOp) : Out :=
  let n := if x.zz = 1 then 8 else 4
  let v := (s.reg x.rd).toNat % 256 ^ n
  let c := (s.reg (x.rd + 1)).toNat % 256 ^ n
  settle s (do
    need (o != .cas || x.rd != 31) .grpwrap word
    need (x.cnt != 1 || x.scope = 4) .rsvfld word
    need ((s.addr x).toNat % n = 0) .align (s.addr x)
    s.sources word (if o = .cas then [x.sa, x.rd, x.rd + 1] else [x.sa, x.rd])
    if x.s = 1 then s.atomicLocal word x o n v c else s.atomicGlobal x o n v c)

/-! ### Meanings -/

/-- AADD. -/
def execAadd (x : SM) (s : State) : Out := s.atomic (encode (.aadd x)) x .add

/-- AAND. -/
def execAand (x : SM) (s : State) : Out := s.atomic (encode (.aand x)) x .and

/-- AOR. -/
def execAor (x : SM) (s : State) : Out := s.atomic (encode (.aor x)) x .or

/-- AXOR. -/
def execAxor (x : SM) (s : State) : Out := s.atomic (encode (.axor x)) x .xor

/-- AMIN. -/
def execAmin (x : SM) (s : State) : Out := s.atomic (encode (.amin x)) x .min

/-- AMAX. -/
def execAmax (x : SM) (s : State) : Out := s.atomic (encode (.amax x)) x .max

/-- AMINU. -/
def execAminu (x : SM) (s : State) : Out := s.atomic (encode (.aminu x)) x .minu

/-- AMAXU. -/
def execAmaxu (x : SM) (s : State) : Out := s.atomic (encode (.amaxu x)) x .maxu

/-- ASWP. -/
def execAswp (x : SM) (s : State) : Out := s.atomic (encode (.aswp x)) x .swp

/-- ACAS. -/
def execAcas (x : SM) (s : State) : Out := s.atomic (encode (.acas x)) x .cas

/-- AFADD. -/
def execAfadd (x : SM) (s : State) : Out := s.atomic (encode (.afadd x)) x .fadd

/-- PHASE.ACQ: an acquire boundary (R101, R155). -/
def execPhaseAcq (_x : SM) (s : State) : Out := .next ((s.acquire s.cur).countAcquire).retire

/-- PHASE.REL: a release boundary at the scope (R99, R155). -/
def execPhaseRel (x : SM) (s : State) : Out :=
  settle s (do
    let s ← s.releaseAt x.scope.toNat none
    pure s.countRelease.retire)

/-- PHASE.AR: the release, then the acquire. -/
def execPhaseAr (x : SM) (s : State) : Out :=
  settle s (do
    let s ← s.releaseAt x.scope.toNat none
    pure ((s.countRelease.acquire s.cur).countAcquire).retire)

end Sys2Proof.Machine
end

