-- ==== Sys2Proof/Machine/Datapath.lean ====
section
/-! DEFINITION. What the datapath of a plot shares: completion tags and batches, ports and tokens, the handover order, the
limits of the units, and what orders streams and engine operations (R12 to R30, R159, R161). -/

namespace Sys2Proof.Machine

/-! ### Completion tags and batches (R159, R161) -/

/-- Bytes are added to a tag at issue; none is a CPYSIZE. -/
def Plot.tagAdd (p : Plot) (k n : Nat) : Option Plot :=
  let c := p.tagPend.get 0 k + n
  if 2 ^ 32 ≤ c then none
  else if c = 0 then some { p with tagReady := p.tagReady ||| w64 (2 ^ k) }
  else some { p with tagPend := p.tagPend.set k c, tagReady := p.tagReady &&& ~~~(w64 (2 ^ k)) }

/-- Bytes of a tag land; at zero the tag is ready. -/
def Plot.tagLand (p : Plot) (k n : Nat) : Plot :=
  let c := p.tagPend.get 0 k
  if c = 0 then p
  else if c ≤ n then { p with tagPend := p.tagPend.del k, tagReady := p.tagReady ||| w64 (2 ^ k) }
  else { p with tagPend := p.tagPend.set k (c - n) }

def Plot.land (p : Plot) (t : Option Nat) (n : Nat) : Plot := match t with | some k => p.tagLand k n | none => p

/-- TAGPEND (R43). -/
def Plot.tagPending (p : Plot) : Word := w64 (p.tagPend.foldl (fun n kc => if kc.2 = 0 then n else n + 2 ^ kc.1) 0)

/-- An operation without a tag joins the open batch. -/
def Plot.joinBatch (p : Plot) (id : Nat) : Plot := { p with openBatch := some (p.openBatch.getD [] ++ [id]) }

/-- An operation has completed: it leaves its batch; a closed batch without operations is complete. -/
def Plot.leaveBatch (p : Plot) (id : Nat) : Plot :=
  { p with openBatch := p.openBatch.map (·.filter (· != id)),
           batches := (p.batches.map fun b => b.filter (· != id)).filter (!·.isEmpty) }

/-- The tag of a tag byte, if it gives one. -/
def tagOf (c : BitVec 8) : Option Nat := if c.getLsbD 6 then some (bits c 0 6) else none

/-- Bytes for the tag at issue, with CPYSIZE as R159 says. -/
def Plot.issueTag (p : Plot) (word : Word) (t : Option Nat) (n : Nat) : Res Plot :=
  match t with
  | none => .ok p
  | some k => match p.tagAdd k n with
    | some p => .ok p
    | none => trap .cpysize word

/-! ### Ports (R19) -/

/-- Ports are numbered 0 to 15 for vi, 16 to 31 for vo, 32 to 39 for pq. -/
def portDepth (k : Nat) : Nat := if k < 32 then 8 else 16

def Plot.port (p : Plot) (k : Nat) : List Tok := p.ports.get [] k
def Plot.head? (p : Plot) (k : Nat) : Option Tok := (p.port k).head?
def Plot.room (p : Plot) (k : Nat) : Nat := portDepth k - (p.port k).length
def Plot.push (p : Plot) (k : Nat) (t : Tok) : Plot := { p with ports := p.ports.set k (p.port k ++ [t]) }
def Plot.pop (p : Plot) (k : Nat) (n : Nat := 1) : Plot := { p with ports := p.ports.set k ((p.port k).drop n) }

/-- A word of a beat; a beat lists all its 64 words or only the first ones. -/
def Beat.word (b : Beat) (i : Nat) : CW := b.ws.getD i CW.zero

def zeroBeat : List CW := List.replicate 64 CW.zero

/-! ### Handover (R16)

The keys of an actor: p for vi p, 16 + p for vo p as a producer, 64 + p for vo p as a stream write takes from it, 32 + p for
pq p as an input, 96 + p for pq p as an output, 40 + v for va v, 48 + c for cy c, 112 + p for vi p as a stream read fills it. -/

/-- The key of a port operand of format V as an input, and as an output. -/
def inKey (o : BitVec 7) : List Nat :=
  let ix := bits o 0 5
  match bits o 5 2 with
  | 0 => [if ix < 16 then ix else 16 + ix]
  | 1 => [40 + ix]
  | _ => []

def outKey (o : BitVec 7) : List Nat :=
  let ix := bits o 0 5
  match bits o 5 2 with
  | 0 => [if ix < 16 then 16 + ix else 80 + ix]
  | 1 => [40 + ix]
  | _ => []

/-- The positions beside A that an instruction of the vector classes uses (R207, R214, R224): B, C as a source. -/
def usesB : Instr → Bool
  | .vsqrt _ | .vrcp _ | .vrsq _ | .vexp2 _ | .vlog2 _ | .vabs _ | .vneg _ | .vmov _ | .viota _ => false
  | .vcvt _ | .vqmx _ | .vunpack _ | .vredadd _ | .vredmax _ | .vredmin _ | .vacc _ | .varst _ | .vaout _ => false
  | .pnot _ | .pgen _ | .pfrom _ | .pdrop _ => false
  | _ => true

def usesC : Instr → Bool
  | .vfma _ | .vfms _ | .vfnma _ | .vclamp _ | .vsel _ | .vrng _ | .vmerge _ => true
  | _ => false

/-- The keys of a vector instruction: destination, sources, second sink (VQMX, VSTEER), gate, carry entry. -/
def vKeys (i : Instr) (x : V) : List Nat :=
  (match i with | .vtos _ | .pdrop _ => [] | _ => outKey x.dst) ++ inKey x.a ++ (if usesB i then inKey x.b else []) ++
    (if usesC i then inKey x.c else []) ++ (match i with | .vqmx _ | .vsteer _ => outKey x.c | .vscan _ => [48 + bits x.mod 1 4] | _ => []) ++
    (if x.ge = 1 then [32 + x.gate.toNat] else [])

/-- The vector unit's instructions: their fields. -/
def vecOf : Instr → Option V
  | .vadd x | .vsub x | .vmul x | .vfma x | .vfms x | .vfnma x | .vdiv x | .vsqrt x | .vrcp x | .vrsq x | .vexp2 x | .vlog2 x => some x
  | .vmin x | .vmax x | .vabs x | .vneg x | .vclamp x | .vand x | .vor x | .vxor x | .vshl x | .vshr x | .vsra x => some x
  | .vcmpeq x | .vcmplt x | .vcmple x | .vsel x | .vmov x | .viota x | .vrng x | .vscale x | .vcvt x | .vqmx x | .vdqmx x => some x
  | .vpack x | .vunpack x | .vshuf x | .vbcast x | .vredadd x | .vredmax x | .vredmin x | .vacc x | .varst x | .vaout x => some x
  | .vscan x | .vtos x | .vsteer x | .vmerge x | .pand x | .por x | .pnot x | .pgen x | .pfrom x | .pdrop x => some x
  | _ => none

/-- The generator of a stream command. -/
def genOfInstr : Instr → Option Nat
  | .sld x | .sgath x => some x.b.toNat
  | .sst x | .sscat x | .sfill x => some x.a.toNat
  | _ => none

/-- Matrix operations; the rest of the matrix unit's queue are markers (R227). -/
def isMatrixOp : Instr → Bool
  | .mma _ | .mmaz _ | .adrain _ | .cpymm _ => true
  | _ => false

def isMatrixMarker : Instr → Bool
  | .azero _ | .arel _ | .wld _ | .wrel _ | .cbld _ | .amirror _ | .aspill _ | .tmask _ | .tret => true
  | _ => false

def isBank : Instr → Bool
  | .icfg _ | .iset _ | .iwire _ | .iunwire _ | .istep _ | .istream _ | .istreamOff | .iinject _ | .iinjectPort _ | .isave _ => true
  | .iload _ | .iloadImage _ => true
  | _ => false

/-- The microscaling formats (R51). -/
def mxCode (f : Nat) : Bool := 6 ≤ f && f ≤ 8

/-- The keys of any actor. -/
def keysOf (i : Instr) : List Nat :=
  match i with
  | .sld x => [112 + x.a.toNat]
  | .sgath x => [112 + x.a.toNat, x.d.toNat]
  | .sst x => [64 + x.b.toNat]
  | .sscat x => [64 + x.b.toNat, x.d.toNat]
  | .mma x | .mmaz x => [x.b.toNat] ++ (if mxCode (bits x.e 0 5) then [bits x.d 2 4] else [])
  | .adrain x => [16 + x.b.toNat] ++ (if mxCode (bits x.c 0 5) then [16 + bits x.d 0 4] else []) ++ (if x.c.getLsbD 7 then [32 + bits x.e 5 3] else [])
  | .iinjectPort x => [x.c.toNat]
  | .iload x => [x.a.toNat]
  | .istep x => (if x.b.getLsbD 4 then [x.b.toNat % 16] else []) ++ (if x.c.getLsbD 4 then [16 + x.c.toNat % 16] else [])
  | _ => match vecOf i with | some x => vKeys i x | none => []

/-- The keys of an actor; an ISTEP's `ws` begins with the sink of the stream that was on at its issue (R257). -/
def Actor.keys (x : Actor) : List Nat :=
  keysOf x.instr ++ (match x.instr with | .istep _ => (x.ws.take 1).map fun k => 16 + k.toNat | _ => [])

/-- The scale beats of a matrix operation have all been taken: each group's goes with its first A beat (R229). -/
def Actor.scalesTaken (x : Actor) (f : Nat) : Bool :=
  let per := if f = 8 then 8 else 16
  (x.fired + per - 1) / per = x.left.getD 0 / per

/-- An actor has taken its last token from a port before it retires (R16): the indices of a gather that still places its end
token, the scales of a matrix operation in its last group, the steering tokens of a drain in its last tile, what a VTOS
waits with. -/
def Actor.doneWith (x : Actor) (key : Nat) : Bool :=
  match x.instr with
  | .sgath d => key = d.d.toNat && x.fired = x.left.getD 0
  | .mma d | .mmaz d => key = bits d.d 2 4 && mxCode (bits d.e 0 5) && x.scalesTaken (bits d.e 0 5)
  | .adrain d =>
    let n := bits d.e 0 5 + 1
    key = 32 + bits d.e 5 3 && d.c.getLsbD 7 && x.started && x.left.getD 0 / n * (n - 1) ≤ x.fired
  | .vtos _ => x.fired != 0
  | _ => false

/-- The handover rule (R16): every earlier actor on a port or entry of this one is done with it. -/
def Plot.turn (p : Plot) (x : Actor) : Bool :=
  p.actors.all fun y => x.id ≤ y.id || !y.keys.any (fun k => x.keys.contains k && !y.doneWith k)

/-! ### FENCE and SBAR among streams and engine operations (R29, R30, R107, R180) -/

/-- A stream command: whether it writes, and whether in LOCAL space. -/
def streamOf : Instr → Option (Bool × Bool)
  | .sld x | .sgath x => some (false, x.e.getLsbD 0)
  | .sst x | .sscat x | .sfill x => some (true, x.e.getLsbD 0)
  | _ => none

/-- The bit of a stream command among FENCE's kinds: SR 3, SW 4. -/
def fenceBit (i : Instr) : Option Nat := (streamOf i).map fun w => if w.1 then 4 else 3

/-- The bit of a stream command among SBAR's kinds: LR 0, LW 1, GR 2, GW 3. -/
def sbarBit (i : Instr) : Option Nat := (streamOf i).map fun w => (if w.2 then 0 else 2) + (if w.1 then 1 else 0)

def inMask (m : Nat) (b : Option Nat) : Bool := match b with | some k => m.testBit k | none => false

/-- A stream command or engine operation of FENCE's kinds `m`, issued before number `n`, has not performed all its accesses. -/
def Plot.fencePending (p : Plot) (n m : Nat) : Bool :=
  p.actors.any (fun x => x.id < n && inMask m (fenceBit x.instr)) || (m.testBit 5 && p.ops.any (·.id < n))

def Plot.sbarPending (p : Plot) (n m : Nat) : Bool := p.actors.any fun x => x.id < n && inMask m (sbarBit x.instr)

/-- A marker still holds something back. -/
def Plot.holdsBack (p : Plot) (x : Actor) : Bool :=
  match x.instr with
  | .fence f => p.fencePending x.id (bits f.off 0 6)
  | .sbar d => p.sbarPending x.id (bits d.a 0 4)
  | _ => true

/-- A stream command with number `n` stands behind a FENCE or SBAR whose earlier set is not done. -/
def Plot.streamBlocked (p : Plot) (n : Nat) (i : Instr) : Bool :=
  p.actors.any fun x => x.id < n && (match x.instr with
    | .fence f => inMask (bits f.off 8 6) (fenceBit i) && p.fencePending x.id (bits f.off 0 6)
    | .sbar d => inMask (bits d.b 0 4) (sbarBit i) && p.sbarPending x.id (bits d.a 0 4)
    | _ => false)

/-- An engine operation with number `n` stands behind a FENCE. -/
def Plot.opBlocked (p : Plot) (n : Nat) : Bool :=
  p.actors.any fun x => x.id < n && (match x.instr with
    | .fence f => (bits f.off 8 6).testBit 5 && p.fencePending x.id (bits f.off 0 6)
    | _ => false)

/-- Markers that hold nothing back any more are gone. -/
def Plot.prune (p : Plot) : Plot := { p with actors := p.actors.filter p.holdsBack }

/-! ### Actors -/

/-- An actor is issued: it takes the next number. -/
def Plot.issue (p : Plot) (x : Actor) : Plot := { p with actors := p.actors ++ [{ x with id := p.nextId }], nextId := p.nextId + 1 }

def Plot.setActor (p : Plot) (x : Actor) : Plot := { p with actors := p.actors.map fun y => if y.id = x.id then x else y }

/-- An actor has retired. -/
def Plot.drop (p : Plot) (id : Nat) : Plot := { p with actors := p.actors.filter (·.id != id) }.prune

/-- An engine operation has completed. -/
def Plot.dropOp (p : Plot) (id : Nat) : Plot := { p with ops := p.ops.filter (·.id != id) }.prune

/-- The unit's firing limit (R185): fewer than k firings in the last m cycles. -/
def Rate.allows (r : Rate) (now : Word) : Bool :=
  r.k = 0 || (r.log.filter fun t => now.toNat < t.toNat + r.m).length < r.k

def Rate.note (r : Rate) (now : Word) : Rate :=
  if r.k = 0 then r else { r with log := (r.log.filter fun t => now.toNat < t.toNat + r.m) ++ [now] }

/-- Each generator keeps its own count under the limit of unit 2. -/
def Plot.rate (p : Plot) (unit gen : Nat) : Rate :=
  let r := p.rates.get {} unit
  if unit = 2 then { r with log := (p.rates.get {} (16 + gen)).log } else r

def Plot.noteRate (p : Plot) (unit gen : Nat) (now : Word) : Plot :=
  { p with rates := p.rates.set (if unit = 2 then 16 + gen else unit) ((p.rate unit gen).note now) }

/-- A strand held in debug mode under FREEZE: its actors, streams and engine operations make no progress (R339). -/
def State.frozen (s : State) (c : Nat) : Bool := (s.seqOf c).mode = 2 && (s.seqOf c).freeze

/-- Slots of a port that are neither taken nor promised to a token in flight (R24). -/
def State.roomAt (s : State) (c port : Nat) : Nat :=
  (s.plot c).room port - (s.flight.filter fun f => f.dst = c && f.port = port && f.bank.isNone).length

/-- A source port accepts a token (R22): in a deterministic launch a token of a second feeder in one graph phase makes the
strand trap DETCONF at its next boundary; the token is accepted all the same. -/
def State.acceptTok (s : State) (c port : Nat) (t : Tok) : State :=
  let p := s.plot c
  let clash := (s.seqOf c).ctx.det && port < 16 && (match p.feeders.find port with | some f => f != t.feeder | none => false)
  let s := s.setPlot c { p.push port t with feeders := p.feeders.set port t.feeder }
  if clash then s.raiseAt c { cause := .detconf, t1 := w64 port } else s

/-! ### Wiring (R20, R21) -/

/-- The wiring by which a token of a sink leaves: that of the last route issued before its actor. -/
def Plot.wiring (p : Plot) (sink : Nat) (t : Tok) : Route :=
  match ((p.routes.get [] sink).filter (·.1 < t.by_)).getLast? with | some r => r.2 | none => {}

/-- Wirings that no token can leave by any more are forgotten: an earlier one than `low`, the number of the oldest token or
actor, but for the last. -/
def wiringsFrom (low : Nat) (l : List (Nat × Route)) : List (Nat × Route) :=
  match (l.filter (·.1 < low)).getLast? with
  | some r => r :: l.filter (low ≤ ·.1)
  | none => l

end Sys2Proof.Machine
end

