-- ==== Sys2Proof/Machine/Special.lean ====
section
/-! DEFINITION. The special registers: SRD, SWR, SRDP, SWRP, and the events that write a register or raise TIMER (R43, R158,
R280, R281, R324). -/

namespace Sys2Proof.Machine

/-! ### Images -/

/-- A 64-bit word put together from fields, each at its bit. -/
def packed (l : List (Nat × Nat)) : Word := w64 (l.foldl (fun n f => n + f.1 * 2 ^ f.2) 0)

/-- Doubleword i of a generator's image (R172). -/
def AgGen.dword (g : AgGen) (i : Nat) : Word :=
  match i with
  | 0 => g.base
  | 1 => packed [(g.n.get 0 0, 0), (g.n.get 0 1, 32)]
  | 2 => packed [(g.n.get 0 2, 0), (g.n.get 0 3, 32)]
  | 7 => packed [(g.lim, 0), (g.shift, 32), (if g.limen then 1 else 0, 36), (g.act.toNat, 40), (g.sq.toNat, 48)]
  | i => g.step.get 0 (i - 3)

/-- Doubleword i of a generator's fault record (R324). -/
def AgRec.dword (r : AgRec) (i : Nat) : Word :=
  match i with
  | 0 => packed [(r.cause.toNat, 0), (r.walk.toNat, 8), (r.lane.toNat, 16), (r.streamid.toNat, 32)]
  | 1 => r.addr
  | 2 => packed [((r.i.get 0 0).toNat, 0), ((r.i.get 0 1).toNat, 32)]
  | 3 => packed [((r.i.get 0 2).toNat, 0), ((r.i.get 0 3).toNat, 32)]
  | 4 => packed [(r.seqf.toNat, 0), (r.seq0.toNat, 16), (r.cmd.toNat, 32)]
  | 5 => r.pte
  | 6 => packed [(r.tagp.toNat, 0)]
  | 7 => 0
  | i => r.gstate.dword (i - 8)

/-- A write of doubleword i: LANE and the loop counters take it, the rest ignore it. -/
def AgRec.put (r : AgRec) (i : Nat) (v : Word) : AgRec :=
  if i = 0 then { r with lane := v.extractLsb' 16 6 }
  else if i = 2 ∨ i = 3 then
    let k := 2 * (i - 2)
    { r with i := (r.i.set k (v.extractLsb' 0 32)).set (k + 1) (v.extractLsb' 32 32) }
  else r

/-- The 32 codes and VALID, RST of the carry table (R43, R49): a stale entry reads as zero. -/
def Plot.carryst (p : Plot) : Word :=
  w64 (p.carry.foldl (fun n kv =>
    if kv.2.tag = p.gen then
      n + (if kv.2.val.getLsbD 57 then 2 ^ kv.1 else 0) + (if kv.2.val.getLsbD 56 then 2 ^ (16 + kv.1) else 0)
    else n) 0)

def b2n (b : Bool) : Nat := if b then 1 else 0

/-! ### The user registers (R43) -/

/-- The numbers of R43 that a hub core does not have: those of a plot, of a strand and of its launch (R280, log entry 36). -/
def plotOnly (n : Nat) : Bool := n ≤ 4 || (9 ≤ n && n ≤ 0x0D)

/-- The registers of R43. -/
def State.userReg (s : State) (a n : Nat) : Option Word :=
  let q := s.seqOf a
  let p := s.plot a
  if isHub a && plotOnly n then none
  else match n with
  | 0x00 => some (w64 a)
  | 0x01 => some (w64 q.ctx.tract)
  | 0x02 => some (w64 q.ctx.strandix)
  | 0x03 => some (w64 q.ctx.launch)
  | 0x04 => some (p.gen.setWidth 64)
  | 0x05 => some s.tempo
  | 0x06 => some (s.cycleOf a)
  | 0x07 => some (q.fpflags.setWidth 64)
  | 0x08 => some (packed [(q.ten.toNat, 0), (q.rm.toNat, 8)])
  | 0x09 => some p.tagReady
  | 0x0A => some p.tagPending
  | 0x0B => some p.carryst
  | 0x0D => some (match s.launch? q.ctx.launch with
      | some l => packed [(l.energyNj / 1000 % 2 ^ 63, 0), (b2n (s.sharesAcre l), 63)]
      | none => 0)
  | 0x0E => some (packed [(q.phaseRel.toNat, 0), (q.phaseAcq.toNat, 32)])
  | 0x0F => some (packed [(b2n q.gstrict, 0), (b2n q.ctx.det, 1), (b2n q.ctx.record, 2), (b2n q.ctx.replay, 3), (b2n q.lenmis, 8),
      (b2n q.isat, 9), (b2n q.spilled, 10)])
  | 0x10 => some (q.uscratch.get 0 0)
  | 0x11 => some (q.uscratch.get 0 1)
  | 0x12 => some (q.uscratch.get 0 2)
  | 0x13 => some (q.uscratch.get 0 3)
  | _ => none

/-- A write to a register of R43: RO registers ignore it, W1C bits clear where it has a 1. -/
def Seq.putUser (q : Seq) (n : Nat) (v : Word) : Seq :=
  match n with
  | 0x07 => { q with fpflags := v.extractLsb' 0 5 }
  | 0x08 => { q with ten := v.extractLsb' 0 5, rm := v.extractLsb' 8 2 }
  | 0x0F => { q with lenmis := q.lenmis && !v.getLsbD 8, isat := q.isat && !v.getLsbD 9, spilled := q.spilled && !v.getLsbD 10 }
  | 0x10 => { q with uscratch := q.uscratch.set 0 v }
  | 0x11 => { q with uscratch := q.uscratch.set 1 v }
  | 0x12 => { q with uscratch := q.uscratch.set 2 v }
  | 0x13 => { q with uscratch := q.uscratch.set 3 v }
  | _ => q

/-! ### The privileged registers (R280) -/

/-- The row and column masks by halves. -/
def Plot.maskHalf (p : Plot) (n : Nat) : Word :=
  match n with
  | 0x4F => p.rowmask.extractLsb' 0 64
  | 0x50 => p.rowmask.extractLsb' 64 64
  | 0x51 => p.colmask.extractLsb' 0 64
  | _ => p.colmask.extractLsb' 64 64

/-- A register of the selected format window (R280). -/
def FmtWin.reg (w : FmtWin) (n : Nat) : Word :=
  match n with
  | 0x54 => w64 w.base
  | 0x55 => w64 w.size
  | 0x56 => w64 w.scale
  | _ => packed [(w.fmt, 0), (b2n w.enable, 8)]

def State.privReg (s : State) (a n : Nat) : Option Word :=
  let q := s.seqOf a
  match n with
  | 0x40 => some (packed [(q.mode, 0), (q.pmode, 2), (b2n q.gstrict, 4), (b2n q.inh, 5), (b2n q.hasPending, 8)])
  | 0x41 => some q.tvec
  | 0x42 => some q.epc
  | 0x43 => some (q.tcause.setWidth 64)
  | 0x44 => some q.tval0
  | 0x45 => some q.tval1
  | 0x46 => some q.tval2
  | 0x47 => some q.tval3
  | 0x48 => some q.sscratch
  | 0x49 => some (packed [(b2n q.freeze, 0), (b2n q.holdchild, 1), (b2n q.sstep, 2), (b2n q.dbgen, 3), (b2n q.forensic, 4)])
  | 0x4A => some q.timecmp
  | 0x4B => some q.waddr
  | 0x4C => some (q.wctl.setWidth 64)
  | 0x4D => some (w64 q.ctx.asid)
  | 0x4E => some (w64 q.ctx.rcb)
  | n =>
    if 0x4F ≤ n ∧ n ≤ 0x52 then (if isHub a then none else some ((s.plot a).maskHalf n))
    else if n = 0x53 then (if isHub a then some (q.fwsel.setWidth 64) else none)
    else if 0x54 ≤ n ∧ n ≤ 0x57 then (if isHub a then some ((s.fwins.get {} q.fwsel.toNat).reg n) else none)
    else if 0x60 ≤ n ∧ n < 0xA0 then
      (if isHub a then none else some (((s.plot a).recs.get {} ((n - 0x60) / 16)).dword ((n - 0x60) % 16)))
    else none

/-- A write to TIMECMP withdraws a pending TIMER. -/
def Seq.setTimecmp (q : Seq) (v : Word) : Seq := { q with timecmp := v, pend := q.pend.filter (·.cause != .timer) }

def Seq.putPriv (q : Seq) (n : Nat) (v : Word) : Seq :=
  match n with
  | 0x40 => { q with pmode := bits v 2 2, gstrict := v.getLsbD 4 }
  | 0x41 => { q with tvec := v &&& 0xFFFF_FFF9 }
  | 0x42 => { q with epc := v }
  | 0x44 => { q with tval0 := v }
  | 0x45 => { q with tval1 := v }
  | 0x46 => { q with tval2 := v }
  | 0x47 => { q with tval3 := v }
  | 0x48 => { q with sscratch := v }
  | 0x49 => { q with freeze := v.getLsbD 0, holdchild := v.getLsbD 1, sstep := v.getLsbD 2, dbgen := v.getLsbD 3 }
  | 0x4A => q.setTimecmp v
  | 0x4B => { q with waddr := v &&& ~~~7#64 }
  | 0x4C => { q with wctl := v.extractLsb' 0 2 }
  | 0x53 => { q with fwsel := v.extractLsb' 0 6 }
  | _ => q

/-- A page of a WINDOW range stands in [base, base + size). -/
def State.windowIn (s : State) (base size : Nat) : Bool :=
  s.windows.any fun w => (List.range (w.length / 65536)).any fun k =>
    match s.flatWalk (s.seqOf w.owner).ctx.part (vaWord (w.vbase + 65536 * k)) 0 false with
    | .ok (pa, _) => overlaps base size pa 65536
    | .error _ => false

/-- A write to a register of the selected format window (R281); none is a CFGBAD. -/
def State.putWindow (s : State) (sel n : Nat) (v : Word) : Option State :=
  let w := s.fwins.get {} sel
  let done (w : FmtWin) : Option State := some { s with fwins := s.fwins.set sel w }
  if n = 0x57 then
    let w' : FmtWin := { w with fmt := bits v 0 5, enable := v.getLsbD 8 }
    if w'.enable && (!(6 ≤ w'.fmt && w'.fmt ≤ 9) ||
        s.fwins.any (fun kw => kw.1 != sel && kw.2.enable && overlaps w.base w.size kw.2.base kw.2.size) || s.windowIn w.base w.size) then none
    else done w'
  else if w.enable then none
  else if n = 0x54 then done { w with base := bits v 16 36 * 65536 }
  else if n = 0x55 then done { w with size := bits v 16 36 * 65536 }
  else done { w with scale := bits v 6 46 * 64 }

/-! ### Access -/

/-- A register by number as agent `a` reads it. -/
def State.special (s : State) (a n : Nat) : Option Word := if n < 0x40 then s.userReg a n else s.privReg a n

/-- The state after agent `a` writes a register that it has; none is a CFGBAD (R281, R286). -/
def State.putSpecial (s : State) (a n : Nat) (v : Word) : Option State :=
  if n < 0x40 then some (s.modSeqOf a fun q => q.putUser n v)
  else if n = 0x40 ∧ 2 ≤ bits v 2 2 then none
  else if 0x54 ≤ n ∧ n ≤ 0x57 then s.putWindow (s.seqOf a).fwsel.toNat n v
  else if 0x60 ≤ n then
    some (s.modPlot a fun p => { p with recs := p.recs.set ((n - 0x60) / 16) ((p.recs.get {} ((n - 0x60) / 16)).put ((n - 0x60) % 16) v) })
  else some (s.modSeqOf a fun q => q.putPriv n v)

/-- SRD and SRDP (R43, R158, R286): in record mode a read of TEMPO is logged, in replay the logged tick returned. -/
def State.readSpecial (s : State) (word : Word) (x : SC) : Out :=
  let n := bits x.imm 0 8
  settle s (do
    need (n < 0x40 || s.seq.mode != 0) .priv word
    match s.special s.cur n with
    | none => trap .rsvfld word
    | some v =>
      if n = 5 && !isHub s.cur then
        let (t, f) ← s.strandDecision 4 v
        let c := s.seq.ctx
        let t := if f.isSome then t.tookEntry c.launch 4 c.strandix 0 else t
        pure (t.setReg x.sd (f.getD v)).retire
      else pure (s.setReg x.sd v).retire)

/-- SWR and SWRP. -/
def State.writeSpecial (s : State) (word : Word) (x : SC) : Out :=
  let n := bits x.imm 0 8
  settle s (do
    need (n < 0x40 || s.seq.mode != 0) .priv word
    need (s.special s.cur n).isSome .rsvfld word
    s.sources word [x.sa]
    match s.putSpecial s.cur n (s.reg x.sa) with
    | none => trap .cfgbad word
    | some t => pure t.retire)

/-! ### Meanings -/

/-- SRD. -/
def execSrd (x : SC) (s : State) : Out := s.readSpecial (encode (.srd x)) x

/-- SWR. -/
def execSwr (x : SC) (s : State) : Out := s.writeSpecial (encode (.swr x)) x

/-- SRDP. -/
def execSrdp (x : SC) (s : State) : Out :=
  settle s (do
    s.privileged (encode (.srdp x))
    .error (.stall (match s.readSpecial (encode (.srdp x)) x with | .next t => t | _ => s)))

/-- SWRP. -/
def execSwrp (x : SC) (s : State) : Out :=
  settle s (do
    s.privileged (encode (.swrp x))
    .error (.stall (match s.writeSpecial (encode (.swrp x)) x with | .next t => t | _ => s)))

/-- TIMER (R280): pending while CYCLE ≥ TIMECMP ≠ 0. -/
def execTimer (s : State) : Out :=
  let a := s.evt.a
  let q := s.seqOf a
  if q.timecmp != 0 && q.timecmp.toNat ≤ (s.cycleOf a).toNat && q.run != .idle && !q.pend.any (·.cause == .timer) then
    .next (s.raiseAt a { cause := .timer, t0 := s.cycleOf a })
  else .next s

/-- TIMECMP_WRITE: what a write of the register does. -/
def execTimecmpWrite (s : State) : Out := .next (s.modSeqOf s.evt.a fun q => q.setTimecmp s.evt.v)

/-- FORMAT_WINDOW_WRITE: a hub core's write of a register of its selected window; one that R281 refuses changes nothing. -/
def execFormatWindowWrite (s : State) : Out :=
  let a := hubAgent s.evt.a
  if s.evt.a < 32 ∧ 0x53 ≤ s.evt.b ∧ s.evt.b ≤ 0x57 then .next ((s.putSpecial a s.evt.b s.evt.v).getD s) else .next s

/-- AG_RECORD_WRITE: a write of a doubleword of a fault record. -/
def execAgRecordWrite (s : State) : Out :=
  if 0x60 ≤ s.evt.b ∧ s.evt.b < 0xA0 then .next ((s.putSpecial s.evt.a s.evt.b s.evt.v).getD s) else .next s

end Sys2Proof.Machine
end

