-- ==== Sys2Proof/Machine/Sync.lean ====
section
/-! DEFINITION. Class 0x5 but for SRD and SWR: completion tags and batches, barriers, events, LAUNCH, SEED, STASHDECL and the
carry table; and the events that complete them (R33, R34, R49, R113, R114, R159 to R171, R307, R308). -/

namespace Sys2Proof.Machine

/-! ### Completion tags (R157, R160) -/

/-- The set of a tag instruction, as a mask. -/
def State.tagSet (s : State) (x : SC) : Word :=
  if x.imm.getLsbD 8 then s.reg x.sa else w64 (2 ^ bits x.imm 0 6)

def State.tagSources (s : State) (word : Word) (x : SC) : Res Unit := s.sources word (if x.imm.getLsbD 8 then [x.sa] else [])

/-- The lowest tag of a mask. -/
def lowest (m : Word) : Option Nat := (List.range 64).find? fun k => m.getLsbD k

/-- The outcome of TAGFF and TAGWAITANY (R160), recorded and replayed (R369 to R372); `own` is what the tags give now, none
to wait. -/
def State.tagOutcome (s : State) (kind : Nat) (p y : Word) (own : Option Nat) : Res (State × Nat) :=
  let c := s.seq.ctx
  if c.replay then
    match s.decide c.launch kind c.strandix 0 0 with
    | .forced t e =>
      let k := e.value.toNat
      if 64 ≤ k || y.getLsbD k then .ok (t.tookEntry c.launch kind c.strandix 0, Nat.min k 64)
      else if p.getLsbD k then stall t
      else .error (.stall (t.diverge c.launch e.tempo e.ix))
    | .free t => (match own with | some k => .ok (t, k) | none => stall t)
    | .full t => .error (.stall t.stopFull.stalledAt)
    | .diverged t => .error (.stall t)
  else
    match own with
    | none => stall s
    | some k => do
      let (t, _) ← s.strandDecision kind (w64 k)
      pure (t, k)

/-- TAGWAITANY. -/
def execTagwaitany (x : SC) (s : State) : Out :=
  let p := s.tagSet x &&& (s.plot s.cur).tagPending
  let y := s.tagSet x &&& (s.plot s.cur).tagReady
  settle s (do
    s.tagSources (encode (.tagwaitany x)) x
    let (t, k) ← s.tagOutcome 3 p y (if p ||| y = 0 then some 64 else lowest y)
    pure (t.setReg x.sd (w64 k)).retire)

/-- TAGWAITALL. -/
def execTagwaitall (x : SC) (s : State) : Out :=
  settle s (do
    s.tagSources (encode (.tagwaitall x)) x
    if s.tagSet x &&& (s.plot s.cur).tagPending = 0 then pure s.retire else stall s)

/-- TAGFF. -/
def execTagff (x : SC) (s : State) : Out :=
  let p := s.tagSet x &&& (s.plot s.cur).tagPending
  let y := s.tagSet x &&& (s.plot s.cur).tagReady
  settle s (do
    s.tagSources (encode (.tagff x)) x
    let (t, k) ← s.tagOutcome 2 p y (some ((lowest y).getD 64))
    pure (t.setReg x.sd (w64 k)).retire)

/-- TAGCLR: every tag of the set is free. -/
def execTagclr (x : SC) (s : State) : Out :=
  settle s (do
    s.tagSources (encode (.tagclr x)) x
    if s.tagSet x &&& (s.plot s.cur).tagPending = 0 then
      pure (s.modPlot s.cur fun p => { p with tagReady := p.tagReady &&& ~~~(s.tagSet x) }).retire
    else stall s)

/-! ### Batches (R161) -/

/-- The open batch closes; an empty one is complete. None while sixteen closed ones are outstanding. -/
def Plot.closeBatch (p : Plot) : Option Plot :=
  match p.openBatch with
  | none => some p
  | some l =>
    if l.isEmpty then some { p with openBatch := none }
    else if 16 ≤ p.batches.length then none
    else some { p with openBatch := none, batches := p.batches ++ [l] }

/-- CBCLOSE. -/
def execCbclose (s : State) : Out :=
  settle s (do
    match (s.plot s.cur).closeBatch with
    | some p => pure (if isHub s.cur then s else s.setPlot s.cur p).retire
    | none => stall s)

/-- CBWAIT: at most n closed batches remain. -/
def execCbwait (x : SC) (s : State) : Out :=
  settle s (do
    match (s.plot s.cur).closeBatch with
    | none => stall s
    | some p =>
      let s := if isHub s.cur then s else s.setPlot s.cur p
      if p.batches.length ≤ bits x.imm 0 5 then pure s.retire else stall s)

/-! ### Exhaustion (R162) -/

/-- 2^63 + the cause code. -/
def statusOf (c : Cause) : Word := 0x8000_0000_0000_0000#64 + c.code.setWidth 64

/-- A strand's key in the tables of barriers and events; a hub core has a key of its own. -/
def strandKey (c : Ctx) : Nat := c.launch * 65536 + c.strandix
def State.me (s : State) : Nat := if isHub s.cur then 2 ^ 60 + s.cur else strandKey s.seq.ctx

/-- A resource is exhausted: in mode STATUS the instruction completes with the status, in mode TRAP the strand stops at it and
the module supervisor takes the cause. -/
def State.exhaust (s : State) (c : Cause) (sd : BitVec 5) (t0 t2 : Word) : Res State :=
  if s.seq.ctx.exhStatus then .ok (s.setReg sd (statusOf c)).retire
  else .error (.stall ((s.raiseSup c t0 (w64 s.cur) t2).stopFull.stalledAt))

/-- A slot of partition `part` that firmware creates, with the lowest free name; it counts along the partition's path (R307). -/
def State.firmwareSlot (s : State) (part : Nat) : State :=
  let name := if s.sched.events.length < 4096 then (List.range' 1 65535).find? fun n => (s.sched.events.find n).isNone else none
  match name with
  | none => s
  | some n => (s.setSlot { name := n, count := 0, part := part, launch := none }).useMore part 0xD0 2 1

/-- A slot that firmware frees: one that no launch's EVALLOC made. -/
def State.firmwareFree (s : State) (name : Nat) : State :=
  match s.sched.events.find name with
  | some e => if e.launch.isNone then (s.freeSlot name).useLess e.part 0xD0 2 1 else s
  | none => s

/-- SUPERVISOR_RESUME (R162, R307, R326, R370): what the module supervisor does for the strand of agent a. It resumes one that
has stopped, the resource granted; or, with a cause code c, fails it with its fault domain. With d = 1 it creates an event slot
for partition b, with d = 2 it frees slot b (log entry 66). -/
def execSupervisorResume (s : State) : Out :=
  let x := s.evt
  let q := s.seqOf x.a
  if x.d = 1 then .next (s.firmwareSlot x.b)
  else if x.d = 2 then .next (s.firmwareFree x.b)
  else if x.c != 0 then
    if isHub x.a || q.run == .idle || q.run == .ended || q.run == .failed then .next s else .next (s.failStrand x.a (BitVec.ofNat 7 x.c))
  else if q.run == .exhausted then
    .next ((s.modSeqOf x.a fun q => { q with run := .running, granted := true }).modSched fun c => { c with logFull := c.logFull.del q.ctx.rcb })
  else .next s

/-! ### Barriers (R33, R34, R163, R308) -/

/-- An episode takes in a strand of agent `a`. -/
def Episode.takes (e : Episode) (x : Ctx) (a : Nat) : Bool :=
  match e.scope with
  | 1 => e.launch = x.launch && e.tract = x.tract
  | 2 => e.launch = x.launch && e.acre = acreOf a
  | 3 => e.launch = x.launch
  | _ => e.group != 0 && e.group = x.podgrp

/-- The current episode of identifier k for the current strand. -/
def State.episodeOf (s : State) (k : Nat) : Option Episode :=
  s.sched.episodes.find? fun e => e.id = k && e.takes s.seq.ctx s.cur

/-- A barrier needs a strand, and POD scope a pod barrier group. -/
def State.barrierOk (s : State) (scope : Nat) : Bool := !isHub s.cur && (scope != 4 || s.seq.ctx.podgrp != 0)

/-- A new episode, with a slot of the barrier table above TRACT scope; none when they are used up. -/
def State.openEpisode (s : State) (scope k : Nat) : Option State :=
  let c := s.seq.ctx
  let e : Episode := { ord := s.sched.nextEp, scope := scope, launch := c.launch, tract := c.tract, group := c.podgrp, acre := acreOf s.cur, id := k,
                       joined := [], queue := match s.launch? c.launch with | some l => l.queue | none => 0 }
  let add (s : State) : State := s.modSched fun x => { x with episodes := x.episodes ++ [e], nextEp := x.nextEp + 1 }
  if scope = 1 then some (add s)
  else if s.seq.granted || ((s.sched.episodes.filter (2 ≤ ·.scope)).length < 1024 && s.roomFor c.rcb 7 0x2A 2 0xD2 2 1) then
    some ((add s).useMore c.rcb 0xD2 2 1)
  else none

/-- The current strand joins an episode. -/
def State.join (s : State) (e : Episode) (k : Nat) : State :=
  let me := s.me
  let s := s.modSched fun x => { x with episodes := x.episodes.map fun f =>
    if f.ord = e.ord then { f with joined := f.joined ++ [me] } else f }
  s.modSeq fun q => { q with joined := q.joined.set k { episode := e.ord, scope := e.scope, done := false } }

/-- An arrival whose barrier slot cannot be had (R162, R163): it has released. Under STATUS it completes as PHASE.AR, without
joining (that it acquires too is the model's choice, log entry 67). -/
def State.arriveFull (s : State) (x : SC) (scope k : Nat) : Res (State × Bool) := do
  let s ← s.releaseAt scope none
  let t ← s.exhaust .barfull x.sd (w64 k) (w64 scope)
  pure ((t.countRelease.acquire t.cur).countAcquire, false)

/-- An arrival at an episode: PHASE.AR at the scope, then the strand joins. -/
def State.arriveAt (s : State) (x : SC) (e : Episode) (k : Nat) : Res (State × Bool) := do
  let s ← s.releaseAt e.scope (if e.scope = 1 then some e.ord else none)
  pure ((((s.countRelease.acquire s.cur).countAcquire).join e k).setReg x.sd 0, true)

/-- An arrival (R163); the answer tells that the strand joined. The episode is there before the release, so that its scope is
fixed; one of another scope that has come since the strand's release counts as an exhaustion. -/
def State.arrive (s : State) (word : Word) (x : SC) : Res (State × Bool) := do
  let scope := x.scope.toNat
  let k := bits x.imm 0 4
  need (s.barrierOk scope) .cfgbad word
  match s.episodeOf k with
  | some e =>
    if e.scope = scope then (if e.joined.contains s.me then stall s else s.arriveAt x e k)
    else if s.seq.released then s.arriveFull x scope k
    else trap .cfgbad word
  | none =>
    match s.openEpisode scope k with
    | none => s.arriveFull x scope k
    | some t =>
      match t.episodeOf k with
      | none => stall t
      | some e => t.arriveAt x e k

/-- The wait for the episode that the strand joined on k (R163): none to go on waiting. -/
def State.awaitBarrier (s : State) (word : Word) (scope k : Nat) : Res State := do
  match s.seq.joined.find k with
  | none => pure s
  | some j =>
    need (j.scope = scope) .cfgbad word
    if j.done then
      pure (((s.acquire s.cur).countAcquire).modSeq fun q => { q with joined := q.joined.del k })
    else stall s

/-- BARARV. -/
def execBararv (x : SC) (s : State) : Out :=
  settle s (do
    let (t, joined) ← s.arrive (encode (.bararv x)) x
    pure (if joined then t.retire else t))

/-- BARWAIT. -/
def execBarwait (x : SC) (s : State) : Out :=
  settle s (do
    need (s.barrierOk x.scope.toNat) .cfgbad (encode (.barwait x))
    let t ← s.awaitBarrier (encode (.barwait x)) x.scope.toNat (bits x.imm 0 4)
    pure t.retire)

/-- BAR: the arrival, then the wait; one whose arrival was made performs only the wait (R166). -/
def execBar (x : SC) (s : State) : Out :=
  let k := bits x.imm 0 4
  settle s (do
    if s.seq.arrived then
      let t ← s.awaitBarrier (encode (.bar x)) x.scope.toNat k
      pure (t.modSeq fun q => { q with arrived := false }).retire
    else
      let (t, joined) ← s.arrive (encode (.bar x)) x
      if joined then stall (t.modSeq fun q => { q with arrived := true, released := false }) else pure t)

/-- The contexts that an episode takes in, on plots and in areas. -/
def State.episodeCtxs (s : State) (e : Episode) : List Ctx :=
  ((s.seqs.filter fun kq => !isHub kq.1 && kq.2.run != .idle && e.takes kq.2.ctx kq.1).map (·.2.ctx)) ++
  ((s.areas.filter fun ka => ka.2.live && e.takes ka.2.seq.ctx ka.2.home).map (·.2.seq.ctx))

/-- The strands of a tract, as the full mapping numbers them (R334). -/
def Launch.strandsIn (l : Launch) (tract : Nat) : Nat := let sh := l.full.getD tract (0, 0); sh.1 * sh.2

/-- The strands that an episode waits for: their keys; none while a launch of it has not started. -/
def State.participants (s : State) (e : Episode) : Option (List Nat) :=
  let keys := ((s.episodeCtxs e).map strandKey).eraseDups
  let ls := s.sched.launches.filter fun kl => if e.scope = 4 then kl.2.podgrp = e.group else kl.1 = e.launch
  let started (l : Launch) : Bool :=
    if e.scope = 1 then l.placedAt.isSome && l.strandsIn e.tract ≤ keys.length else l.placedAt.isSome && l.tracts.all (·.released)
  if ls.isEmpty || ls.all (fun kl => kl.2.retiring || started kl.2) then some keys else none

/-- The episode is done for every strand that joined it. -/
def Seq.episodeDone (q : Seq) (ord : Nat) : Seq :=
  { q with joined := q.joined.map fun kj => (kj.1, if kj.2.episode = ord then { kj.2 with done := true } else kj.2) }

/-- The conflicts of a deterministic tract (R114): each strand that wrote a byte which another wrote too traps DETCONF with its
lowest such address. -/
def clashOf (l : List DetByte) (strandix : Nat) : Option Word :=
  let mine := (l.filter fun b => 1 < b.writers.length).filterMap fun b => (b.writers.find? (·.1 = strandix)).map (·.2)
  mine.foldl (fun m v => match m with | none => some v | some w => if v.toNat < w.toNat then some v else some w) none

/-- A tract's merge at an episode (R114): conflicts are raised, and the tract's members see the home again. -/
def State.mergeTract (s : State) (launch tract : Nat) : State :=
  let key := launch * 16 + tract
  let l := s.det.get [] key
  let mine (c : Ctx) : Bool := c.launch = launch && c.tract = tract
  let clash (c : Ctx) : List Raise := match clashOf l c.strandix with | some v => [{ cause := .detconf, t0 := v }] | none => []
  let s := (s.agentsWith mine).foldl (fun s a => (clash (s.seqOf a).ctx).foldl (fun s r => s.raiseAt a r) s) s
  let off (x : Area) : Area :=
    if x.live && mine x.seq.ctx then { x with seq := { x.seq with pend := x.seq.pend ++ clash x.seq.ctx } } else x
  { s with det := s.det.del key, areas := s.areas.map fun ka => (ka.1, off ka.2) }

/-- The tracts that an episode covers, by launch and number. -/
def State.episodeTracts (s : State) (e : Episode) : List (Nat × Nat) :=
  ((s.episodeCtxs e).map fun c => (c.launch, c.tract)).eraseDups

/-- The next graph phase of a tract: its source ports take a feeder anew (R22), of contexts in areas too. -/
def State.nextPhase (s : State) (launch tract : Nat) : State :=
  let mine (c : Ctx) : Bool := c.launch = launch && c.tract = tract
  let s := (s.agentsWith mine).foldl (fun s a => s.modPlot a fun p => { p with feeders := [] }) s
  let off (x : Area) : Area := if mine x.seq.ctx then { x with plot := { x.plot with feeders := [] } } else x
  let areas := s.areas.map fun ka => (ka.1, off ka.2)
  let s := { s with areas := areas }
  s.modLaunch launch fun l => { l with tracts := setAt l.tracts tract fun t => { t with phase := t.phase + 1 } }

/-- An episode completes (R33): the merge of R113 and R114, then every waiter may go on; a barrier slot is returned; a TRACT
episode opens the tract's next graph phase (R22). -/
def State.completeEpisode (s : State) (e : Episode) : State :=
  let s := (s.episodeTracts e).foldl (fun s lt => s.mergeTract lt.1 lt.2) s
  let seqs := s.seqs.map fun kq => (kq.1, kq.2.episodeDone e.ord)
  let areas := s.areas.map fun ka => (ka.1, { ka.2 with seq := ka.2.seq.episodeDone e.ord })
  let s := { s with seqs := seqs, areas := areas, epBytes := s.epBytes.del e.ord }
  let s := s.modSched fun x => { x with episodes := x.episodes.filter (·.ord != e.ord) }
  if e.scope = 1 then s.nextPhase e.launch e.tract
  else s.useLess (match s.launch? e.launch with | some l => l.rcb | none => e.queue) 0xD2 2 1

/-- BARRIER_COMPLETION (R33): the last participant has arrived; a POD episode needs the release of the level above too. -/
def execBarrierCompletion (s : State) : Out :=
  match s.sched.episodes[s.evt.a]? with
  | none => .next s
  | some e =>
    match s.participants e with
    | none => .next s
    | some ks =>
      if ks.isEmpty || !ks.all (fun k => e.joined.contains k) || (e.scope = 4 && !s.evt.ok) then .next s else .next (s.completeEpisode e)

/-! ### Events (R164) -/

/-- The slot that an instruction names: the partition's own; a hub core reaches every slot. -/
def State.slotNamed (s : State) (v : Word) : Res EvSlot :=
  match (if 0x1_0000 ≤ v.toNat then none else s.sched.events.find v.toNat) with
  | some e => if isHub s.cur || e.part = s.seq.ctx.part then .ok e else trap .evname v
  | none => trap .evname v

/-- The lowest name that no slot has. -/
def State.freeName (s : State) : Option Nat := (List.range' 1 65535).find? fun n => (s.sched.events.find n).isNone

/-- EVALLOC. -/
def execEvalloc (x : SC) (s : State) : Out :=
  let c := s.seq.ctx
  settle s (do
    let room := s.seq.granted || (s.sched.events.length < 4096 && s.roomFor c.rcb 7 0x28 2 0xD0 2 1)
    match (if room then s.freeName else none) with
    | none => s.exhaust .evfull x.sd 0 s.seq.pc
    | some n =>
      let e : EvSlot := { name := n, count := 0, part := c.part, launch := if isHub s.cur then none else some c.launch }
      let s := (s.setSlot e).useMore c.rcb 0xD0 2 1
      pure (s.setReg x.sd (w64 n)).retire)

/-- EVSIG: the release at MODULE scope, then the slot's next operation: a decision of the strand's launch, and of the slot's where a
hub core signals (R369). -/
def execEvsig (x : SC) (s : State) : Out :=
  let v := s.reg x.sa
  settle s (do
    let _ ← s.slotNamed v
    s.sources (encode (.evsig x)) [x.sa]
    let s ← s.releaseAt 3 none
    let e ← s.slotNamed v
    let s ← s.locationDecision (if isHub s.cur then e.launch.getD 0 else s.seq.ctx.launch) 6 (w64 e.name)
    pure ((s.countRelease.signal e x.imm.toNat).setReg x.sd 0).retire)

/-- EVWAIT: the count reaches the target, or the waiter was released before; it takes a waiter's place otherwise. A strand that
has failed while it waited keeps its place until the slot is freed (the model's choice, log entry 69). -/
def execEvwait (x : SC) (s : State) : Out :=
  let v := s.reg x.sa
  let target := (s.reg x.sb).toNat % 2 ^ 32
  settle s (do
    let e ← s.slotNamed v
    s.sources (encode (.evwait x)) [x.sa, x.sb]
    let me := s.me
    let others := e.waiters.filter (·.agent != me)
    if target ≤ e.count || e.waiters.any (fun w => w.agent = me && w.target = target && w.released) then
      let s := s.setSlot { e with waiters := others }
      pure (((s.acquire s.cur).countAcquire).setReg x.sd 0).retire
    else if e.waiters.any (·.agent = me) || others.length < 64 || s.seq.granted then
      stall (s.setSlot { e with waiters := others ++ [{ agent := me, target := target, released := false }] })
    else s.exhaust .evfull x.sd v s.seq.pc)

/-- EVRST: the count is 0; waiters stay. -/
def execEvrst (x : SC) (s : State) : Out :=
  let v := s.reg x.sa
  settle s (do
    let e ← s.slotNamed v
    s.sources (encode (.evrst x)) [x.sa]
    pure ((s.setSlot { e with count := 0 }).setReg x.sd 0).retire)

/-! ### LAUNCH and SEED (R167, R168, R373) -/

/-- The checks of LAUNCH, and the place that it reserves (R167, R299): the launch stands checked until it is enqueued. -/
def State.reserveLaunch (s : State) (word : Word) (x : SC) : Res (State × Launch) := do
  match s.seq.resv with
  | some l => pure (s, l)
  | none =>
    let a := s.reg x.sa
    need (a.toNat % 128 = 0) .align a
    let t ← s.reachGlobal a 0 false
    let pa := t.pa a
    need (s.popKind pa != 3) .protr a
    let (w1, s) ← s.readWords t a 64 true
    let (w2, s) ← s.readWords t (a + 64) 64 true
    s.consume t a pa (w1 ++ w2)
    let ws := (w1 ++ w2).map (·.v)
    let s := s.meet (recNum ws 0x18 8)
    match s.checkLaunch (if isHub s.cur then 0 else s.seq.ctx.part) pa ws s.seq.holdchild with
    | .error e => trap e a
    | .ok l =>
      need s.contextRoom .budget a
      s.sources word [x.sa]
      pure (s.modSeq fun q => { q with resv := some l }, l)

/-- LAUNCH. -/
def execLaunch (x : SC) (s : State) : Out :=
  let c := s.seq.ctx
  settle s (do
    let (s, l) ← s.reserveLaunch (encode (.launch x)) x
    let s ← s.releaseAt 3 none
    let ord := s.sched.ordinals.get 0 (s.eff l.queue 12) + 1
    let (s, forced) ← (if isHub s.cur then pure (s, none) else s.strandDecision 10 (w64 ord) (w64 l.queue))
    if forced.isSome && forced != some (w64 ord) then stall s
    let s := if forced.isSome then s.tookEntry c.launch 10 c.strandix (w64 l.queue) else s
    match s.enqueue l with
    | none => stall s
    | some (s, id) => pure (s.countRelease.setReg x.sd (w64 id)).retire)

/-- An entry of the seed log (R373). -/
def State.logSeed (s : State) (seed : Word) : State :=
  let o := s.obs
  let a := Config.seedBase + 32 * (o.seedW % Config.seedSlots)
  let c := s.seq.ctx
  let p := ((s.phys.putDword a s.tempo).putDword (a + 8) seed).putDword (a + 16) (w64 c.rcb)
  let p := p.putDword (a + 24) (w64 (s.cur % 65536 + c.launch % 2 ^ 32 * 2 ^ 32))
  { s with phys := p, obs := { o with seedW := o.seedW + 1 } }

/-- SEED: it stalls without 64 conditioned bits, or while the seed log is full; in replay it draws nothing. -/
def execSeed (x : SC) (s : State) : Out :=
  let c := s.seq.ctx
  settle s (do
    if c.replay && !isHub s.cur then
      let (t, f) ← s.strandDecision 5 0
      pure ((t.tookEntry c.launch 5 c.strandix 0).setReg x.sd (f.getD 0)).retire
    else if !s.power.entropyReady || Config.seedSlots ≤ s.obs.seedW - s.obs.seedB then stall s
    else
      let v := Config.entropy s.obs.seeds
      let (s, _) ← (if isHub s.cur then pure (s, none) else s.strandDecision 5 v)
      let s := { s with power := { s.power with entropyReady := false }, obs := { s.obs with seeds := s.obs.seeds + 1 } }
      pure ((s.logSeed v).setReg x.sd v).retire)

/-- ENTROPY_BITS_READY (R168): the source has 64 conditioned bits. -/
def execEntropyBitsReady (s : State) : Out := .next { s with power := { s.power with entropyReady := true } }

/-! ### STASHDECL (R169, R83, R84) -/

/-- STASHDECL. -/
def execStashdecl (x : SC) (s : State) : Out :=
  let word := encode (.stashdecl x)
  let kind := bits x.imm 0 2
  let j := bits x.imm 8 4
  let base := (s.reg x.sa).toNat
  let size := (s.reg x.sb).toNat
  let va := s.reg x.sd
  let unit := if kind = 2 then 65536 else 64
  let len := size * 2 ^ j
  let p := s.plot s.cur
  settle s (do
    need (kind != 3 && j ≤ 8 && (kind = 2 || (j = 0 && x.sd = 0))) .rsvfld word
    need (size != 0 && base % unit = 0 && size % unit = 0 && (kind != 2 || va.toNat % 65536 = 0)) .cfgbad word
    need (kind != 2 || (canonical va && canonical (va + w64 (len - 1)) && len ≤ 2 ^ 54)) .trnr va
    need (!isHub s.cur && base + size ≤ 0x20_0000) .space (w64 (Nat.max base 0x20_0000))
    need (!p.regions.any (fun r => r.base < base + size && base < r.base + r.size) &&
      (kind != 2 || s.rangeFree s.cur s.seq.ctx.asid s.seq.ctx.part (vaNum va) len)) .stashconf (w64 base)
    match (List.range 16).find? (fun b => !p.holds p.nextId b && 0x2_0000 * b < base + size && base < 0x2_0000 * (b + 1)) with
    | some b => trap .btokbad (w64 (Nat.max base (0x2_0000 * b)))
    | none =>
      s.sources word ([x.sa, x.sb] ++ (if kind = 2 then [x.sd] else []))
      let p := { p with regions := p.regions ++ [{ kind := kind, base := base, size := size }] }
      let s := s.setPlot s.cur p
      let w : Window := { owner := s.cur, base := base, size := size, vbase := vaNum va, j := j, asid := s.seq.ctx.asid }
      pure (if kind = 2 then { s with windows := s.windows ++ [w] } else s).retire)

/-! ### The carry table (R49, R50, R170, R171) -/

def fmtBytes (f : Nat) : Nat := if f = 0 then 4 else 2

/-- Bytes of an entry's state, rounded up to 64. -/
def carryBytes (e : Word) : Nat := ((bits e 32 16 + 1) * fmtBytes (bits e 48 5) + 63) / 64 * 64

/-- The entry passes R49. -/
def carryOk (e : Word) : Bool :=
  bits e 21 11 = 0 && bits e 53 3 = 0 && bits e 58 6 = 0 && bits e 48 5 ≤ 2 && bits e 0 21 % 64 = 0 && bits e 0 21 + carryBytes e ≤ 0x20_0000

/-- Entry n as a reader obtains it: none when it is stale or invalid. -/
def Plot.carryEntry (p : Plot) (n : Nat) : Option Word :=
  let r := p.carry.get {} n
  if r.tag = p.gen && r.val.getLsbD 57 then some r.val else none

/-- An earlier VSCAN on the entry has not retired. -/
def Plot.scanning (p : Plot) (n : Nat) : Bool := p.actors.any fun a => match a.instr with | .vscan v => bits v.mod 1 4 = n | _ => false

/-- The first bytes of the pages that [a, a + n) touches. -/
def pagesOf (a : Word) (n : Nat) : List Word :=
  (List.range ((a.toNat % 65536 + n + 65535) / 65536)).map fun k => if k = 0 then a else (a >>> 16 <<< 16) + w64 (65536 * k)

/-- Every page of a range is translated and checked for the current agent. One in hub space traps PROTR or PROTW, the cause of an
access that nothing there serves (the model's choice, log entry 68: R78 names SPACE for streams, tiles, copies and atomics). -/
def State.reachPages (s : State) (a : Word) (n kind : Nat) (pubBad : Bool) : Res Unit := do
  let ts ← (pagesOf a n).mapM fun va => s.translate s.cur 0 va kind
  let l := (pagesOf a n).zip ts
  match l.find? (fun x => s.popKind (x.2.pa x.1) = 0 || s.popKind (x.2.pa x.1) = 3) with
  | some x => trap (noAccess kind) x.1
  | none =>
    match l.find? (fun x => pubBad && ptePub x.2.pte) with
    | some x => trap .pubbad x.1
    | none => pure ()

/-- The words of a range read sector by sector as plain loads, codes with them. -/
def State.readSpan (s : State) (a : Word) : Nat → Res (List CW × State)
  | 0 => .ok ([], s)
  | n + 1 => do
    let (l, s) ← s.readSpan a n
    let va := a + w64 (64 * n)
    let t ← s.translate s.cur 0 va 0
    let (ws, s) ← s.readWords t va 64 false
    pure (l ++ ws, s)

/-- A word enters the strand's own view with the code given. -/
def State.storeCW (s : State) (va : Word) (w : CW) : Res State := do
  let t ← s.translate s.cur 0 va 1
  pure (s.ownStore s.cur t va (t.pa va) 15 w.v w.c (s.view s.cur).nextId)

def State.storeSpan (s : State) (a : Word) : List CW → Nat → Res State
  | [], _ => .ok s
  | w :: l, k => do
    let s ← s.storeCW (a + w64 (4 * k)) w
    s.storeSpan a l (k + 1)

/-- The header of an exported entry (R170). -/
def State.carryHeader (s : State) (e : Word) : List CW :=
  let d (v : Word) : List CW := [CW.mk' (v.extractLsb' 0 32), CW.mk' (v.extractLsb' 32 32)]
  let c := s.seq.ctx
  [CW.mk' 0x43580001, CW.mk' (BitVec.ofNat 32 (carryBytes e))] ++ d ((e &&& ~~~0x1F_FFFF#64) ||| 0x0200_0000_0000_0000#64) ++ d s.tempo ++
    [CW.mk' (BitVec.ofNat 32 c.launch), CW.mk' (BitVec.ofNat 32 c.strandix)] ++ List.replicate 8 CW.zero

/-- CARRYX. -/
def execCarryx (x : SC) (s : State) : Out :=
  let word := encode (.carryx x)
  let n := bits x.imm 0 4
  let a := s.reg x.sa
  let p := s.plot s.cur
  settle s (do
    if p.scanning n then stall s
    need (a.toNat % 64 = 0) .align a
    match p.carryEntry n with
    | none => trap .carrybad word
    | some e =>
      let size := carryBytes e
      s.reachPages a (64 + size) 1 true
      s.sources word [x.sa]
      s.granules word (p.anyStale (bits e 0 21) size)
      let ws := (List.range (size / 4)).map fun k => p.word (bits e 0 21 + 4 * k)
      let t ← s.storeSpan a (s.carryHeader e ++ ws) 0
      pure (t.watchAccess a (64 + size) true).retire)

/-- CARRYI. -/
def execCarryi (x : SC) (s : State) : Out :=
  let word := encode (.carryi x)
  let n := bits x.imm 0 4
  let a := s.reg x.sa
  let ptr := s.reg x.sb
  let p := s.plot s.cur
  settle s (do
    if p.scanning n then stall s
    need (a.toNat % 64 = 0) .align a
    s.reachPages a 64 0 false
    let (hd, s) ← s.readSpan a 1
    match firstBad 0 hd with
    | some (k, c) => trap c (a + w64 (4 * k))
    | none =>
      let e0 : Word := (hd.getD 3 CW.zero).v ++ (hd.getD 2 CW.zero).v
      let e : Word := (e0 &&& ~~~0x1F_FFFF#64) ||| (ptr &&& 0x1F_FFFF) ||| 0x0200_0000_0000_0000#64
      let size := carryBytes e
      s.reachPages (a + 64) size 0 false
      need ((hd.getD 0 CW.zero).v = 0x43580001 && ptr.toNat ≤ 0x1F_FFFF && carryOk e) .carrybad word
      s.localCheck (bits e 0 21) size
      s.sources word [x.sa, x.sb]
      let (ws, s) ← s.readSpan (a + 64) (size / 64)
      let q := (List.range ws.length).foldl (fun (q : Plot) k => q.put (bits e 0 21 + 4 * k) (ws.getD k CW.zero)) p
      let q := { q with carry := q.carry.set n { val := e, tag := q.gen } }
      pure ((s.setPlot s.cur q).watchAccess a (64 + size) false).retire)

end Sys2Proof.Machine
end

