-- ==== Sys2Proof/Machine/Stream.lean ====
section
/-! DEFINITION. Class 0xB: address generators, stream commands, SBAR and bank tokens; FENCE and PUBLISH; the beats of the
generators (R15, R22, R29 to R32, R107, R110, R111, R172 to R181, R324, R347 to R349). -/

namespace Sys2Proof.Machine

/-! ### Generator state (R172 to R174) -/

def Plot.agOf (p : Plot) (g : Nat) : AgGen := p.ags.get {} g
def Plot.setAg (p : Plot) (g : Nat) (x : AgGen) : Plot := { p with ags := p.ags.set g x }

/-- CL: NL of an active level, else 1. -/
def AgGen.count (g : AgGen) (l : Nat) : Nat := if g.act.getLsbD l then g.n.get 0 l else 1
def AgGen.stepOf (g : AgGen) (l : Nat) : Word := if g.act.getLsbD l then g.step.get 0 l else 0

/-- B. -/
def AgGen.total (g : AgGen) : Nat := g.count 0 * g.count 1 * g.count 2 * g.count 3

/-- The loop counters of beat f. -/
def AgGen.counters (g : AgGen) (f : Nat) : List Nat :=
  let c0 := Nat.max 1 (g.count 0)
  let c1 := Nat.max 1 (g.count 1)
  let c2 := Nat.max 1 (g.count 2)
  [f % c0, f / c0 % c1, f / (c0 * c1) % c2, f / (c0 * c1 * c2)]

/-- addr[f]. -/
def AgGen.addr (g : AgGen) (f : Nat) : Word :=
  let i := g.counters f
  (List.range 4).foldl (fun a l => a + w64 (i.getD l 0) * g.stepOf l) g.base

/-- seq[f]. -/
def AgGen.seqAt (g : AgGen) (f : Nat) : BitVec 16 := g.sq + BitVec.ofNat 16 f

/-- The lowest and highest address of a command's beats, as an interval of integers. -/
def AgGen.span (g : AgGen) (bytes : Nat) : Int × Int :=
  (List.range 4).foldl (fun (r : Int × Int) l =>
    let d : Int := (g.count l - 1 : Nat) * (g.stepOf l).toInt
    if d < 0 then (r.1 + d, r.2) else (r.1, r.2 + d)) ((vaNum g.base : Int), (vaNum g.base + bytes : Nat))

/-- Bytes of a beat: 4W, and W = 0 means 256 (R175). -/
def beatWords (d : BitVec 8) : Nat := if bits d 0 6 = 0 then 64 else bits d 0 6

def streamWords : Instr → Nat
  | .sld x | .sst x | .sfill x => beatWords x.d
  | _ => 64

/-! ### Configuration (R173) -/

/-- A count or bound register's value; above 32 bits it is a CFGBAD. -/
def State.count32 (s : State) (word : Word) (r : BitVec 5) : Res Nat :=
  let v := s.reg r
  if v.toNat ≤ 0xFFFF_FFFF then .ok v.toNat else trap .cfgbad word

/-- AGBASE. -/
def execAgbase (x : D) (s : State) : Out :=
  settle s (do
    s.datapath (encode (.agbase x))
    s.sources (encode (.agbase x)) [r5 x.b]
    pure (s.modPlot s.cur fun p =>
      let g := p.agOf x.a.toNat
      p.setAg x.a.toNat { g with base := s.reg (r5 x.b), act := 0, lim := 0, shift := 0, limen := false }).retire)

/-- A loop level is set and becomes active. -/
def AgGen.level (g : AgGen) (l n : Nat) (step : Word) : AgGen :=
  { g with n := g.n.set l n, step := g.step.set l step, act := g.act ||| BitVec.ofNat 4 (2 ^ l) }

/-- AGLOOP. -/
def execAgloop (x : D) (s : State) : Out :=
  let word := encode (.agloop x)
  settle s (do
    s.datapath word
    let n ← s.count32 word (r5 x.c)
    s.sources word [r5 x.c]
    let step : Word := x.e.signExtend 64 <<< x.d.toNat
    pure (s.modPlot s.cur fun p => p.setAg x.a.toNat ((p.agOf x.a.toNat).level x.b.toNat n step)).retire)

/-- SLOOP. -/
def execSloop (x : D) (s : State) : Out :=
  let word := encode (.sloop x)
  settle s (do
    s.datapath word
    let n ← s.count32 word (r5 x.c)
    s.sources word [r5 x.c, r5 x.d]
    pure (s.modPlot s.cur fun p => p.setAg x.a.toNat ((p.agOf x.a.toNat).level x.b.toNat n (s.reg (r5 x.d)))).retire)

/-- AGIDX. -/
def execAgidx (x : D) (s : State) : Out :=
  let word := encode (.agidx x)
  settle s (do
    s.datapath word
    let lim ← s.count32 word (r5 x.c)
    s.sources word [r5 x.c]
    pure (s.modPlot s.cur fun p =>
      let g := p.agOf x.a.toNat
      let g := { g with shift := x.b.toNat }
      p.setAg x.a.toNat (if x.c = 0 then { g with limen := false } else { g with lim := lim, limen := true })).retire)

/-- SRST. -/
def execSrst (x : D) (s : State) : Out :=
  settle s (do
    s.datapath (encode (.srst x))
    pure (s.modPlot s.cur fun p => p.setAg x.a.toNat {}).retire)

/-! ### Issue of a stream command (R174, R175, R178, R18) -/

/-- The commands of a generator that have not retired. -/
def Plot.genQueue (p : Plot) (g : Nat) : List Actor := p.actors.filter fun x => genOfInstr x.instr == some g

/-- A stream command is issued: it copies its generator's state, and the generator's SEQ advances by B. -/
def State.issueStream (s : State) (word : Word) (i : Instr) (g : Nat) (tagByte : BitVec 8) (srcs : List (BitVec 5)) (fin : Bool) : Out :=
  let p := s.plot s.cur
  let ag := p.agOf g
  let b := ag.total
  let bytes := b * (4 * streamWords i)
  settle s (do
    s.datapath word
    need (b ≤ 0xFFFF_FFFF) .cfgbad word
    let _ ← p.issueTag word (tagOf tagByte) bytes
    s.sources word srcs
    if 4 ≤ (p.genQueue g).length then stall s
    let p ← p.issueTag word (tagOf tagByte) bytes
    let p := p.setAg g { ag with sq := ag.sq + BitVec.ofNat 16 b }
    let x : Actor := { id := 0, instr := i, pc := s.seq.pc, sv := srcs.map s.reg, left := some b, ag := ag, tag := tagOf tagByte }
    pure ((s.freshTag s.cur (tagOf tagByte)).setPlot s.cur (if b = 0 && !fin then p else p.issue x)).retire)

/-- SLD. -/
def execSld (x : D) (s : State) : Out := s.issueStream (encode (.sld x)) (.sld x) x.b.toNat x.c [] (x.e.getLsbD 1)

/-- SST. -/
def execSst (x : D) (s : State) : Out := s.issueStream (encode (.sst x)) (.sst x) x.a.toNat x.c [] false

/-- SGATH. -/
def execSgath (x : D) (s : State) : Out := s.issueStream (encode (.sgath x)) (.sgath x) x.b.toNat x.c [] (x.e.getLsbD 1)

/-- SSCAT. -/
def execSscat (x : D) (s : State) : Out := s.issueStream (encode (.sscat x)) (.sscat x) x.a.toNat x.c [] false

/-- SFILL. -/
def execSfill (x : D) (s : State) : Out := s.issueStream (encode (.sfill x)) (.sfill x) x.a.toNat x.c [r5 x.b] false

/-- SBAR (R30, R180): a marker, where an earlier kind is still at work. -/
def execSbar (x : D) (s : State) : Out :=
  settle s (do
    s.datapath (encode (.sbar x))
    let p := s.plot s.cur
    pure (if p.sbarPending p.nextId (bits x.a 0 4) && bits x.b 0 4 != 0 then
      s.setPlot s.cur (p.issue { id := 0, instr := .sbar x, pc := s.seq.pc }) else s).retire)

/-- FENCE (R107, R154): scalar accesses of a later kind wait in the sequencer; streams and engines behind a marker; with
scalar stores earlier and a stream or engine kind later, the strand's stores are visible to its streams and engines. -/
def execFence (x : SM) (s : State) : Out :=
  let early := bits x.off 0 6
  let late := bits x.off 8 6
  settle s (do
    if early = 0 || late = 0 then pure s.retire
    else
      let p := s.plot s.cur
      let pend := p.fencePending p.nextId early
      if pend && late % 8 != 0 then stall s
      let v := s.view s.cur
      let s := if early.testBit 1 && 8 ≤ late then
        s.setView s.cur { v with stores := v.stores.map fun st => { st with fenced := true } } else s
      pure (if pend then s.modPlot s.cur fun p => p.issue { id := 0, instr := .fence x, pc := s.seq.pc } else s).retire)

/-! ### PUBLISH (R110, R111, R156) -/

/-- The GLOBAL ranges that an engine operation writes, as first byte and length. -/
def EngOp.dest (o : EngOp) : List (Nat × Nat) :=
  let tile (td : TileDesc) : List (Nat × Nat) :=
    if td.w1.getLsbD 21 then []
    else [(vaNum td.w0, bits td.w1 32 24 * 64 * bits td.w1 0 8 + (bits td.w1 8 4 + 1) * 64)]
  match o.instr with
  | .tst _ | .tadd _ | .tcpy _ => tile o.td
  | .cpy x => if x.e.getLsbD 0 then [] else [(vaNum (o.sv.getD 0 0), (o.sv.getD 2 0).toNat)]
  | .coll _ => [(vaNum (o.sv.getD 1 0), (o.sv.getD 2 0).toNat), (vaNum (o.sv.getD 4 0), (o.sv.getD 6 0).toNat)]
  | _ => []

/-- A stream write or engine operation into [a, a + n) is not complete. -/
def Plot.writing (p : Plot) (a n : Nat) : Bool :=
  p.ops.any (fun o => o.dest.any fun r => a < r.1 + r.2 && r.1 < a + n) ||
  p.actors.any (fun x => match x.instr with
    | .sst d => !d.e.getLsbD 0 && (let r := x.ag.span (4 * beatWords d.d); r.1 < a + n && (a : Int) < r.2)
    | .sfill d => !d.e.getLsbD 0 && (let r := x.ag.span (4 * beatWords d.d); r.1 < a + n && (a : Int) < r.2)
    | .sscat d => !d.e.getLsbD 0
    | _ => false)

/-- PUBLISH. -/
def execPublish (x : SM) (s : State) : Out :=
  let a := s.addr x
  let len := (s.reg x.rd).toNat
  settle s (do
    need (a.toNat % 65536 = 0 && len % 65536 = 0) .align a
    need (len != 0) .pubbad a
    let vas := (List.range (len / 65536)).map fun k => a + w64 (65536 * k)
    let ts ← vas.mapM fun va => s.translate s.cur 0 va 1
    let l := vas.zip ts
    match l.find? (fun y => s.popKind (y.2.pa y.1) = 0) with
    | some y => trap .protw y.1
    | none =>
      match l.find? (fun y => !ptePub y.2.pte || s.popKind (y.2.pa y.1) = 3 || (ptePodc y.2.pte && s.podHome (y.2.pa y.1) != s.fabric.podIndex)) with
      | some y => trap .pubbad y.1
      | none =>
        s.sources (encode (.publish x)) [x.sa, x.rd]
        let frames := l.map fun y => frameOf (y.2.pa y.1)
        if (s.plot s.cur).writing (vaNum a) len || s.flips.any (fun f => f.frames.any frames.contains) then stall s
        let t := s.tempo + (if l.any (fun y => ptePodc y.2.pte) then 2000 else 1000)
        let f : Flip := { frames := frames, tick := t, agent := s.cur, cid := none }
        pure ({ s with flips := s.flips ++ [f] }.setReg x.rd t).retire)

/-! ### Accesses of a stream -/

/-- The translation of an address among those of its pages. -/
def tlbFor (l : List (Word × Tlb)) (va : Word) : Tlb := match l.find? fun y => y.1.toNat / 65536 = va.toNat / 65536 with
  | some y => y.2
  | none => default

/-- The checks of R177 for one access of `n` bytes in GLOBAL space by unit 1 + g of plot c: a translation for the first byte
and one for the last. `kind` 1 writes, the words given. -/
def State.streamReach (s : State) (c g : Nat) (va : Word) (n kind : Nat) (ws : List CW) : Res (List (Word × Tlb) × State) := do
  need (va.toNat % 4 = 0) .align va
  let vas := pagesOf va n
  let ts ← vas.mapM fun v => s.translate c (1 + g) v kind
  let l := vas.zip ts
  match l.find? (fun y => s.popKind (y.2.pa y.1) = 0) with
  | some y => do
    s.present c (1 + g) y.2 y.1 kind
    pure (l, s)
  | none =>
    match l.find? (fun y => s.popKind (y.2.pa y.1) = 3) with
    | some y => trap .space y.1
    | none =>
      let access (v : Word) : Access :=
        let t := tlbFor l v
        let k := if kind = 1 then s.writeKind t (t.pa v) else loadKind t
        let parts : List (Nat × BitVec 4 × CW) := (List.range ws.length).map fun i =>
          let w := va + w64 (4 * i)
          ((tlbFor l w).pa w, (15 : BitVec 4), ws.getD i CW.zero)
        let d := if k = 8 then sectorParts parts (t.pa v / 64) else ([], [])
        { t := t, va := v, pa := t.pa v, kind := k, ws := d.1, mask := d.2 }
      let s ← s.reachAll c (1 + g) ((sectorsOf va n).map access)
      pure (l, s)

/-- The words of a GLOBAL read of a stream: the values at their homes (R179), with the strand's own stores that its streams
see; an access that the home check refuses reads code 15 (R315). -/
def State.streamRead (s : State) (c g : Nat) (va : Word) (n : Nat) : Res (List CW × State) := do
  let (l, s) ← s.streamReach c g va (4 * n) 0 []
  let rd (k : Nat) : CW :=
    let v := va + w64 (4 * k)
    let t := tlbFor l v
    if s.homeRangeOk c (t.pa v) then s.currentWord c t v (t.pa v) true else CW.poison (Config.lost (t.pa v))
  let ws := (List.range n).map rd
  let s := (sectorsOf va (4 * n)).foldl (fun s v =>
    let t := tlbFor l v
    if s.homeRangeOk c (t.pa v) then (s.touchAt c v (t.pa v) (ptePodc t.pte) (pteMt t.pte = 1) false).scopeCheck c v (t.pa v)
    else s.homeCheckReport c (t.pa v)) s
  pure (ws, s)

/-- The words of a GLOBAL write of a stream are performed for its command. -/
def State.streamWrite (s : State) (c g : Nat) (by_ : Writer) (va : Word) (ws : List CW) : Res State := do
  let (l, s) ← s.streamReach c g va (4 * ws.length) 1 ws
  pure ((List.range ws.length).foldl (fun s k =>
    let v := va + w64 (4 * k)
    let t := tlbFor l v
    if s.homeRangeOk c (t.pa v) then s.engineWord c t v (t.pa v) (ws.getD k CW.zero) 15 by_ else s.homeCheckReport c (t.pa v)) s)

/-- The LOCAL checks of R177 for a stream command with number `id`. -/
def State.streamLocal (s : State) (c id : Nat) (va : Word) (n : Nat) (write : Bool) : Res Unit := do
  need (va.toNat % 4 = 0) .align va
  match (s.plot c).localFault id va.toNat n with
  | some e => trap e va
  | none => need (write || !((s.seqOf c).gstrict && (s.plot c).anyStale va.toNat n)) .genstale va

/-- One access of n words by a stream, read. -/
def State.beatRead (s : State) (c g id : Nat) (loc : Bool) (va : Word) (n : Nat) : Res (List CW × State) :=
  if loc then do
    s.streamLocal c id va (4 * n) false
    pure ((List.range n).map fun k => (s.plot c).word (va.toNat + 4 * k), s)
  else s.streamRead c g va n

/-- One access of a stream, written. -/
def State.beatWrite (s : State) (c g : Nat) (x : Actor) (loc : Bool) (va : Word) (ws : List CW) : Res State :=
  if loc then do
    s.streamLocal c x.id va (4 * ws.length) true
    pure (s.modPlot c fun p => (List.range ws.length).foldl (fun p k => p.put (va.toNat + 4 * k) (ws.getD k CW.zero)) p)
  else s.streamWrite c g { src := some x.id, tag := x.tag } va ws

/-! ### Faults of a generator (R177, R324) -/

/-- The opcode of a stream command in class 0xB, and the port of its record (R324). -/
def streamCode : Instr → Nat × Nat
  | .sld x => (4, x.a.toNat)
  | .sst x => (5, x.b.toNat)
  | .sgath x => (6, x.a.toNat)
  | .sscat x => (7, x.b.toNat)
  | .sfill _ => (10, 0)
  | _ => (0, 0)

def Actor.record (x : Actor) (r : Raise) (loc : Bool) : AgRec :=
  let i := x.ag.counters x.fired
  let k := streamCode x.instr
  { live := true, cause := r.cause.code, walk := r.t1.extractLsb' 0 4, lane := BitVec.ofNat 6 x.lane, streamid := x.pc.setWidth 32,
    addr := r.t0, i := (List.range 4).map fun l => (l, BitVec.ofNat 32 (i.getD l 0)), seqf := x.ag.seqAt x.fired, seq0 := x.ag.sq,
    cmd := BitVec.ofNat 5 (k.1 + (if loc then 16 else 0)), pte := r.t2,
    tagp := BitVec.ofNat 12 ((match x.tag with | some t => t + 64 | none => 0) + 256 * k.2), gstate := x.ag }

/-- The generator stops before the beat; its record is written, its cause raised at the next boundary. -/
def State.genFault (s : State) (c g : Nat) (x : Actor) (r : Raise) (loc : Bool) : State :=
  let s := (s.dropFaults c (1 + g)).dropReplies c (1 + g)
  let s := s.modPlot c fun p => { p.setActor x with recs := p.recs.set g (x.record r loc) }
  s.raiseAt c { r with unit := 1 + g }

/-! ### Beats (R175, R176) -/

/-- A beat of n words and zero lanes behind them. -/
def fullBeat (ws : List CW) : List CW := ws ++ List.replicate (64 - ws.length) CW.zero

/-- The replay window: the last 64 beats of a generator (R347). -/
def Plot.noteReplay (p : Plot) (g : Nat) (q : BitVec 16) (addrs : List Word) (loc : Bool) : Plot :=
  let l := p.replay.get [] g ++ [(q, addrs, loc)]
  { p with replay := p.replay.set g (l.drop (l.length - 64)) }

/-- A beat has been performed: bytes land on the tag, the count falls, the watchdog restarts; the last beat retires a command
that places no end token. -/
def State.beatDone (s : State) (c g : Nat) (x : Actor) (bytes : Nat) (fin : Bool) : State :=
  let s := (s.dropFaults c (1 + g)).dropReplies c (1 + g)
  let x := { x with fired := x.fired + 1, lane := 0, h := [] }
  let now := s.cycleOf c
  s.modPlot c fun p =>
    let p := ({ p.land x.tag bytes with lastAct := s.tempo }).noteRate 2 g now
    if x.fired = x.left.getD 0 && !fin then p.drop x.id else p.setActor x

/-- A stream write meets an end token: it retires at once with LENMIS, and what is left of its tag is credited (R15). -/
def State.endWrite (s : State) (c : Nat) (x : Actor) (port bytes : Nat) : State :=
  let s := s.modPlot c fun p => ((p.pop port).land x.tag ((x.left.getD 0 - x.fired) * bytes)).drop x.id
  s.modSeqOf c fun q => { q with lenmis := true }

/-- The first failed code of the words that an actor consumes (R96, R97). -/
def badWord (ws : List CW) : Option Cause := (firstBad 0 ws).map (·.2)

/-- A token whose words fail can be read again: it came from a stream read, and its beat is in the window (R347). -/
def Plot.replayable (p : Plot) (t : Tok) : Bool :=
  match t.k with
  | .data b => t.feeder < 4 && ((p.replay.get [] t.feeder).any fun r => r.1 == b.seq) &&
      b.ws.any (fun w => CW.check w == some .lccmis)
  | _ => false

/-- The address of lane i of a gather or scatter; none out of bound (R176). -/
def AgGen.laneAddr (g : AgGen) (f : Nat) (ix : BitVec 32) : Option Word :=
  if g.limen && g.lim ≤ ix.toNat then none else some (g.addr f + (sx ix <<< g.shift))

/-- The lanes of a gather from the first not yet performed: those read so far are kept in `h`. -/
def State.gatherLanes (s : State) (c g : Nat) (loc : Bool) (ix : List CW) (x : Actor) : Nat → Except (Stop × Actor) (Actor × State)
  | 0 => .ok (x, s)
  | n + 1 =>
    if 64 ≤ x.lane then .ok (x, s)
    else
      let k := x.lane
      match x.ag.laneAddr x.fired (ix.getD k CW.zero).v with
      | none => s.gatherLanes c g loc ix { x with lane := k + 1 } n
      | some a =>
        match s.beatRead c g x.id loc a 1 with
        | .ok (ws, s) => s.gatherLanes c g loc ix { x with lane := k + 1, h := x.h.set k (ws.getD 0 CW.zero) } n
        | .error e => .error (e, x)

/-- The lanes of a scatter in ascending order. -/
def State.scatterLanes (s : State) (c g : Nat) (loc : Bool) (ix data : List CW) (x : Actor) : Nat → Except (Stop × Actor × State) (Actor × State)
  | 0 => .ok (x, s)
  | n + 1 =>
    if 64 ≤ x.lane then .ok (x, s)
    else
      let k := x.lane
      match x.ag.laneAddr x.fired (ix.getD k CW.zero).v with
      | none => s.scatterLanes c g loc ix data { x with lane := k + 1 } n
      | some a =>
        match s.beatWrite c g x loc a [data.getD k CW.zero] with
        | .ok s => s.scatterLanes c g loc ix data { x with lane := k + 1 } n
        | .error e => .error (e, x, s)

/-- The words that a stream write stores of a beat: those of a tagged beat take code 15 (R349). -/
def Beat.stored (b : Beat) (n : Nat) : List CW :=
  (List.range n).map fun k => if b.err then CW.poison (b.word k).v else b.word k

/-- What an index beat raises (R96, R97, R347): the cause, and whether the beat read with it is tagged. -/
def indexFault (b : Beat) : Option Cause := if b.err then none else badWord b.ws

/-- An index beat that fails is reported at the next boundary, a failed code in the journal too (R347). -/
def State.indexReport (s : State) (c g : Nat) (b : Beat) : State :=
  match indexFault b with
  | none => s
  | some e =>
    let s := if e == .lccmis then s.report c 0x06 1 e.code 0 (b.seq.setWidth 64) (s.seqOf c).ctx.launch else s
    s.raiseAt c { cause := e, unit := 1 + g }

/-- The end of a stop of one access: a fault of the generator, or a wait. -/
def State.stopBeat (s : State) (c g : Nat) (x : Actor) (loc : Bool) : Stop → State
  | .trap r => s.genFault c g x r loc
  | .stall t => t.modPlot c fun p => p.setActor x

/-- One beat of a stream read into a source port. -/
def State.beatSld (s : State) (c g : Nat) (x : Actor) (port n : Nat) (loc : Bool) (fin : Bool) : State :=
  if s.roomAt c port = 0 then s
  else
    match s.beatRead c g x.id loc (x.ag.addr x.fired) n with
    | .error e => s.stopBeat c g x loc e
    | .ok (ws, s) =>
      let q := x.ag.seqAt x.fired
      let s := s.acceptTok c port { k := .data { ws := fullBeat ws, seq := q }, by_ := x.id, feeder := g }
      let s := s.modPlot c fun p => p.noteReplay g q [x.ag.addr x.fired] loc
      s.beatDone c g x (4 * n) fin

/-- A gather meets an end token of its indices: it ends at once with LENMIS, what is left of its tag is credited, and where it
places an end token that is all it still does (R15). -/
def State.endGather (s : State) (c : Nat) (x : Actor) (ixPort : Nat) (fin : Bool) : State :=
  let s := s.modPlot c fun p =>
    let p := (p.pop ixPort).land x.tag ((x.left.getD 0 - x.fired) * 256)
    if fin then p.setActor { x with left := some x.fired, lane := 0, h := [] } else p.drop x.id
  s.modSeqOf c fun q => { q with lenmis := true }

/-- One beat of a gather. -/
def State.beatSgath (s : State) (c g : Nat) (x : Actor) (port ixPort : Nat) (loc : Bool) (fin : Bool) : State :=
  match (s.plot c).head? ixPort with
    | some { k := .fin, .. } => s.endGather c x ixPort fin
    | some { k := .data b, by_, feeder } =>
      if s.roomAt c port = 0 || (s.plot c).replayable { k := .data b, by_ := by_, feeder := feeder } then s
      else match s.gatherLanes c g loc b.ws x 64 with
        | .error (e, x) => s.stopBeat c g x loc e
        | .ok (x, s) =>
          let q := x.ag.seqAt x.fired
          let ws := (List.range 64).map fun k => x.h.get CW.zero k
          let tagged := b.err || (indexFault b == some .lccmis)
          let s := (s.indexReport c g b).modPlot c fun p => p.pop ixPort
          let s := s.acceptTok c port { k := .data { ws := ws, seq := q, err := tagged }, by_ := x.id, feeder := g }
          let addrs := b.ws.map fun w => (x.ag.laneAddr x.fired w.v).getD (BitVec.allOnes 64)
          let s := s.modPlot c fun p => p.noteReplay g q addrs loc
          s.beatDone c g x 256 fin
    | _ => s
/-- One beat of a stream write from a sink: it takes tokens that no route takes (R20). -/
def State.beatSst (s : State) (c g : Nat) (x : Actor) (sink n : Nat) (loc : Bool) : State :=
  let p := s.plot c
  match p.head? (16 + sink) with
  | some t =>
    if (p.wiring sink t).kind != 4 then s
    else match t.k with
      | .fin => s.endWrite c x (16 + sink) (4 * n)
      | .data b =>
        match s.beatWrite c g x loc (x.ag.addr x.fired) (b.stored n) with
        | .error e => s.stopBeat c g x loc e
        | .ok s => (s.modPlot c fun p => p.pop (16 + sink)).beatDone c g x (4 * n) false
      | _ => s
  | none => s

/-- One beat of a scatter. An end token at either head ends it, whether or not the other has a token (R15). -/
def State.beatSscat (s : State) (c g : Nat) (x : Actor) (sink ixPort : Nat) (loc : Bool) : State :=
  let p := s.plot c
  let data := (p.head? (16 + sink)).filter fun t => (p.wiring sink t).kind = 4
  match data.map Tok.k, p.head? ixPort with
  | some TokKind.fin, _ => s.endWrite c x (16 + sink) 256
  | _, some { k := .fin, .. } => s.endWrite c x ixPort 256
  | some (.data b), some u =>
    match u.k with
    | .data ib =>
      if p.replayable u then s
      else match s.scatterLanes c g loc ib.ws (b.stored 64) x 64 with
        | .error (e, x, s) => s.stopBeat c g x loc e
        | .ok (x, s) =>
          let s := (s.indexReport c g ib).modPlot c fun p => (p.pop (16 + sink)).pop ixPort
          s.beatDone c g x 256 false
    | _ => s
  | _, _ => s

/-- One beat of a fill. -/
def State.beatSfill (s : State) (c g : Nat) (x : Actor) (n : Nat) (loc : Bool) : State :=
  let w := CW.mk' ((x.sv.getD 0 0).extractLsb' 0 32)
  match s.beatWrite c g x loc (x.ag.addr x.fired) (List.replicate n w) with
  | .error e => s.stopBeat c g x loc e
  | .ok s => s.beatDone c g x (4 * n) false

/-- The end token behind the last beat of a stream read (R175), in a step of its own. -/
def State.placeEnd (s : State) (c g : Nat) (x : Actor) (port : Nat) : State :=
  if s.roomAt c port = 0 then s
  else (s.acceptTok c port { k := .fin, by_ := x.id, feeder := g }).modPlot c fun p => p.drop x.id

/-- The next beat of a command. -/
def State.beatOf (s : State) (c g : Nat) (x : Actor) : State :=
  match x.instr with
  | .sld d => if x.fired = x.left.getD 0 then s.placeEnd c g x d.a.toNat
              else s.beatSld c g x d.a.toNat (beatWords d.d) (d.e.getLsbD 0) (d.e.getLsbD 1)
  | .sgath d => if x.fired = x.left.getD 0 then s.placeEnd c g x d.a.toNat
              else s.beatSgath c g x d.a.toNat d.d.toNat (d.e.getLsbD 0) (d.e.getLsbD 1)
  | .sst d => s.beatSst c g x d.b.toNat (beatWords d.d) (d.e.getLsbD 0)
  | .sscat d => s.beatSscat c g x d.b.toNat d.d.toNat (d.e.getLsbD 0)
  | .sfill d => s.beatSfill c g x (beatWords d.d) (d.e.getLsbD 0)
  | _ => s

/-- STREAM_BEAT (R17, R30, R107, R177, R185, R324, R339): the next beat of generator g's first command, unless it is stopped,
held back, parked or not yet its turn. -/
def execStreamBeat (s : State) : Out :=
  let c := s.evt.a
  let g := s.evt.b
  let p := s.plot c
  match (p.genQueue g).head? with
  | none => .next s
  | some x =>
    if (p.recs.get {} g).live || x.parked || s.frozen c || p.streamBlocked x.id x.instr || !p.turn x ||
        !(p.rate 2 g).allows (s.cycleOf c) then .next s
    else .next (s.beatOf c g x)

/-- The words of a beat read again at its addresses (R348). -/
def State.rereadBeat (s : State) (c g : Nat) (addrs : List Word) (loc : Bool) : Option (List CW) :=
  let id := (s.plot c).nextId
  match addrs with
  | [a] =>
    match s.beatRead c g id loc a 64 with
    | .ok (ws, _) => some ws
    | .error _ => none
  | l => l.mapM fun a =>
    if a = BitVec.allOnes 64 then some CW.zero
    else match s.beatRead c g id loc a 1 with | .ok (ws, _) => ws[0]? | .error _ => none

/-- BEAT_REPLAY (R256, R347, R348): the port's first beat that can be replayed is read again by the generator that fed it, and
replaces the failed token; lanes beyond the beat's width stay as they were. A token is replayed once. -/
def execBeatReplay (s : State) : Out :=
  let c := s.evt.a
  let port := s.evt.b
  let p := s.plot c
  let q := p.port port
  match (numbered q).find? fun kt => p.replayable kt.2 with
  | some (n, t) =>
    match t.k with
    | .data b =>
      match (p.replay.get [] t.feeder).find? (·.1 == b.seq) with
      | some (_, addrs, loc) =>
        let ws := match s.rereadBeat c t.feeder addrs loc with
          | some l => (List.range 64).map fun k =>
              if b.word k = CW.zero && 1 < 64 - k && addrs.length = 1 && (b.ws.drop k).all (· = CW.zero) then CW.zero else l.getD k CW.zero
          | none => b.ws
        let u : Tok := { t with k := .data { b with ws := ws }, feeder := 50 + t.feeder }
        let s := s.setPlot c { p with ports := p.ports.set port (q.set n u) }
        .next (s.report c 0x05 0 0 0 (b.seq.setWidth 64) (s.seqOf c).ctx.launch)
      | none => .next s
    | _ => .next s
  | none => .next s

end Sys2Proof.Machine
end

