-- ==== Sys2Proof/Machine/Route.lean ====
section
/-! DEFINITION. Class 0xF: routes, the route table, block configuration, firing limits; the buses of an acre; bank tokens
(R20 to R26, R31, R32, R181 to R185). -/

namespace Sys2Proof.Machine

/-! ### Routes -/

/-- A sink's wiring changes for the tokens of actors issued from now on (R21). -/
def Plot.wire (p : Plot) (sink : Nat) (r : Route) : Plot :=
  let ids := p.actors.map (·.id) ++ (p.port (16 + sink)).map (·.by_)
  let low := ids.foldl Nat.min p.nextId
  { p with routes := p.routes.set sink (wiringsFrom low (p.routes.get [] sink) ++ [(p.nextId, r)]), nextId := p.nextId + 1 }

/-- The route identifier of a ROUTE or RTAB word. -/
def ridOf (x : D) : BitVec 12 := BitVec.ofNat 12 (bits x.c 4 4 * 256 + x.d.toNat)

/-- The route that a ROUTE or RTAB word of kinds 0 to 4 describes. -/
def routeWord (x : D) (kind : Nat) : Route :=
  { kind := kind, port := bits x.b 0 4, coord := if kind = 1 then bits x.e 0 12 else 0, rid := ridOf x }

/-- A destination outside the strand's tract is refused (R25, R128); TVAL1 is the coordinate. -/
def State.routeCheck (s : State) (word : Word) (r : Route) : Res Unit :=
  need (r.kind != 1 || (namesPlot r.coord && (match s.tractOf s.cur with | some t => t.has r.coord | none => r.coord = s.cur)))
    .routebad word (w64 r.coord)

/-- ROUTE of kinds 0 to 4 (R182). -/
def State.routeSink (s : State) (word : Word) (x : D) (kind : Nat) : Out :=
  settle s (do
    s.datapath word
    s.routeCheck word (routeWord x kind)
    pure (s.modPlot s.cur fun p => p.wire x.a.toNat (routeWord x kind)).retire)

/-- ROUTE voS, viP. -/
def execRouteLocal (x : D) (s : State) : Out := s.routeSink (encode (.routeLocal x)) x 0

/-- ROUTE voS, plot(v,dr,df).viP. -/
def execRouteRemote (x : D) (s : State) : Out := s.routeSink (encode (.routeRemote x)) x 1

/-- ROUTE voS, rank.viP. -/
def execRouteRank (x : D) (s : State) : Out := s.routeSink (encode (.routeRank x)) x 2

/-- ROUTE voS, file.viP. -/
def execRouteFile (x : D) (s : State) : Out := s.routeSink (encode (.routeFile x)) x 3

/-- ROUTE voS, hold. -/
def execRouteHold (x : D) (s : State) : Out := s.routeSink (encode (.routeHold x)) x 4

/-- ROUTE viP, expect. -/
def execRouteExpect (x : D) (s : State) : Out :=
  settle s (do
    s.datapath (encode (.routeExpect x))
    pure (s.modPlot s.cur fun p => { p with expected := p.expected.set x.a.toNat (ridOf x) }).retire)

/-- RTAB (R183). -/
def execRtab (x : D) (s : State) : Out :=
  let word := encode (.rtab x)
  let r := routeWord x (bits x.c 0 4)
  settle s (do
    s.datapath word
    s.routeCheck word r
    pure (s.modPlot s.cur fun p => { p with rtab := p.rtab.set x.a.toNat r }).retire)

/-! ### CFGBLK (R184) -/

/-- Entries and bytes of each file. -/
def cfgShape (kind : Nat) : Nat × Nat := match kind with | 2 => (4, 64) | 3 => (16, 16) | _ => (16, 8)

/-- An entry of the route table as memory holds it (R183); its coordinate is relative (R128). -/
def routeImage (tracts : List Tract) (own : Nat) (e : Word) : Route × Bool :=
  let kind := bits e 12 4
  let c := relocate tracts own (bits e 0 12)
  let r : Route := { kind := kind, port := bits e 16 4, coord := if kind = 1 then c.getD 0xFFF else 0, rid := e.extractLsb' 20 12 }
  (r, kind ≤ 4 && bits e 32 32 = 0)

/-- A generator's image (R172): eight doublewords; none when a reserved bit is set. -/
def agImage (d : Nat → Word) : Option AgGen :=
  if bits (d 7) 37 3 = 0 && bits (d 7) 44 4 = 0 then
    some { base := d 0, n := [(0, bits (d 1) 0 32), (1, bits (d 1) 32 32), (2, bits (d 2) 0 32), (3, bits (d 2) 32 32)],
           step := [(0, d 3), (1, d 4), (2, d 5), (3, d 6)], lim := bits (d 7) 0 32, shift := bits (d 7) 32 4,
           limen := (d 7).getLsbD 36, act := (d 7).extractLsb' 40 4, sq := (d 7).extractLsb' 48 16 }
  else none

/-- Entry n of a file is checked and written from its doublewords. -/
def State.cfgEntry (s : State) (word : Word) (kind n : Nat) (d : Nat → Word) (p : Plot) : Res Plot :=
  match kind with
  | 0 => do
    need (carryOk (d 0)) .carrybad word
    pure { p with carry := p.carry.set n { val := d 0, tag := p.gen } }
  | 1 => do
    let ts := match s.launch? s.seq.ctx.launch with | some l => l.tracts | none => []
    let (r, ok) := routeImage ts ((ts.findIdx? (·.has s.cur)).getD 0) (d 0)
    need ok .rsvfld word
    s.routeCheck word r
    pure { p with rtab := p.rtab.set n r }
  | 2 =>
    match agImage d with
    | some g => .ok (p.setAg n g)
    | none => trap .rsvfld word
  | _ => .ok { p with tds := p.tds.set n { w0 := d 0, w1 := d 1 } }

def State.cfgEntries (s : State) (word : Word) (kind first size : Nat) (d : Nat → Word) (p : Plot) : Nat → Res Plot
  | 0 => .ok p
  | k + 1 => do
    let p ← s.cfgEntries word kind first size d p k
    s.cfgEntry word kind (first + k) (fun j => d (size / 8 * k + j)) p

/-- CFGBLK. -/
def execCfgblk (x : D) (s : State) : Out :=
  let word := encode (.cfgblk x)
  let kind := x.a.toNat
  let m := x.d.toNat + 1
  let (count, size) := cfgShape kind
  let a := s.reg (r5 x.b)
  let p := s.plot s.cur
  settle s (do
    s.datapath word
    need (x.c.toNat + m ≤ count) .badopnd word
    need (a.toNat % 8 = 0) .align a
    s.sources word [r5 x.b]
    s.localCheck a.toNat (size * m)
    s.granules word (p.anyStale a.toNat (size * m))
    let ws := (List.range (size * m / 4)).map fun k => p.word (a.toNat + 4 * k)
    consumeLocal a.toNat ws
    let d (k : Nat) : Word := (ws.getD (2 * k + 1) CW.zero).v ++ (ws.getD (2 * k) CW.zero).v
    let p ← s.cfgEntries word kind x.c.toNat size d p m
    pure (s.setPlot s.cur p).retire)

/-- ACTRATE (R185). -/
def execActrate (x : D) (s : State) : Out :=
  settle s (do
    s.datapath (encode (.actrate x))
    let r : Rate := { k := x.b.toNat, m := x.c.toNat + 1 }
    pure (s.modPlot s.cur fun p => { p with rates := p.rates.set x.a.toNat r }).retire)

/-! ### The buses (R20, R23 to R26) -/

/-- The identifier that tokens carry when they leave by a route. -/
def Tok.routed (t : Tok) (rid : BitVec 12) : Tok :=
  match t.k with
  | .data b => { t with k := .data { b with rid := rid } }
  | _ => t

/-- The plots that a sink's token goes to over the buses. -/
def State.receivers (s : State) (c : Nat) (r : Route) : List Nat :=
  let mine := match s.tractOf c with | some t => t.plots | none => [c]
  match r.kind with
  | 1 => [r.coord]
  | 2 => mine.filter fun d => rankOf d = rankOf c
  | 3 => mine.filter fun d => fileOf d = fileOf c
  | _ => []

/-- On a folded plot (R334), a token whose identifier a context that is not resident expects waits in its sink. -/
def State.withheld (s : State) (d port : Nat) (rid : BitVec 12) : Bool :=
  let p := s.plot d
  p.expected.get 0 port != rid && p.folded.any fun key =>
    match s.areas.find key with | some x => x.plot.expected.find port == some rid | none => false

/-- The bus that a token takes first (R23): its rank's, or its file's, numbered from 16. -/
def busOf (c : Nat) (r : Route) : Nat :=
  if r.kind = 3 || (r.kind = 1 && fileOf r.coord = fileOf c && rankOf r.coord != rankOf c) then 16 + fileOf c else rankOf c

/-- What sink `sink` of plot c can send over the buses now: the token at its head, where every receiver has a free slot (R24,
R26). -/
def State.leaving (s : State) (c sink : Nat) : Option (Tok × Route × List Nat) :=
  match (s.plot c).head? (16 + sink) with
  | none => none
  | some t =>
    let r := (s.plot c).wiring sink t
    let dsts := if r.kind = 0 then [] else s.receivers c r
    if dsts.isEmpty || dsts.any (fun d => s.roomAt d r.port = 0 || s.withheld d r.port r.rid) then none
    else some (t.routed r.rid, r, dsts)

/-- A sink of plot c that can send over a bus. -/
def State.sender (s : State) (c bus : Nat) : Option Nat :=
  (List.range 16).find? fun k => match s.leaving c k with | some y => busOf c y.2.1 = bus | none => false

/-- The place of a plot on a bus, and the plot at a place of the bus that plot c is on. -/
def busPlace (c bus : Nat) : Nat := if bus < 16 then fileOf c else rankOf c
def busPlot (c bus k : Nat) : Nat := if bus < 16 then coordOf (acreOf c) (rankOf c) (k % 8) else coordOf (acreOf c) (k % 16) (fileOf c)

/-- Who has the turn of a bus on which sink `sink` of plot c can send: round-robin by source plot after the one that had the
last turn (R24, R37). -/
def State.busTurn (s : State) (c sink bus : Nat) : Nat × Nat :=
  let last := (s.acre (acreOf c)).turns.get 0 bus
  (((List.range (if bus < 16 then 8 else 16)).findSome? fun k =>
    let d := busPlot c bus (last + 1 + k)
    if d = c then some (c, sink) else (s.sender d bus).map fun b => (d, b))).getD (c, sink)

/-- A token leaves its sink over the buses. A feeder is known by its sink, on the own plot as for a local route (R22). -/
def State.sendBus (s : State) (c sink bus : Nat) : State :=
  match s.leaving c sink with
  | none => s
  | some (t, r, dsts) =>
    let fl (d : Nat) : Flight := { src := c, sink := sink, dst := d, port := r.port, rid := r.rid,
                                   tok := { t with feeder := if d = c then 4 + sink else 100 + 16 * c + sink } }
    let s := s.modAcre (acreOf c) fun x => { x with turns := x.turns.set bus (busPlace c bus) }
    { s.modPlot c (fun p => p.pop (16 + sink)) with flight := s.flight ++ dsts.map fl }

/-- TOKEN_SEND (R20, R24, R26): the token at the head of sink b of plot a leaves by its wiring, once every receiver has a
free slot. A local route places it in the plot's own source port; on a bus the turn may be another plot's, whose token then
leaves. -/
def execTokenSend (s : State) : Out :=
  let c := s.evt.a
  let sink := s.evt.b
  match (s.plot c).head? (16 + sink) with
  | none => .next s
  | some t =>
    let r := (s.plot c).wiring sink t
    if r.kind = 0 then
      if s.roomAt c r.port = 0 then .next s
      else .next ((s.modPlot c fun p => p.pop (16 + sink)).acceptTok c r.port { t.routed r.rid with feeder := 4 + sink })
    else if (s.leaving c sink).isNone then .next s
    else
      let w := s.busTurn c sink (busOf c r)
      .next (s.sendBus w.1 w.2 (busOf c r))

/-- Flight i is the oldest from its sink to its plot. -/
def State.firstOfSink (s : State) (i : Nat) (f : Flight) : Bool :=
  (s.flight.take i).all fun g => g.src != f.src || g.sink != f.sink || g.dst != f.dst || g.bank != f.bank

/-- TOKEN_DELIVERY (R23, R24): a token in flight reaches its port, or is discarded where the port expects another
identifier. -/
def execTokenDelivery (s : State) : Out :=
  match s.flight[s.evt.a]? with
  | none => .next s
  | some f =>
    if f.bank.isSome || !s.firstOfSink s.evt.a f then .next s
    else
      let s := { s with flight := s.flight.eraseIdx s.evt.a }
      let want := (s.plot f.dst).expected.get 0 f.port
      if want = 0 || want = f.rid then .next (s.acceptTok f.dst f.port f.tok)
      else
        let r : Raise := { cause := .routeid, unit := 9, t0 := w64 f.port, t1 := f.rid.setWidth 64, t2 := want.setWidth 64 }
        .next ((s.raiseAt f.dst r).report f.dst 0x0D 1 r.cause.code 0 (f.rid.setWidth 64) (s.seqOf f.dst).ctx.launch)

/-! ### Bank tokens (R31, R32, R181) -/

/-- BTGIVE. -/
def execBtgive (x : D) (s : State) : Out :=
  let word := encode (.btgive x)
  let k := x.a.toNat
  let c := bits x.e 0 12
  settle s (do
    s.datapath word
    need ((s.plot s.cur).banks.get .held k = .held) .btokbad (w64 k)
    need (namesPlot c && (match s.tractOf s.cur with | some t => t.has c | none => c = s.cur)) .routebad word (w64 c)
    need (c != s.cur) .cfgbad word
    pure (s.modPlot s.cur fun p => { p with banks := p.banks.set k (.giving c p.nextId), nextId := p.nextId + 1 }).retire)

/-- BTTAKE: a stall until the token is there. -/
def execBttake (x : D) (s : State) : Out :=
  settle s (do
    s.datapath (encode (.bttake x))
    if (s.plot s.cur).banks.get .held x.a.toNat = .held then pure s.retire else stall s)

/-- The stash ranges that an engine operation accesses. -/
def EngOp.locals (o : EngOp) : List (Nat × Nat) :=
  let tile (td : TileDesc) : List (Nat × Nat) :=
    if td.w1.getLsbD 21 then [(vaNum td.w0, bits td.w1 32 24 * 64 * bits td.w1 0 8 + (bits td.w1 8 4 + 1) * 64)] else []
  let own : List (Nat × Nat) := match o.instr with
    | .tld _ | .tst _ | .tadd _ => (o.sv.map fun a => (a.toNat, (bits o.td.w1 0 8 + 1) * (bits o.td.w1 8 4 + 1) * 64))
    | .cpy x => (if x.e.getLsbD 0 then [((o.sv.getD 0 0).toNat, (o.sv.getD 2 0).toNat)] else []) ++
        (if x.e.getLsbD 1 then [((o.sv.getD 1 0).toNat, (o.sv.getD 2 0).toNat)] else [])
    | _ => []
  own ++ tile o.td ++ tile o.td2

def touchesBank (k : Nat) (r : Nat × Nat) : Bool := r.1 < 0x2_0000 * (k + 1) && 0x2_0000 * k < r.1 + r.2

/-- A stream's accesses may touch bank k: those of a gather or scatter are not known beforehand. -/
def Actor.touches (x : Actor) (k : Nat) : Bool :=
  match streamOf x.instr with
  | some (_, true) =>
    (match x.instr with
     | .sgath _ | .sscat _ => true
     | _ => let r := x.ag.span (4 * streamWords x.instr); r.1 < (0x2_0000 * (k + 1) : Nat) && ((0x2_0000 * k : Nat) : Int) < r.2)
  | _ => false

/-- Earlier accesses to bank k than number n are still to be performed. -/
def Plot.bankBusy (p : Plot) (k n : Nat) : Bool :=
  p.actors.any (fun x => x.id < n && x.touches k) || p.ops.any (fun o => o.id < n && o.locals.any (touchesBank k))

/-- The sectors of a WINDOW range that stand in bank k of the stash are written back, and their places are free (R85). -/
def State.leaveBank (s : State) (k : Nat) (all : Bool) (w : Window) : State :=
  let out := w.sectors.filter fun kx => all || touchesBank k (w.base + 64 * kx.1, 64)
  let s := out.foldl (fun s kx => s.writeSector kx.2) s
  let s := s.modPlot w.owner fun p => p.putWindow { w with sectors := out }
  s.setWindow { w with sectors := w.sectors.filter fun kx => !out.any (·.1 = kx.1) }

/-- The stores of the giver to WINDOW ranges of a bank that its coalescing buffer may still hold (R32). -/
def State.heldBack (s : State) (c : Nat) (ws : List Window) : List Nat :=
  let l := (s.view c).unpublished
  let hit (st : Store) : Bool := (s.plot c).storeDone st && ws.any fun w =>
    w.asid = s.asidOf c && w.vbase ≤ vaNum st.va && vaNum st.va < w.vbase + w.length
  closeStores l l.length ((l.filter hit).map (·.id))

/-- The token of a bank leaves with the WINDOW ranges that begin in it. -/
def State.sendBank (s : State) (c k dest : Nat) : State :=
  let meets (w : Window) : Bool := w.owner = c && touchesBank k (w.base, w.size)
  let passes (w : Window) : Bool := w.owner = c && w.base / 0x2_0000 = k
  let s := (s.windows.filter meets).foldl (fun s w => s.leaveBank k (passes w) w) s
  let f : Flight := { src := c, sink := 16 + k, dst := dest, port := 0, rid := 0, tok := { k := .fin }, bank := some k,
                      wins := s.windows.filter passes }
  let p := s.plot c
  let p := { p with banks := p.banks.set k .away, regions := p.regions.filter fun r => r.kind != 2 || r.base / 0x2_0000 != k }
  { s.setPlot c p with windows := s.windows.filter fun w => !passes w, flight := s.flight ++ [f] }

/-- BANK_TOKEN_SEND (R32, R85): once the earlier accesses to the bank are done, the giver's stores to its WINDOW ranges are
performed, its sectors are written back, and the token leaves with the ranges. -/
def execBankTokenSend (s : State) : Out :=
  let c := s.evt.a
  let k := s.evt.b
  match (s.plot c).banks.get .held k with
  | .giving dest since =>
    if (s.plot c).bankBusy k since then .next s
    else
      let ids := s.heldBack c (s.windows.filter fun w => w.owner = c && touchesBank k (w.base, w.size))
      match s.storesReach c 9 none ((s.view c).chosen ids) with
      | .ok s => .next ((s.performAll c { scope := 1, episode := none, ids := ids, quiet := true }).sendBank c k dest)
      | .error (.stall s) => .next s
      | .error (.trap x) => .next (s.refuseStores c x)
  | _ => .next s

/-- BANK_TOKEN_ARRIVAL (R32, R181): the plot holds the token, and the ranges stand at the same places of its own bank; what
the giver wrote there is visible to it. -/
def execBankTokenArrival (s : State) : Out :=
  match s.flight[s.evt.a]? with
  | some f =>
    match f.bank with
    | none => .next s
    | some k =>
      let regions := f.wins.map fun w => ({ kind := 2, base := w.base, size := w.size } : Region)
      let s := s.modPlot f.dst fun p => { p with banks := p.banks.set k .held, regions := p.regions ++ regions }
      let s := { s with flight := s.flight.eraseIdx s.evt.a, windows := s.windows ++ f.wins.map fun w => { w with owner := f.dst } }
      .next (if f.wins.isEmpty then s else s.refresh f.dst)
  | none => .next s

end Sys2Proof.Machine
end

