-- ==== Sys2Proof/Machine/Operands.lean ====
section
/-! DEFINITION. The operand forms of the vector classes (R123, R199, R200), elements packed in beats (R55), and the rules by
which any actor of the vector unit fires, meets end tokens and retires (R13 to R17, R27, R206, R345 to R349). -/

namespace Sys2Proof.Machine

/-! ### Elements -/

/-- An element, and whether it was taken from a word of code 15 (R203). -/
abbrev El := Nat × Bool

/-- The elements of width w that words hold, lowest bits first (R55). -/
def unpack (w : Nat) (ws : List CW) : List El :=
  ws.flatMap fun c => (List.range (32 / w)).map fun k => (c.v.toNat / 2 ^ (w * k) % 2 ^ w, c.c == 15)

/-- A word made by a lane from its elements: its code is the residue, or 15 where a lost word went into it. -/
def packWord (w : Nat) (l : List El) : CW :=
  let v : BitVec 32 := BitVec.ofNat 32 (l.foldr (fun e n => e.1 % 2 ^ w + 2 ^ w * n) 0)
  if l.any (·.2) then CW.poison v else CW.mk' v

/-- `n` words from a list of elements of width w; elements that are not there are zero. -/
def packN (w n : Nat) (l : List El) : List CW :=
  (List.range n).map fun j => packWord w ((l.drop (j * (32 / w))).take (32 / w))

/-- Elements of a beat. -/
def perBeat (w : Nat) : Nat := 2048 / w

/-! ### Scalar and immediate operands (R123) -/

/-- The 5-bit index as a number from −16 to 15. -/
def smallImm (o : BitVec 7) : Int := (o.extractLsb' 0 5).toInt

def kindOf (o : BitVec 7) : Nat := bits o 5 2

/-- The element that a scalar register's value or a small immediate supplies for type f. -/
def constEl (f : Nat) (index : Bool) (o : BitVec 7) (v : Word) : Nat :=
  if kindOf o = 2 then v.toNat % 2 ^ fmtWidth f
  else if index || 0xA ≤ f then intBits f (smallImm o)
  else ((fmtOf f).ofInt 0 (smallImm o)).1

/-- An index operand read as a number before it is reduced modulo L. -/
def indexOf (o : BitVec 7) (v : Word) (l : Nat) : Nat :=
  if kindOf o = 2 then v.toNat % l else (smallImm o % l).toNat

/-- A source of a firing: a port, a vector accumulator, or the same element everywhere. -/
inductive VSrc where
  | port (k : Nat)
  | va (n : Nat)
  | const (ws : List CW)
  deriving Repr

/-- The port that a specifier names as a source, and as a destination. -/
def inPort (o : BitVec 7) : Nat := let ix := bits o 0 5; if ix < 16 then ix else 16 + ix
def outPort (o : BitVec 7) : Nat := 16 + bits o 0 5

def vsrc (f : Nat) (index : Bool) (o : BitVec 7) (v : Word) : VSrc :=
  match kindOf o with
  | 0 => .port (inPort o)
  | 1 => .va (bits o 0 5)
  | _ => .const (packN (fmtWidth f) 64 (List.replicate (perBeat (fmtWidth f)) (constEl f index o v, false)))

/-! ### Vector accumulators (R38, R40, R41, R200) -/

def Plot.vaOf (p : Plot) (n : Nat) : VAcc := p.va.get {} n
def Plot.vaStale (p : Plot) (n : Nat) : Bool := (p.vaOf n).tag != p.gen

/-- The words of an accumulator; a stale one is zero. -/
def Plot.vaWords (p : Plot) (n : Nat) : List CW :=
  (List.range 64).map fun k => if p.vaStale n then CW.zero else (p.vaOf n).ws.get CW.zero k

/-- A beat as an accumulator holds it: its words that are not zero with code 0. -/
def sparse (ws : List CW) : NMap CW := (numbered ws).filter fun kw => kw.2 != CW.zero

def Plot.setVa (p : Plot) (n : Nat) (ws : List CW) (err : Bool) : Plot :=
  { p with va := p.va.set n { ws := sparse ws, tag := p.gen, err := err } }

/-! ### What an actor does next -/

/-- What an actor may do now: retire on the end token at one input (R15), retire on end tokens everywhere (R14), take the
data beside an end token (R15), or fire, in a tail firing or not (R206). -/
inductive Turn where
  | early (port : Nat)
  | final
  | drain
  | fire (tail : Bool)
  deriving DecidableEq, Repr

def isFin (t : Tok) : Bool := match t.k with | .fin => true | _ => false

/-- There is room on every sink for all that goes to it and `extra` more. -/
def Plot.roomAll (p : Plot) (outs : List (Nat × Nat)) (extra : Nat) : Bool :=
  outs.all fun o => ((outs.filter (·.1 = o.1)).map (·.2)).sum + extra ≤ p.room o.1

/-- What a tail firing of j beats produces: a sink that takes a beat for each of the group's takes j (R206, R255). -/
def tailOuts (outs : List (Nat × Nat)) (group j : Nat) : List (Nat × Nat) :=
  outs.map fun o => (o.1, if 1 < group && o.2 = group then j else o.2)

/-- The turn of an actor with the given inputs and sinks, each with its consumption or production; the gate port is among
the inputs. `group` is the number of beats that a grouped actor takes. -/
def Plot.next (p : Plot) (x : Actor) (ins outs : List (Nat × Nat)) (group : Nat) : Option Turn :=
  let heads := ins.map fun i => (i, (p.port i.1).take i.2)
  let at_ (h : (Nat × Nat) × List Tok) : Bool := match h.2.head? with | some t => isFin t | none => false
  match heads.find? at_ with
  | some e =>
    if x.left.isSome then some (.early e.1.1)
    else if heads.all at_ then (if p.roomAll (outs.map fun o => (o.1, 0)) 1 then some .final else none)
    else if heads.any (fun h => !h.2.isEmpty && !at_ h) then some .drain
    else none
  | none =>
    let full (h : (Nat × Nat) × List Tok) : Bool := h.2.length = h.1.2 && !h.2.any isFin
    let tail (h : (Nat × Nat) × List Tok) : Bool := h.1.2 = group && 1 < group && h.2.any isFin
    if heads.all (fun h => full h || tail h) then
      match heads.find? fun h => !full h with
      | none => if p.roomAll outs 0 then some (.fire false) else none
      | some h => if p.roomAll (tailOuts outs group (h.2.takeWhile fun t => !isFin t).length) 1 then some (.fire true) else none
    else none

/-- What a firing makes of the state: the tokens for each sink, and whether it is complete. -/
structure Firing where
  s : State
  x : Actor
  outs : List (List TokKind) := []

/-- The actor retires. A VSCAN that has begun writes its state back (R50). -/
def Plot.retireActor (p : Plot) (x : Actor) : Plot :=
  let p := match x.instr with
    | .vscan _ =>
      if x.started then
        let e := x.sv.getD 3 0
        (List.range (carryBytes e / 4)).foldl (fun (p : Plot) k => p.put (bits e 0 21 + 4 * k) (x.h.get CW.zero k)) p
      else p
    | _ => p
  p.drop x.id

def Plot.pushAll (p : Plot) (x : Actor) (outs : List (Nat × Nat)) (toks : List (List TokKind)) : Plot :=
  (outs.zip toks).foldl (fun p o => o.2.foldl (fun p k => p.push o.1.1 { k := k, by_ := x.id, feeder := 0 }) p) p

/-- One end token on each sink. -/
def Plot.endAll (p : Plot) (x : Actor) (outs : List (Nat × Nat)) : Plot :=
  (outs.map (·.1)).eraseDups.foldl (fun p k => p.push k { k := .fin, by_ := x.id }) p

def State.setLenmis (s : State) (c : Nat) : State := s.modSeqOf c fun q => { q with lenmis := true }

/-- The actor takes its turn on plot c. `body` is the firing: it has the tokens taken from each input. -/
def State.takeTurn (s : State) (c : Nat) (x : Actor) (ins outs : List (Nat × Nat)) (t : Turn)
    (body : State → List (List Tok) → Firing) : State :=
  match t with
  | .early k => (s.modPlot c fun p => (p.pop k).retireActor x).setLenmis c
  | .final =>
    let s := s.modPlot c fun p => ((ins.foldl (fun p i => p.pop i.1) p).endAll x outs).retireActor x
    if x.mis then s.setLenmis c else s
  | .drain =>
    s.modPlot c fun p =>
      let p := ins.foldl (fun p i => match p.head? i.1 with | some t => if isFin t then p else p.pop i.1 | none => p) p
      p.setActor { x with mis := true }
  | .fire tail =>
    let toks := ins.map fun i => (((s.plot c).port i.1).take i.2).takeWhile fun t => !isFin t
    let s := s.modPlot c fun p => ins.foldl (fun p i =>
      let l := (p.port i.1).take i.2
      p.pop i.1 (if l.any isFin then (l.takeWhile fun t => !isFin t).length + 1 else i.2)) p
    let f := body s toks
    let y := { f.x with fired := f.x.fired + 1 }
    let s := f.s.modPlot c fun p =>
      let p := p.pushAll y outs f.outs
      if tail then (p.endAll y outs).retireActor y
      else if y.left = some y.fired then p.retireActor y else p.setActor y
    if tail && x.left.isSome then s.setLenmis c else s

/-! ### Checking what a firing consumes (R96, R97, R203, R347, R349) -/

def tokErr (t : Tok) : Bool := match t.k with | .data b => b.err | .bit _ g => g | _ => false
def tokWords (t : Tok) : List CW := match t.k with | .data b => b.ws | _ => []
def tokBit (t : Tok) : Bool := match t.k with | .bit v _ => v | _ => false

/-- The gate of a firing: whether it produces, and whether the gate token is tagged (R27, R349). -/
def gateOf (l : List Tok) : Bool × Bool :=
  match l with
  | t :: _ => (tokErr t || tokBit t, tokErr t)
  | [] => (true, false)

/-- What a firing's lanes found in the words they consumed, reported for the strand (R97, R203, R347 case 3). -/
def State.reportWords (s : State) (c unit : Nat) (ws : List CW) : State :=
  let s := if ws.any (fun w => CW.check w == some .poison) then s.raiseAt c { cause := .poison, unit := unit } else s
  if ws.any (fun w => CW.check w == some .lccmis) then
    (s.raiseAt c { cause := .lccmis, unit := unit }).report c 0x06 1 (Cause.lccmis).code 0 0 (s.seqOf c).ctx.launch
  else s

def anyMis (ws : List CW) : Bool := ws.any fun w => CW.check w == some .lccmis

/-- A token among these has to be read again before the actor may fire (R347). -/
def Plot.awaitsReplay (p : Plot) (toks : List Tok) : Bool :=
  toks.any fun t => !tokErr t && p.replayable t

end Sys2Proof.Machine
end

