-- ==== Sys2Proof/Machine/Vector.lean ====
section
/-! DEFINITION. Class 0x8: the element-wise instructions of the vector unit, and the issue of every vector actor (R198 to
R213). -/

namespace Sys2Proof.Machine

/-! ### Issue (R12, R14, R18, R198, R205) -/

/-- The vector unit's actors that have not retired. -/
def Plot.vecHeld (p : Plot) : Nat :=
  (p.actors.filter fun x => (vecOf x.instr).isSome && !(match x.instr with | .vtos _ => x.fired != 0 | _ => false)).length

/-- The scalar registers that an instruction's source positions and count name. -/
def vRegs (x : V) : List (BitVec 5) :=
  let r (o : BitVec 7) : List (BitVec 5) := if kindOf o = 2 then [o.extractLsb' 0 5] else []
  r x.a ++ r x.b ++ r x.c ++ [x.count]

/-- The value that a position's scalar register has at issue. -/
def State.position (s : State) (o : BitVec 7) : Word := if kindOf o = 2 then s.reg (o.extractLsb' 0 5) else 0

/-- A port stands among the source positions. -/
def vHasPort (x : V) (i : Instr) : Bool :=
  let p (o : BitVec 7) : Bool := kindOf o = 0
  match i with
  | .vrng _ | .viota _ | .pgen _ => false
  | .vadd _ | .vsub _ | .vmul _ | .vdiv _ | .vmin _ | .vmax _ | .vand _ | .vor _ | .vxor _ | .vshl _ | .vshr _ | .vsra _ => p x.a || p x.b
  | .vcmpeq _ | .vcmplt _ | .vcmple _ | .vscale _ | .vpack _ | .vshuf _ | .vscan _ => p x.a || p x.b
  | .vfma _ | .vfms _ | .vfnma _ | .vclamp _ | .vsel _ => p x.a || p x.b || p x.c
  | _ => p x.a

/-- The actor that an instruction of the vector classes issues; a full unit stalls. `once` is an instruction that fires
exactly once. -/
def State.vecActor (s : State) (word : Word) (i : Instr) (x : V) (once : Bool) : Res Actor := do
  let n := s.reg x.count
  need (once || x.count != 0 || vHasPort x i) .cfgbad word
  need (once || n.toNat ≤ 0xFFFF_FFFF) .cfgbad word
  s.sources word (vRegs x)
  if 16 ≤ (s.plot s.cur).vecHeld then stall s
  pure { id := 0, instr := i, pc := s.seq.pc, sv := [s.position x.a, s.position x.b, s.position x.c],
         rm := if x.rnd = 4 then s.seq.rm else x.rnd.setWidth 2,
         left := if once then some 1 else if x.count = 0 then none else some n.toNat }

/-- An actor joins its unit; one that fires no times has retired at once (R14). -/
def State.addVec (s : State) (a : Actor) : State :=
  if a.left = some 0 then s else s.modPlot s.cur fun p => p.issue a

/-- The issue of an instruction without checks of its own. -/
def State.issueVec (s : State) (i : Instr) (x : V) : Out :=
  settle s (do
    s.datapath (encode i)
    let a ← s.vecActor (encode i) i x false
    pure (s.addVec a).retire)

/-- VADD. -/
def execVadd (x : V) (s : State) : Out := s.issueVec (.vadd x) x
/-- VSUB. -/
def execVsub (x : V) (s : State) : Out := s.issueVec (.vsub x) x
/-- VMUL. -/
def execVmul (x : V) (s : State) : Out := s.issueVec (.vmul x) x
/-- VFMA. -/
def execVfma (x : V) (s : State) : Out := s.issueVec (.vfma x) x
/-- VFMS. -/
def execVfms (x : V) (s : State) : Out := s.issueVec (.vfms x) x
/-- VFNMA. -/
def execVfnma (x : V) (s : State) : Out := s.issueVec (.vfnma x) x
/-- VDIV. -/
def execVdiv (x : V) (s : State) : Out := s.issueVec (.vdiv x) x
/-- VSQRT. -/
def execVsqrt (x : V) (s : State) : Out := s.issueVec (.vsqrt x) x
/-- VRCP. -/
def execVrcp (x : V) (s : State) : Out := s.issueVec (.vrcp x) x
/-- VRSQ. -/
def execVrsq (x : V) (s : State) : Out := s.issueVec (.vrsq x) x
/-- VEXP2. -/
def execVexp2 (x : V) (s : State) : Out := s.issueVec (.vexp2 x) x
/-- VLOG2. -/
def execVlog2 (x : V) (s : State) : Out := s.issueVec (.vlog2 x) x
/-- VMIN. -/
def execVmin (x : V) (s : State) : Out := s.issueVec (.vmin x) x
/-- VMAX. -/
def execVmax (x : V) (s : State) : Out := s.issueVec (.vmax x) x
/-- VABS. -/
def execVabs (x : V) (s : State) : Out := s.issueVec (.vabs x) x
/-- VNEG. -/
def execVneg (x : V) (s : State) : Out := s.issueVec (.vneg x) x
/-- VCLAMP. -/
def execVclamp (x : V) (s : State) : Out := s.issueVec (.vclamp x) x
/-- VAND. -/
def execVand (x : V) (s : State) : Out := s.issueVec (.vand x) x
/-- VOR. -/
def execVor (x : V) (s : State) : Out := s.issueVec (.vor x) x
/-- VXOR. -/
def execVxor (x : V) (s : State) : Out := s.issueVec (.vxor x) x
/-- VSHL. -/
def execVshl (x : V) (s : State) : Out := s.issueVec (.vshl x) x
/-- VSHR. -/
def execVshr (x : V) (s : State) : Out := s.issueVec (.vshr x) x
/-- VSRA. -/
def execVsra (x : V) (s : State) : Out := s.issueVec (.vsra x) x
/-- VCMPEQ. -/
def execVcmpeq (x : V) (s : State) : Out := s.issueVec (.vcmpeq x) x
/-- VCMPLT. -/
def execVcmplt (x : V) (s : State) : Out := s.issueVec (.vcmplt x) x
/-- VCMPLE. -/
def execVcmple (x : V) (s : State) : Out := s.issueVec (.vcmple x) x
/-- VSEL. -/
def execVsel (x : V) (s : State) : Out := s.issueVec (.vsel x) x
/-- VMOV. -/
def execVmov (x : V) (s : State) : Out := s.issueVec (.vmov x) x
/-- VIOTA. -/
def execViota (x : V) (s : State) : Out := s.issueVec (.viota x) x
/-- VRNG. -/
def execVrng (x : V) (s : State) : Out := s.issueVec (.vrng x) x
/-- VSCALE. -/
def execVscale (x : V) (s : State) : Out := s.issueVec (.vscale x) x

/-! ### Element results (R207 to R213) -/

/-- An element result: bits, flags, and whether .SAT changed it. -/
abbrev ElRes := Nat × FlagSet × Bool

def flRes (r : FRes) : ElRes := (r.1, r.2, false)
def plainRes (v : Nat) : ElRes := (v, 0, false)
def satRes (r : Nat × Bool) : ElRes := (r.1, 0, r.2)

/-- Arithmetic of a float type. -/
def flOp (i : Instr) (t : FFmt) (rm : BitVec 2) (a b c : Nat) : ElRes :=
  let va := t.decode a
  let vb := t.decode b
  let vc := t.decode c
  match i with
  | .vadd _ => flRes (t.add rm va vb)
  | .vsub _ => flRes (t.add rm va vb.neg)
  | .vmul _ => flRes (t.mul rm va vb)
  | .vfma _ => flRes (t.fma rm va vb vc)
  | .vfms _ => flRes (t.fma rm va vb vc.neg)
  | .vfnma _ => flRes (t.fma rm va.neg vb vc)
  | .vdiv _ => flRes (t.div rm va vb)
  | .vsqrt _ => flRes (t.sqrt rm va)
  | .vrcp _ => flRes (t.rcp rm va)
  | .vrsq _ => flRes (t.rsq rm va)
  | .vexp2 _ => flRes (t.exp2 rm va)
  | .vlog2 _ => flRes (t.log2 rm va)
  | .vmin _ => flRes (t.minmax false a b)
  | .vmax _ => flRes (t.minmax true a b)
  | .vabs _ => plainRes (a % t.signBit)
  | .vneg _ => plainRes (if a < t.signBit then a + t.signBit else a - t.signBit)
  | .vclamp _ =>
    let x := t.minmax true a b
    let y := t.minmax false x.1 c
    (y.1, x.2 ||| y.2, false)
  | _ => plainRes 0

/-- Arithmetic of an integer type. -/
def intOp (i : Instr) (f : Nat) (sat : Bool) (a b c : Nat) : ElRes :=
  let va := intOf f a
  let vb := intOf f b
  let vc := intOf f c
  match i with
  | .vadd _ => satRes (intFit f sat (va + vb))
  | .vsub _ => satRes (intFit f sat (va - vb))
  | .vmul _ => satRes (intFit f sat (va * vb))
  | .vmin _ => plainRes (if vb < va then b else a)
  | .vmax _ => plainRes (if va < vb then b else a)
  | .vabs _ => satRes (intFit f sat va.natAbs)
  | .vneg _ => satRes (intFit f sat (-va))
  | .vclamp _ => plainRes (intBits f (min (max va vb) vc))
  | _ => plainRes 0

/-- A comparison of two values (R210): whether it holds, and its flags. -/
def relation (i : Instr) (f a b : Nat) : Bool × FlagSet :=
  if isFl f then
    let x := (fmtOf f).decode a
    let y := (fmtOf f).decode b
    let nan := x.isNan || y.isNan
    let sig := x.signals || y.signals
    match i with
    | .vcmpeq _ => (!nan && !x.less false y && !y.less false x, if sig then fNV else 0)
    | .vcmplt _ => (!nan && x.less false y, if nan then fNV else 0)
    | _ => (!nan && !y.less false x, if nan then fNV else 0)
  else
    let x := intOf f a
    let y := intOf f b
    match i with
    | .vcmpeq _ => (x == y, 0)
    | .vcmplt _ => (x < y, 0)
    | _ => (x ≤ y, 0)

/-- A × 2^n (R213). -/
def scaleBy (rm : BitVec 2) (a n : Nat) : FRes :=
  match f32.decode a with
  | .nan _ g => (f32.canon, if g then fNV else 0)
  | .inf neg => (f32.infBits neg, 0)
  | .fin neg m e => f32.round rm false neg m (e + max (-1000) (min 1000 (intOf 0xA n))) false

/-- The result of an element-wise instruction for one element of type f (R207 to R210, R213). -/
def elementOp (i : Instr) (f : Nat) (rm : BitVec 2) (sat : Bool) (a b c : Nat) : ElRes :=
  let w := fmtWidth f
  match i with
  | .vand _ => plainRes (a &&& b)
  | .vor _ => plainRes (a ||| b)
  | .vxor _ => plainRes (a ^^^ b)
  | .vshl _ => plainRes (if b < w then a * 2 ^ b % 2 ^ w else 0)
  | .vshr _ => plainRes (if b < w then a / 2 ^ b else 0)
  | .vsra _ => plainRes (intBits f (intOf f a / 2 ^ (if b < w then b else w)))
  | .vcmpeq _ => let r := relation i f a b; (if r.1 then 2 ^ w - 1 else 0, r.2, false)
  | .vcmplt _ => let r := relation i f a b; (if r.1 then 2 ^ w - 1 else 0, r.2, false)
  | .vcmple _ => let r := relation i f a b; (if r.1 then 2 ^ w - 1 else 0, r.2, false)
  | .vsel _ => plainRes (if a != 0 then b else c)
  | .vscale _ => flRes (scaleBy rm a b)
  | _ => if isFl f then flOp i (fmtOf f) rm a b c else intOp i f sat a b c

/-! ### Firings of beats -/

/-- What a firing computes: a list of words for each sink (or for the accumulator), the words it consumed, its flags. -/
structure VOut where
  outs : List (List CW) := []
  used : List CW := []
  fl : FlagSet := 0
  isat : Bool := false
  /-- no output is made: a stale operand in strict mode (R40) -/
  mute : Bool := false
  deriving Repr

/-- How an actor fires: its sources, the beats that each port gives, its sinks with the beats made, the accumulator written,
and what it computes from the words of its sources. -/
structure VPlan where
  srcs : List VSrc
  g : Nat := 1
  sinks : List (Nat × Nat) := []
  va : Option Nat := none
  /-- an accumulator that is set to zero after it was read (R221) -/
  clear : Option Nat := none
  run : List (List CW) → VOut

/-- The destination of a specifier, with the beats made per firing. -/
def sinksOf (o : BitVec 7) (n : Nat) : List (Nat × Nat) := if kindOf o = 0 then [(outPort o, n)] else []
def vaDst (o : BitVec 7) : Option Nat := if kindOf o = 1 then some (bits o 0 5) else none

/-- Element results gathered: the elements with their marks, the flags, the saturation. -/
def gather (l : List (ElRes × Bool)) : List El × FlagSet × Bool :=
  (l.map fun r => (r.1.1, r.2), l.foldl (fun f r => f ||| r.1.2.1) 0, l.any fun r => r.1.2.2)

/-- Lists of elements side by side; one that is shorter supplies zeros. -/
def zip3 (a b c : List El) : List (El × El × El) :=
  (List.range a.length).map fun k => (a.getD k (0, false), b.getD k (0, false), c.getD k (0, false))

/-- An element-wise firing of `n` operands. -/
def lanewise (i : Instr) (f : Nat) (rm : BitVec 2) (sat : Bool) (l : List (List CW)) : VOut :=
  let w := fmtWidth f
  let u (k : Nat) : List El := unpack w (l.getD k [])
  let rs := (zip3 (u 0) (u 1) (u 2)).map fun e => (elementOp i f rm sat e.1.1 e.2.1.1 e.2.2.1, e.1.2 || e.2.1.2 || e.2.2.2)
  let r := gather rs
  { outs := [packN w 64 r.1], used := l.flatten, fl := r.2.1, isat := r.2.2 }

/-- VSEL of 32-bit elements: words move with their codes, and the mask alone is consumed (R203). -/
def selectWords (l : List (List CW)) : VOut :=
  let m := l.getD 0 []
  let w (k : Nat) : CW :=
    let x := m.getD k CW.zero
    let y := if x.v != 0 then (l.getD 1 []).getD k CW.zero else (l.getD 2 []).getD k CW.zero
    if x.c = 15 then CW.poison y.v else y
  { outs := [(List.range 64).map w], used := m }

/-- VIOTA at firing f (R211). -/
def iotaBeat (f a fired : Nat) : VOut :=
  let l := perBeat (fmtWidth f)
  { outs := [packN (fmtWidth f) 64 ((List.range l).map fun k => ((a + fired * l + k) % 2 ^ fmtWidth f, false))] }

/-- VRNG at firing f (R212). -/
def rngBeat (f seed sid start fired : Nat) : VOut :=
  let b := (start + fired) % 2 ^ 48
  let lane (k : Nat) : CW :=
    let x := philoxLane seed sid b k
    CW.mk' (BitVec.ofNat 32 (if f = 0 then (f32.round 0 false false (x / 256) (-24) false).1 else x))
  { outs := [(List.range 64).map lane] }

/-- The plan of an element-wise instruction. -/
def elementPlan (a : Actor) (x : V) : VPlan :=
  let f := x.ty.toNat
  let src (o : BitVec 7) (k : Nat) : VSrc := vsrc f false o (a.sv.getD k 0)
  let sink := sinksOf x.dst 1
  let va := vaDst x.dst
  let lanes := lanewise a.instr f a.rm (x.mod.getLsbD 0)
  match a.instr with
  | .vfma _ | .vfms _ | .vfnma _ | .vclamp _ => { srcs := [src x.a 0, src x.b 1, src x.c 2], sinks := sink, va := va, run := lanes }
  | .vsel _ => { srcs := [src x.a 0, src x.b 1, src x.c 2], sinks := sink, va := va,
                 run := if fmtWidth f = 32 then selectWords else lanes }
  | .vmov _ => { srcs := [src x.a 0], sinks := sink, va := va, run := fun l => { outs := [l.getD 0 []] } }
  | .viota _ =>
    let v := constEl f false x.a (a.sv.getD 0 0)
    { srcs := [], sinks := sink, va := va, run := fun _ => iotaBeat f v a.fired }
  | .vrng _ => { srcs := [], sinks := sink, va := va,
                 run := fun _ => rngBeat f (a.sv.getD 0 0).toNat (a.sv.getD 1 0).toNat (bits (a.sv.getD 2 0) 0 48) a.fired }
  | .vsqrt _ | .vrcp _ | .vrsq _ | .vexp2 _ | .vlog2 _ | .vabs _ | .vneg _ =>
    { srcs := [src x.a 0], sinks := sink, va := va, run := lanes }
  | .vscale _ => { srcs := [src x.a 0, vsrc 0xA false x.b (a.sv.getD 1 0)], sinks := sink, va := va, run := lanes }
  | _ => { srcs := [src x.a 0, src x.b 1], sinks := sink, va := va, run := lanes }

end Sys2Proof.Machine
end

