-- ==== Sys2Proof/Machine/Convert.lean ====
section
/-! DEFINITION. Class 0x9: conversion, layout, reduction, accumulation, VSCAN and VTOS (R214 to R223). -/

namespace Sys2Proof.Machine

/-! ### Issue -/

/-- VCVT. -/
def execVcvt (x : V) (s : State) : Out := s.issueVec (.vcvt x) x

/-- VQMX: its two sinks differ (R216). -/
def execVqmx (x : V) (s : State) : Out :=
  settle s (do
    s.datapath (encode (.vqmx x))
    need (x.dst != x.c) .qmxbad (encode (.vqmx x))
    let a ← s.vecActor (encode (.vqmx x)) (.vqmx x) x false
    pure (s.addVec a).retire)

/-- VDQMX: its two inputs differ (R217). -/
def execVdqmx (x : V) (s : State) : Out :=
  settle s (do
    s.datapath (encode (.vdqmx x))
    need (x.a != x.b) .qmxbad (encode (.vdqmx x))
    let a ← s.vecActor (encode (.vdqmx x)) (.vdqmx x) x false
    pure (s.addVec a).retire)

/-- VPACK. -/
def execVpack (x : V) (s : State) : Out := s.issueVec (.vpack x) x
/-- VUNPACK. -/
def execVunpack (x : V) (s : State) : Out := s.issueVec (.vunpack x) x
/-- VSHUF. -/
def execVshuf (x : V) (s : State) : Out := s.issueVec (.vshuf x) x
/-- VBCAST. -/
def execVbcast (x : V) (s : State) : Out := s.issueVec (.vbcast x) x
/-- VREDADD. -/
def execVredadd (x : V) (s : State) : Out := s.issueVec (.vredadd x) x
/-- VREDMAX. -/
def execVredmax (x : V) (s : State) : Out := s.issueVec (.vredmax x) x
/-- VREDMIN. -/
def execVredmin (x : V) (s : State) : Out := s.issueVec (.vredmin x) x
/-- VACC. -/
def execVacc (x : V) (s : State) : Out := s.issueVec (.vacc x) x

/-- An instruction that fires exactly once (R205). -/
def State.issueOnce (s : State) (i : Instr) (x : V) : Out :=
  settle s (do
    s.datapath (encode i)
    let a ← s.vecActor (encode i) i x true
    pure (s.addVec a).retire)

/-- VARST. -/
def execVarst (x : V) (s : State) : Out := s.issueOnce (.varst x) x
/-- VAOUT. -/
def execVaout (x : V) (s : State) : Out := s.issueOnce (.vaout x) x

/-- The carry entry of a VSCAN. -/
def scanEntry (x : V) : Nat := bits x.mod 1 4

/-- VSCAN (R222): the entry is valid, current and of the type; RST is read and cleared. -/
def execVscan (x : V) (s : State) : Out :=
  let word := encode (.vscan x)
  let n := scanEntry x
  settle s (do
    s.datapath word
    match (s.plot s.cur).carryEntry n with
    | none => trap .carrybad word
    | some e =>
      need (bits e 48 5 = x.ty.toNat) .carrybad word
      let a ← s.vecActor word (.vscan x) x false
      let rst := e.getLsbD 56
      let a := { a with sv := a.sv ++ [e], aux := if rst then 1 else 0 }
      let kept : Reg := { val := e &&& ~~~0x0100_0000_0000_0000#64, tag := (s.plot s.cur).gen }
      let s := s.modPlot s.cur fun p => { p with carry := p.carry.set n kept }
      pure (s.addVec a).retire)

/-- VTOS (R223): it issues its actor and stalls until that has fired; then it writes the element, or traps precisely. The
actor's `aux` tells how it ended: 0 the element in `sv`, 1 poisoned, 2 a failed code, 3 on an end token. -/
def execVtos (x : V) (s : State) : Out :=
  let word := encode (.vtos x)
  match (s.plot s.cur).actors.find? (fun y => y.instr == .vtos x && y.pc == s.seq.pc) with
  | some y =>
    if y.fired = 0 then settle s (stall s)
    else
      let t := s.modPlot s.cur fun p => p.drop y.id
      settle t (do
        match y.aux with
        | 1 => trap .poison
        | 2 => trap .lccmis
        | 0 => pure (t.setReg (x.dst.extractLsb' 0 5) (y.sv.getD 0 0)).retire
        | _ => pure t.retire)
  | none =>
    settle s (do
      s.datapath word
      let a ← s.vecActor word (.vtos x) x true
      stall (s.addVec a))

/-! ### What a firing computes -/

/-- One element converted from format st to dt (R64, R65, R215). -/
def convertEl (dt st : Nat) (rm : BitVec 2) (sat : Bool) (v : Nat) : ElRes :=
  if 0xA ≤ st then
    if 0xA ≤ dt then satRes (intFit dt sat (intOf st v)) else flRes ((fmtOf dt).ofInt rm (intOf st v) sat)
  else
    let a := (fmtOf st).decode v
    if 0xA ≤ dt then flRes (toInt dt rm a) else flRes ((fmtOf dt).convert rm sat a)

def convertBeats (dt st : Nat) (rm : BitVec 2) (sat : Bool) (n : Nat) (ws : List CW) : VOut :=
  let r := gather ((unpack (fmtWidth st) ws).map fun e => (convertEl dt st rm sat e.1, e.2))
  { outs := [packN (fmtWidth dt) (64 * n) r.1], used := ws, fl := r.2.1, isat := r.2.2 }

/-- Lists of 32 elements. -/
def blocks {α : Type} (l : List α) : List (List α) := (List.range (l.length / 32)).map fun b => (l.drop (32 * b)).take 32

/-- A VQMX firing (R216): the blocks that it holds; a block with a lost word is lost as a whole, with its scale's word. -/
def quantBeats (mt st : Nat) (ws : List CW) : VOut :=
  let bs := blocks (unpack (fmtWidth st) ws)
  let q := bs.map fun b => (quantise mt (b.map fun e => (fmtOf st).decode e.1), b.any (·.2))
  let els := q.flatMap fun r => r.1.2.1.map fun v => (v, r.2)
  { outs := [packN (fmtWidth mt) 64 els, packN 8 64 (q.map fun r => (r.1.1, r.2))], used := ws,
    fl := q.foldl (fun f r => f ||| r.1.2.2) 0 }

/-- A VDQMX firing (R217): the scale bytes used are those of the beat's blocks. -/
def dequantBeats (mt : Nat) (l : List (List CW)) : VOut :=
  let w := fmtWidth mt
  let els := unpack w (l.getD 0 [])
  let nb := perBeat w / 32
  let sw := (l.getD 1 []).take (nb / 4)
  let sc := unpack 8 sw
  let rs := (List.range els.length).map fun i =>
    let e := els.getD i (0, false)
    let c := sc.getD (i / 32) (0, false)
    (flRes (dequantise mt c.1 e.1), e.2 || c.2)
  let r := gather rs
  { outs := [packN 32 (64 * (perBeat w / 64)) r.1], used := l.getD 0 [] ++ sw, fl := r.2.1 }

/-- The integer types of half and of double width (R218). -/
def halfType (f : Nat) : Nat := match f with | 0xA => 0xB | 0xB => 0xC | _ => 0xE
def doubleType (f : Nat) : Nat := match f with | 0xB => 0xA | 0xE => 0xC | _ => 0xB

/-- VPACK and VUNPACK (R218). -/
def packBeats (f : Nat) (sat : Bool) (l : List (List CW)) : VOut :=
  let els := (l.flatMap (unpack (fmtWidth f)))
  let r := gather (els.map fun e => (satRes (intFit (halfType f) sat (intOf f e.1)), e.2))
  { outs := [packN (fmtWidth (halfType f)) 64 r.1], used := l.flatten, isat := r.2.2 }

def unpackBeats (f : Nat) (ws : List CW) : VOut :=
  let r := gather ((unpack (fmtWidth f) ws).map fun e => (plainRes (intBits (doubleType f) (intOf f e.1)), e.2))
  { outs := [packN (fmtWidth (doubleType f)) 128 r.1], used := ws }

/-- VSHUF (R219): words of 32 bits move with their codes. -/
def shuffle (f : Nat) (l : List (List CW)) : VOut :=
  let w := fmtWidth f
  let n := perBeat w
  let a := l.getD 0 []
  let ix := unpack w (l.getD 1 [])
  if w = 32 then
    let pick (e : El) : CW := let y := a.getD (e.1 % n) CW.zero; if e.2 then CW.poison y.v else y
    { outs := [ix.map pick], used := l.getD 1 [] }
  else
    let els := unpack w a
    let pick (e : El) : El := let y := els.getD (e.1 % n) (0, false); (y.1, y.2 || e.2)
    { outs := [packN w 64 (ix.map pick)], used := l.getD 1 [] ++ ix.map fun e => a.getD (e.1 % n * w / 32) CW.zero }

/-- VBCAST (R219). -/
def broadcast (f k : Nat) (a : List CW) : VOut :=
  let w := fmtWidth f
  let y := a.getD (k * w / 32) CW.zero
  if w = 32 then { outs := [List.replicate 64 y] }
  else { outs := [packN w 64 (List.replicate (perBeat w) ((unpack w [y]).getD (k % (32 / w)) (0, false)))], used := [y] }

/-- One level of R72's tree. -/
def treeLevel (op : Nat → Nat → ElRes) (l : List El) : List (ElRes × Bool) :=
  (List.range (l.length / 2)).map fun k =>
    let a := l.getD (2 * k) (0, false)
    let b := l.getD (2 * k + 1) (0, false)
    (op a.1 b.1, a.2 || b.2)

def tree (op : Nat → Nat → ElRes) : Nat → List El × FlagSet × Bool → List El × FlagSet × Bool
  | 0, r => r
  | n + 1, r =>
    let g := gather (treeLevel op r.1)
    tree op n (g.1, r.2.1 ||| g.2.1, r.2.2 || g.2.2)

/-- VREDADD, VREDMAX, VREDMIN (R220): the result stands in element 0. -/
def reduceBeat (i : Instr) (f : Nat) (sat : Bool) (ws : List CW) : VOut :=
  let op (a b : Nat) : ElRes := if isFl f then flOp i f32 0 a b 0 else intOp i f sat a b 0
  let r := tree op 6 (unpack 32 ws, 0, false)
  { outs := [packN 32 64 (r.1.take 1)], used := ws, fl := r.2.1, isat := r.2.2 }

/-- The plan of a class 0x9 instruction but VSCAN and VTOS. -/
def convertPlan (a : Actor) (x : V) : VPlan :=
  let f := x.ty.toNat
  let st := bits x.mod 1 5
  let src (o : BitVec 7) (k : Nat) : VSrc := vsrc f false o (a.sv.getD k 0)
  let one (run : List CW → VOut) (l : List (List CW)) : VOut := run (l.getD 0 [])
  let va := vaDst x.dst
  match a.instr with
  | .vcvt _ =>
    let n := Nat.max 1 (fmtWidth f / fmtWidth st)
    { srcs := [src x.a 0], g := Nat.max 1 (fmtWidth st / fmtWidth f), sinks := sinksOf x.dst n, va := va,
      run := one (convertBeats f st a.rm (x.mod.getLsbD 0) n) }
  | .vqmx _ => { srcs := [src x.a 0], g := fmtWidth st / fmtWidth f, sinks := sinksOf x.dst 1 ++ sinksOf x.c 1, run := one (quantBeats f st) }
  | .vdqmx _ => { srcs := [src x.a 0, src x.b 1], sinks := sinksOf x.dst (perBeat (fmtWidth f) / 64), run := dequantBeats f }
  | .vpack _ => { srcs := [src x.a 0, src x.b 1], sinks := sinksOf x.dst 1, va := va, run := packBeats f (x.mod.getLsbD 0) }
  | .vunpack _ => { srcs := [src x.a 0], sinks := sinksOf x.dst 2, run := one (unpackBeats f) }
  | .vshuf _ => { srcs := [src x.a 0, vsrc f true x.b (a.sv.getD 1 0)], sinks := sinksOf x.dst 1, va := va, run := shuffle f }
  | .vbcast _ => { srcs := [src x.a 0], sinks := sinksOf x.dst 1, va := va,
                   run := one (broadcast f (indexOf x.b (a.sv.getD 1 0) (perBeat (fmtWidth f)))) }
  | .vredadd _ => { srcs := [src x.a 0], sinks := sinksOf x.dst 1, va := va, run := one (reduceBeat (.vadd x) f (x.mod.getLsbD 0)) }
  | .vredmax _ => { srcs := [src x.a 0], sinks := sinksOf x.dst 1, va := va, run := one (reduceBeat (.vmax x) f false) }
  | .vredmin _ => { srcs := [src x.a 0], sinks := sinksOf x.dst 1, va := va, run := one (reduceBeat (.vmin x) f false) }
  | .vacc _ => { srcs := [.va (bits x.dst 0 5), src x.a 0], va := va, run := lanewise (.vadd x) f 0 false }
  | .varst _ => { srcs := [src x.a 0], va := va, run := fun l => { outs := [l.getD 0 []] } }
  | _ => { srcs := [src x.a 0], sinks := sinksOf x.dst 1, clear := if x.mod.getLsbD 1 then some (bits x.a 0 5) else none,
           run := fun l => { outs := [l.getD 0 []] } }

end Sys2Proof.Machine
end

