-- ==== Sys2Proof/Machine/Token.lean ====
section
/-! DEFINITION. Class 0xA: the token instructions (R224 to R226), and ACTOR_FIRING: the firing of one actor of the vector
unit (R13 to R17, R37, R200 to R206). -/

namespace Sys2Proof.Machine

/-! ### Issue -/

/-- VSTEER. -/
def execVsteer (x : V) (s : State) : Out := s.issueVec (.vsteer x) x
/-- VMERGE. -/
def execVmerge (x : V) (s : State) : Out := s.issueVec (.vmerge x) x
/-- PAND. -/
def execPand (x : V) (s : State) : Out := s.issueVec (.pand x) x
/-- POR. -/
def execPor (x : V) (s : State) : Out := s.issueVec (.por x) x
/-- PNOT. -/
def execPnot (x : V) (s : State) : Out := s.issueVec (.pnot x) x
/-- PGEN. -/
def execPgen (x : V) (s : State) : Out := s.issueVec (.pgen x) x
/-- PFROM. -/
def execPfrom (x : V) (s : State) : Out := s.issueVec (.pfrom x) x
/-- PDROP. -/
def execPdrop (x : V) (s : State) : Out := s.issueVec (.pdrop x) x

/-! ### Inputs -/

/-- Each port once, with the larger consumption (R16). -/
def joinPorts (l : List (Nat × Nat)) : List (Nat × Nat) :=
  l.foldl (fun acc i =>
    if acc.any (·.1 = i.1) then acc.map fun j => if j.1 = i.1 then (j.1, Nat.max j.2 i.2) else j else acc ++ [i]) []

/-- The gate port of an instruction. -/
def gatePort (x : V) : List (Nat × Nat) := if x.ge = 1 then [(32 + x.gate.toNat, 1)] else []

/-- The tokens taken from a port. -/
def takenFrom (ins : List (Nat × Nat)) (toks : List (List Tok)) (k : Nat) : List Tok :=
  match (ins.zip toks).find? fun i => i.1.1 = k with | some i => i.2 | none => []

/-- The tokens that a firing would take now. -/
def Plot.peek (p : Plot) (ins : List (Nat × Nat)) : List (List Tok) :=
  ins.map fun i => ((p.port i.1).take i.2).takeWhile fun t => !isFin t

/-! ### Firings of beats -/

/-- The words of a source, and whether they are tagged. -/
def srcWords (p : Plot) (ins : List (Nat × Nat)) (toks : List (List Tok)) : VSrc → List CW × Bool
  | .port k => let l := takenFrom ins toks k; (l.flatMap tokWords, l.any tokErr)
  | .va n => (p.vaWords n, !p.vaStale n && (p.vaOf n).err)
  | .const ws => (ws, false)

/-- Words without anything for a check to find. -/
def cleanWords (ws : List CW) : List CW := ws.map fun w => CW.mk' w.v

/-- What a firing computes: nothing in a tagged input is checked (R349). -/
def runPlan (v : VPlan) (l : List (List CW × Bool)) : VOut :=
  let r := v.run (l.map (·.1))
  if l.any (·.2) then { (v.run (l.map fun x => if x.2 then cleanWords x.1 else x.1)) with outs := r.outs, fl := 0, isat := false }
  else r

def beatsOf (ws : List CW) (err : Bool) : List TokKind :=
  (List.range (ws.length / 64)).map fun k => .data { ws := (ws.drop (64 * k)).take 64, err := err }

/-- Stale accumulators that a plan reads. -/
def staleVas (p : Plot) (v : VPlan) : List Nat :=
  v.srcs.filterMap fun x => match x with | .va n => if p.vaStale n then some n else none | _ => none

/-- The vector lane predicts the residue of each result (R345): integer sums and products, and the significand products of
floating-point multiplications. -/
def predicted (i : Instr) (ty : BitVec 4) : Bool :=
  match i with
  | .vadd _ | .vsub _ => 0xA ≤ ty.toNat
  | .vmul _ | .vfma _ | .vfms _ | .vfnma _ => true
  | _ => false

/-- What a firing's predictions find (R345): failed once, the firing is recomputed; failed twice, it ends as one whose words
cannot be read again (R347). -/
def State.prediction (s : State) (c : Nat) (once twice : Bool) : State :=
  let launch := (s.seqOf c).ctx.launch
  if twice then (s.raiseAt c { cause := .lccmis, unit := 5 }).report c 0x06 1 (Cause.lccmis).code 0 0 launch
  else if once then s.report c 0x07 0 0 0 0 launch
  else s

/-- The firing itself. -/
def fireBody (c : Nat) (x : Actor) (i : V) (v : VPlan) (ins : List (Nat × Nat)) (s : State) (toks : List (List Tok)) : Firing :=
  let p := s.plot c
  let gate := gateOf (if i.ge = 1 then takenFrom ins toks (32 + i.gate.toNat) else [])
  let stale := staleVas p v
  if !gate.1 then { s := s, x := x }
  else if (s.seqOf c).gstrict && !stale.isEmpty then
    { s := s.raiseAt c { cause := .genstale, unit := 5, t0 := w64 (stale.headD 0) }, x := x }
  else
    let l := v.srcs.map (srcWords p ins toks)
    let r := runPlan v l
    let checks := predicted x.instr i.ty && !l.any (·.2)
    let err := l.any (·.2) || gate.2 || anyMis r.used || (checks && s.evt.ok2)
    let s := (s.reportWords c 5 r.used).prediction c (checks && s.evt.ok) (checks && s.evt.ok2)
    let s := if r.fl = 0 then s else s.recordFlags c 5 r.fl
    let s := if r.isat then s.modSeqOf c fun q => { q with isat := true } else s
    let s := match v.clear with | some n => s.modPlot c fun p => p.setVa n [] false | none => s
    match v.va with
    | some n => { s := s.modPlot c fun p => p.setVa n (r.outs.getD 0 []) err, x := x }
    | none => { s := s, x := x, outs := r.outs.map fun ws => beatsOf ws err }

/-- An actor with a plan takes its turn; none when it has to wait. -/
def State.firePlan (s : State) (c : Nat) (x : Actor) (i : V) (v : VPlan) : Option State :=
  let p := s.plot c
  let ports := v.srcs.filterMap fun y => match y with | .port k => some (k, v.g) | _ => none
  let ins := joinPorts (ports ++ gatePort i)
  match p.next x ins v.sinks v.g with
  | none => none
  | some t =>
    let toks := p.peek ins
    let again := (match t with | .fire _ => true | _ => false) && p.awaitsReplay toks.flatten &&
      anyMis (runPlan v (v.srcs.map (srcWords p ins toks))).used
    if again then none else some (s.takeTurn c x ins v.sinks t (fireBody c x i v ins))

/-! ### VSCAN (R50, R222) -/

/-- The actor with its state read from the stash, at its first firing. -/
def Plot.beginScan (p : Plot) (x : Actor) : Actor :=
  if x.started then x
  else
    let e := x.sv.getD 3 0
    let ws := (List.range (carryBytes e / 4)).map fun k => if x.aux = 1 then CW.zero else p.word (bits e 0 21 + 4 * k)
    { x with started := true, h := sparse ws }

/-- One firing on the words h of the state from word `base` on: the words out, the new words of the state, the words used. -/
def scanStep (f lanes base : Nat) (a b h : List CW) : List CW × List CW × List CW × FlagSet :=
  let w := fmtWidth f
  let n := 32 / w
  let first := base * n
  let inside (k : Nat) : Bool := first + k < lanes
  let rs := (List.range (64 * n)).map fun k =>
    let x := (unpack w [a.getD (k / n) CW.zero]).getD (k % n) (0, false)
    let y := (unpack w [b.getD (k / n) CW.zero]).getD (k % n) (0, false)
    let z := (unpack w [h.getD (k / n) CW.zero]).getD (k % n) (0, false)
    let t := fmtOf f
    if inside k then
      let r := t.fma 0 (t.decode x.1) (t.decode z.1) (t.decode y.1)
      (((r.1, x.2 || y.2 || z.2) : El), r.2)
    else (z, 0)
  let out := packN w 64 ((List.range rs.length).map fun k => if inside k then (rs.getD k ((0, false), 0)).1 else (0, false))
  let made := packN w 64 (rs.map (·.1))
  let keep := (List.range 64).map fun k => if inside (k * n) then made.getD k CW.zero else h.getD k CW.zero
  let used := (List.range 64).flatMap fun k => if inside (k * n) then [a.getD k CW.zero, b.getD k CW.zero, h.getD k CW.zero] else []
  (out, keep, used, rs.foldl (fun g r => g ||| r.2) 0)

/-- The step of VSCAN's firing on its actor; the state's own words are consumed too. -/
def scanPlan (x : Actor) (i : V) : VPlan × Nat :=
  let f := i.ty.toNat
  let e := x.sv.getD 3 0
  let lanes := bits e 32 16 + 1
  let n := perBeat (fmtWidth f)
  let base := (x.fired % ((lanes + n - 1) / n)) * 64
  let h := (List.range 64).map fun k => x.h.get CW.zero (base + k)
  let run (l : List (List CW)) : VOut :=
    let r := scanStep f lanes base (l.getD 0 []) (l.getD 1 []) h
    { outs := [r.1, r.2.1], used := r.2.2.1, fl := r.2.2.2 }
  ({ srcs := [vsrc f false i.a (x.sv.getD 0 0), vsrc f false i.b (x.sv.getD 1 0)], sinks := sinksOf i.dst 1, run := run }, base)

/-- A firing of VSCAN. The state is obtained at the first one, whether or not its gate lets it produce (R50). After a firing with
a tagged or failed input every word of the state that it covers is lost, padding included: DESIGN CHOICE (log 59), the spec
says what becomes of the tokens only. -/
def scanBody (c : Nat) (x0 : Actor) (i : V) (ins : List (Nat × Nat)) (s : State) (toks : List (List Tok)) : Firing :=
  let p := s.plot c
  let x := p.beginScan x0
  let e := x.sv.getD 3 0
  let v := scanPlan x i
  let gate := gateOf (if i.ge = 1 then takenFrom ins toks (32 + i.gate.toNat) else [])
  let stale := staleVas p v.1
  let staleState := !x0.started && x.aux != 1 && p.anyStale (bits e 0 21) (carryBytes e)
  if (s.seqOf c).gstrict && staleState then
    { s := s.raiseAt c { cause := .genstale, unit := 5, t0 := w64 (bits e 0 21) }, x := x }
  else if !gate.1 then { s := s, x := x }
  else if (s.seqOf c).gstrict && !stale.isEmpty then
    { s := s.raiseAt c { cause := .genstale, unit := 5, t0 := w64 (stale.headD 0) }, x := x }
  else
    let l := v.1.srcs.map (srcWords p ins toks)
    let r := runPlan v.1 l
    let err := l.any (·.2) || gate.2 || anyMis r.used
    let s := s.reportWords c 5 r.used
    let s := if r.fl = 0 then s else s.recordFlags c 5 r.fl
    let nw := carryBytes e / 4
    let h := (List.range 64).foldl (fun (m : NMap CW) k =>
      let w := (r.outs.getD 1 []).getD k CW.zero
      if v.2 + k < nw then m.set (v.2 + k) (if err then CW.poison w.v else w) else m) x.h
    { s := s, x := { x with h := h }, outs := [beatsOf (r.outs.getD 0 []) err] }

def State.fireScan (s : State) (c : Nat) (x : Actor) (i : V) : Option State :=
  let p := s.plot c
  let v := (scanPlan x i).1
  let ports := v.srcs.filterMap fun y => match y with | .port k => some (k, 1) | _ => none
  let ins := joinPorts (ports ++ gatePort i)
  match p.next x ins v.sinks 1 with
  | none => none
  | some t =>
    let toks := p.peek ins
    let again := (match t with | .fire _ => true | _ => false) && p.awaitsReplay toks.flatten &&
      anyMis (runPlan v (v.srcs.map (srcWords p ins toks))).used
    if again then none else some (s.takeTurn c x ins v.sinks t (scanBody c x i ins))

/-! ### VTOS (R223, R349) -/

/-- Signed formats of an element that is moved into a register. -/
def signsOut (f : Nat) : Bool := f = 0xA || f = 0xB || f = 0xC || f = 0xE

/-- The firing of VTOS stays with the actor until the sequencer takes it. -/
def State.fireTos (s : State) (c : Nat) (x : Actor) (i : V) : Option State :=
  let p := s.plot c
  let f := i.ty.toNat
  let w := fmtWidth f
  let k := indexOf i.b (x.sv.getD 1 0) (perBeat w)
  let done (s : State) (aux : Nat) (v : Word) : State :=
    s.modPlot c fun p => p.setActor { x with fired := 1, aux := aux, sv := [v] }
  let give (s : State) (ws : List CW) (err : Bool) : State :=
    let word := ws.getD (k * w / 32) CW.zero
    let e := ((unpack w [word]).getD (k % (32 / w)) (0, false)).1
    if err || word.c = 15 then done s 1 0
    else if anyMis [word] then done (s.report c 0x06 1 (Cause.lccmis).code 0 0 (s.seqOf c).ctx.launch) 2 0
    else done s 0 (if signsOut f then (BitVec.ofInt 64 (intOf f e)) else w64 e)
  if x.fired != 0 then none
  else match kindOf i.a with
  | 1 =>
    let n := bits i.a 0 5
    if (s.seqOf c).gstrict && p.vaStale n then
      some (done (s.raiseAt c { cause := .genstale, unit := 5, t0 := w64 n }) 3 0)
    else some (give s (p.vaWords n) (!p.vaStale n && (p.vaOf n).err))
  | _ =>
    match p.head? (inPort i.a) with
    | some t =>
      match t.k with
      | .fin => some (done ((s.modPlot c fun p => p.pop (inPort i.a)).setLenmis c) 3 0)
      | .data b =>
        if p.awaitsReplay [t] && anyMis [b.word (k * w / 32)] then none
        else some (give (s.modPlot c fun p => p.pop (inPort i.a)) b.ws b.err)
      | _ => none
    | none => none

/-! ### Token instructions (R224 to R226) -/

/-- The tokens that one firing of PAND, POR, PNOT, PGEN or PDROP makes. -/
def bitOut (x : Actor) (l : List Tok) : List (List TokKind) :=
  let a := tokBit (l.headD { k := .fin })
  let b := tokBit ((l.drop 1).headD (l.headD { k := .fin }))
  let tag := l.any tokErr
  match x.instr with
  | .pand _ => [[.bit (a && b) tag]]
  | .por _ => [[.bit (a || b) tag]]
  | .pnot _ => [[.bit (!a) tag]]
  | .pgen _ => [[.bit ((x.sv.getD 0 0).getLsbD (x.fired % 64)) false]]
  | _ => []

def State.fireBits (s : State) (c : Nat) (x : Actor) (ins outs : List (Nat × Nat)) : Option State :=
  match (s.plot c).next x ins outs 1 with
  | none => none
  | some t => some (s.takeTurn c x ins outs t fun s toks => { s := s, x := x, outs := bitOut x toks.flatten })

/-- PFROM's test of the elements (R226). -/
def pfromTest (mode : Nat) (l : List El) : Bool :=
  match mode with
  | 0 => (l.headD (0, false)).1 != 0
  | 1 => l.any fun e => e.1 != 0
  | _ => l.all fun e => e.1 != 0

def fromBody (c : Nat) (x : Actor) (i : V) (ins : List (Nat × Nat)) (s : State) (toks : List (List Tok)) : Firing :=
  let p := s.plot c
  let f := i.ty.toNat
  let src := vsrc f false i.a 0
  let stale := match src with | .va n => p.vaStale n | _ => false
  if (s.seqOf c).gstrict && stale then { s := s.raiseAt c { cause := .genstale, unit := 5, t0 := w64 (bits i.a 0 5) }, x := x }
  else
    let l := srcWords p ins toks src
    let v := pfromTest (bits i.mod 1 2) (unpack (fmtWidth f) l.1)
    let bad := l.2 || l.1.any fun w => (CW.check w).isSome
    let s := if l.2 then s else s.reportWords c 5 l.1
    { s := s, x := x, outs := [[.bit v bad]] }

def State.fireFrom (s : State) (c : Nat) (x : Actor) (i : V) : Option State :=
  let p := s.plot c
  let ins : List (Nat × Nat) := if kindOf i.a = 0 then [(inPort i.a, 1)] else []
  let outs := [(outPort i.dst, 1)]
  match p.next x ins outs 1 with
  | none => none
  | some t =>
    let toks := (p.peek ins).flatten
    if (match t with | .fire _ => true | _ => false) && p.awaitsReplay toks && anyMis (toks.flatMap tokWords) then none
    else some (s.takeTurn c x ins outs t (fromBody c x i ins))

/-- A beat that moves unchanged; a tagged predicate tags it (R349). -/
def movedBeat (t : Tok) (tag : Bool) : List TokKind :=
  match t.k with
  | .data b => [.data { b with err := b.err || tag, rid := 0 }]
  | _ => []

/-- VSTEER (R225): room is needed on the sink that the token selects. -/
def State.fireSteer (s : State) (c : Nat) (x : Actor) (i : V) : Option State :=
  let p := s.plot c
  let ins := joinPorts [(inPort i.a, 1), (inPort i.b, 1)]
  let sel := match p.head? (inPort i.b) with | some t => tokBit t | none => false
  let outs := [(outPort i.dst, if sel then 1 else 0), (outPort i.c, if sel then 0 else 1)]
  match p.next x ins outs 1 with
  | none => none
  | some t => some (s.takeTurn c x ins outs t fun s toks =>
      let b := (takenFrom ins toks (inPort i.a)).headD { k := .fin }
      let q := (takenFrom ins toks (inPort i.b)).headD { k := .fin }
      let m := movedBeat b (tokErr q)
      { s := s, x := x, outs := if sel then [m, []] else [[], m] })

/-- VMERGE (R225): the input that the token does not select is left alone. Under count s0 a predicate that selects an end token is
dropped alone (R15), and a later one that selects the other input still produces: DESIGN CHOICE, R225 retires on p's end
token only (log 60). -/
def State.fireMerge (s : State) (c : Nat) (x : Actor) (i : V) : Option State :=
  let p := s.plot c
  match p.head? (inPort i.a) with
  | none => none
  | some h =>
    let sel := inPort (if tokBit h then i.b else i.c)
    let ins := if isFin h then (if x.left.isSome then [(inPort i.a, 1)] else joinPorts [(inPort i.a, 1), (inPort i.b, 1), (inPort i.c, 1)])
      else joinPorts [(inPort i.a, 1), (sel, 1)]
    let outs := [(outPort i.dst, 1)]
    match p.next x ins outs 1 with
    | none => none
    | some t => some (s.takeTurn c x ins outs t fun s toks =>
        let b := (takenFrom ins toks sel).headD { k := .fin }
        { s := s, x := x, outs := [movedBeat b (tokErr h)] })

/-- The next turn of an actor of the vector unit; none when it is not ready. -/
def State.fireVec (s : State) (c : Nat) (x : Actor) : Option State :=
  let p := s.plot c
  if x.parked || !p.turn x then none
  else match vecOf x.instr with
  | none => none
  | some i =>
    match x.instr with
    | .vscan _ => s.fireScan c x i
    | .vtos _ => s.fireTos c x i
    | .vsteer _ => s.fireSteer c x i
    | .vmerge _ => s.fireMerge c x i
    | .pfrom _ => s.fireFrom c x i
    | .pand _ => s.fireBits c x (joinPorts [(inPort i.a, 1), (inPort i.b, 1)]) [(outPort i.dst, 1)]
    | .por _ => s.fireBits c x (joinPorts [(inPort i.a, 1), (inPort i.b, 1)]) [(outPort i.dst, 1)]
    | .pnot _ => s.fireBits c x [(inPort i.a, 1)] [(outPort i.dst, 1)]
    | .pgen _ => s.fireBits c x [] [(outPort i.dst, 1)]
    | .pdrop _ => s.fireBits c x [(inPort i.a, 1)] []
    | .vcvt _ | .vqmx _ | .vdqmx _ | .vpack _ | .vunpack _ | .vshuf _ | .vbcast _ => s.firePlan c x i (convertPlan x i)
    | .vredadd _ | .vredmax _ | .vredmin _ | .vacc _ | .varst _ | .vaout _ => s.firePlan c x i (convertPlan x i)
    | _ => s.firePlan c x i (elementPlan x i)

/-- ACTOR_FIRING (R13, R17, R185): the first ready actor of plot a's vector unit fires, round-robin in issue order after the
one that fired last. -/
def execActorFiring (s : State) : Out :=
  let c := s.evt.a
  let p := s.plot c
  if s.frozen c || !(p.rate 0 0).allows (s.cycleOf c) then .next s
  else
    let vs := p.actors.filter fun x => (vecOf x.instr).isSome
    let order := (vs.filter fun x => p.vlast < x.id) ++ (vs.filter fun x => x.id ≤ p.vlast)
    match order.findSome? fun x => (s.fireVec c x).map fun t => (x.id, t) with
    | some (id, t) =>
      let now := s.cycleOf c
      .next (t.modPlot c fun p => { (p.noteRate 0 0 now) with vlast := id, lastAct := s.tempo })
    | none => .next s

end Sys2Proof.Machine
end

