-- ==== Sys2Proof/Machine/Accum.lean ====
section
/-! DEFINITION. Accumulator renaming at issue (R46 to R48, R228), the matrix unit's order (R227), and the elements of an
accumulator under the masks (R243). -/

namespace Sys2Proof.Machine

/-! ### Names -/

def Plot.acc (p : Plot) (q : Nat) : Acc := p.accs.get {} q

/-- The state of an accumulator's name: stale is unwritten (R40). -/
def Plot.accSt (p : Plot) (q : Nat) : AccState := if (p.acc q).tag = p.gen then (p.acc q).st else .unwritten

def Plot.modAcc (p : Plot) (q : Nat) (f : Acc → Acc) : Plot := { p with accs := p.accs.set q (f (p.acc q)) }

def Plot.inSlot (p : Plot) (q : Nat) : Bool := p.accSt q = .live && (p.acc q).place = .slot

/-- Slots held: by live accumulators, and by released ones whose freeing marker has not taken effect. -/
def Plot.slotsHeld (p : Plot) : Nat := ((List.range 32).filter p.inSlot).length + (p.dying.filter (·.2 = 0)).length

/-- A free 64 KiB of the declared spill region (R47). -/
def Plot.spillPlace (p : Plot) : Option Nat :=
  let places := (p.regions.filter (·.kind = 3)).flatMap fun r => (List.range (r.size / 65536)).map fun k => r.base + 65536 * k
  places.find? fun a => !p.spillUsed.contains a && !p.dying.any (·.2 = a + 1)

/-- The live accumulator in a slot that was named least recently. -/
def Plot.oldest (p : Plot) (but : Nat) : Option Nat :=
  ((List.range 32).filter fun q => q != but && p.inSlot q).foldl (fun m q =>
    match m with
    | some k => if (p.acc q).used < (p.acc k).used then some q else some k
    | none => some q) none

/-- A live accumulator moves to a place of the spill region, ahead of the operation with number `id`. -/
def Plot.spillTo (p : Plot) (q id place : Nat) : Plot :=
  { (p.modAcc q fun a => { a with place := .spill place }) with spillUsed := p.spillUsed ++ [place], spills := p.spills ++ [(id, q)] }

/-- The place of the spill region that an accumulator stands in is free again. -/
def Plot.unspill (p : Plot) (q : Nat) : Plot :=
  match (p.acc q).place with
  | .spill a => { p with spillUsed := p.spillUsed.filter (· != a) }
  | _ => p

/-- Why an accumulator has no slot now: the spill region is full, or every slot waits for its marker. -/
inductive NoSlot where
  | full | wait
  deriving DecidableEq, Repr

/-- Accumulator q is given a slot for the operation with number `id`, if it has none (R47). -/
def Plot.needSlot (p : Plot) (q id : Nat) : Except NoSlot Plot :=
  if p.inSlot q then .ok p
  else if p.slotsHeld < 8 then .ok ((if p.accSt q = .live then p.unspill q else p).modAcc q fun a => { a with place := .slot })
  else match p.oldest q with
  | none => .error .wait
  | some v =>
    match p.spillPlace with
    | none => .error .full
    | some place =>
      let p := p.spillTo v id place
      .ok ((if p.accSt q = .live then p.unspill q else p).modAcc q fun a => { a with place := .slot })

/-- The slot that an instruction needs, as a meaning asks for it: ASPILLF, or a stall. -/
def State.needSlot (s : State) (word : Word) (q id : Nat) : Res Plot :=
  match (s.plot s.cur).needSlot q id with
  | .ok p => .ok p
  | .error .full => trap .aspillf word
  | .error .wait => stall s

/-- Accumulator q is live from now on, of the type given, named by instruction `id`. -/
def Plot.makeLive (p : Plot) (q id : Nat) (isInt : Bool) : Plot :=
  p.modAcc q fun a => { a with st := .live, tag := p.gen, isInt := isInt, used := id }

def Plot.nameAcc (p : Plot) (q id : Nat) : Plot := p.modAcc q fun a => { a with used := id }

/-- Accumulator q is released at issue by instruction `id`; what it held is freed when what has the number `key` is done (R46,
R238). -/
def Plot.release (p : Plot) (q id key : Nat) : Plot :=
  let held : List (Nat × Nat) := if p.accSt q != .live then [] else match (p.acc q).place with
    | .slot => [(key, 0)]
    | .spill a => [(key, a + 1)]
    | .nowhere => []
  let p := { p with dying := p.dying ++ held, spillUsed := p.spillUsed.filter fun a => !held.any (·.2 = a + 1) }
  p.modAcc q fun a => { a with st := .released, tag := p.gen, place := .nowhere, used := id }

/-- What was released under a number is free. -/
def Plot.freeDying (p : Plot) (key : Nat) : Plot := { p with dying := p.dying.filter (·.1 != key) }

/-- Q is within the declared count (R46). -/
def State.accOk (s : State) (word : Word) (q : Nat) : Res Unit := need (q < s.seq.ctx.accs) .badopnd word

/-- The checks on an accumulator that is read: AFREE, then GENSTALE for an unwritten one in strict mode. -/
def State.accRead (s : State) (word : Word) (q : Nat) : Res Unit := do
  need ((s.plot s.cur).accSt q != .released) .afree word
  need (!(s.seq.gstrict && (s.plot s.cur).accSt q = .unwritten)) .genstale word

/-! ### Elements -/

/-- The value at each of the keys 0 to n − 1 of a map whose keys rise. -/
def denseFrom {α : Type} (d : α) : Nat → Nat → NMap α → List α
  | 0, _, _ => []
  | n + 1, i, [] => d :: denseFrom d n (i + 1) []
  | n + 1, i, (k, v) :: m => if k = i then v :: denseFrom d n (i + 1) m else d :: denseFrom d n (i + 1) ((k, v) :: m)

def Acc.dense (a : Acc) : List AEl := denseFrom {} 16384 0 a.els

/-- Elements that are not zero and unmarked, by index m × 128 + n. -/
def sparseEls (l : List AEl) : NMap AEl :=
  ((List.range l.length).zip l).filter fun kv => kv.2.bad || kv.2.v != 0

/-- A masked element (R243). -/
def Plot.masked (p : Plot) (k : Nat) : Bool := !p.rowmask.getLsbD (k / 128) || !p.colmask.getLsbD (k % 128)

/-- The accumulator zeroed: masked elements stay unless it had no contents. -/
def Plot.zeroAcc (p : Plot) (q : Nat) (all : Bool) : Plot :=
  p.modAcc q fun a => { a with els := if all then [] else a.els.filter fun kv => p.masked kv.1 }

/-- The elements as ADRAIN, TST and TADD read them: a masked one is zero. -/
def Plot.readAcc (p : Plot) (q : Nat) (unwritten : Bool) : List AEl :=
  if unwritten then List.replicate 16384 {}
  else ((List.range 16384).zip (p.acc q).dense).map fun kv => if p.masked kv.1 then {} else kv.2

/-! ### The order of the matrix unit (R227) -/

/-- The unit's queue: its operations and markers in issue order. -/
def Plot.matrixQueue (p : Plot) : List Actor := p.actors.filter fun x => isMatrixOp x.instr || isMatrixMarker x.instr

def Plot.matrixOps (p : Plot) : Nat := (p.actors.filter fun x => isMatrixOp x.instr).length
def Plot.markers (p : Plot) : Nat := (p.actors.filter fun x => isMatrixMarker x.instr).length

/-- The accumulators that a matrix operation or marker names. -/
def namedAccs : Instr → List Nat
  | .mma x | .mmaz x => [x.a.toNat]
  | .adrain x => (List.range (bits x.e 0 5 + 1)).map (x.a.toNat + ·)
  | .azero x | .arel x | .aspill x => [x.a.toNat]
  | .cpymm x => [x.b.toNat]
  | _ => []

/-- The accumulator that a tile operation reads or loads. -/
def opAcc : Instr → Option Nat
  | .tlda x => some x.b.toNat
  | .tst x => if x.d.getLsbD 1 then some x.b.toNat else none
  | .tadd x => if x.d.getLsbD 1 then some x.b.toNat else none
  | _ => none

/-- A tile operation issued earlier has still to read or to load an accumulator that the actor names (R189, R190). -/
def Plot.accBusy (p : Plot) (x : Actor) : Bool :=
  p.ops.any fun o => o.id < x.id && (match opAcc o.instr with | some q => (namedAccs x.instr).contains q | none => false)

/-- Matrix operations and markers issued before number `id` that name accumulator q have not retired. -/
def Plot.accAhead (p : Plot) (id q : Nat) : Bool := p.matrixQueue.any fun x => x.id < id && (namedAccs x.instr).contains q

/-- Spills to be performed ahead of the actor or operation with number `id`. -/
def Plot.spillsAhead (p : Plot) (id : Nat) : Bool := p.spills.any (·.1 ≤ id)

/-- ACCUMULATOR_SPILL (R47): the oldest spill is performed, in the unit's order. -/
def execAccumulatorSpill (s : State) : Out :=
  let c := s.evt.a
  let p := s.plot c
  match p.spills with
  | [] => .next s
  | sp :: rest =>
    if p.matrixQueue.any (fun x => x.id < sp.1) then .next s
    else .next ((s.setPlot c { p with spills := rest, lastAct := s.tempo }).modSeqOf c fun q => { q with spilled := true })

end Sys2Proof.Machine
end

