-- ==== Sys2Proof/Machine/Matrix.lean ====
section
/-! DEFINITION. Class 0xD but the weight fills and the codebook: MMA, MMAZ, AZERO, AREL, ASPILL, ADRAIN, AMIRROR, WREL, and
the steps of the matrix unit (R68 to R71, R227 to R244). -/

namespace Sys2Proof.Machine

/-! ### Formats and pairings (R229, R235) -/

/-- k values that a beat carries per row, and those of one accumulation step. -/
def kpc (f : Nat) : Nat := if f = 1 ∨ f = 2 then 1 else if f = 5 ∨ f = 8 ∨ f = 0xE then 4 else 2
def stepK (f : Nat) : Nat := if f = 1 ∨ f = 2 then 1 else 32

/-- The narrow formats of R69. -/
def narrow (f : Nat) : Bool := 3 ≤ f && f ≤ 9

/-- The depth of a slot for a weight format. -/
def slotDepth (f : Nat) : Nat := if f = 9 then 1024 else 2048 / fmtWidth f

def paired (a b : Nat) : Bool :=
  (a = 1 && b = 1) || (a = 2 && b = 2) || ((a = 3 || a = 4) && (b = 3 || b = 4)) || ((a = 6 || a = 7) && (b = 6 || b = 7)) ||
  ((a = 3 || a = 6) && b = 9) || (a = 5 && b = 5) || (a = 8 && b = 8) || ((a = 0xC || a = 0xD) && b = 0xC) || (a = 0xE && b = 0xE)

def isIntFmt (f : Nat) : Bool := 0xA ≤ f

/-! ### Issue of a matrix operation (R236) -/

/-- A weight slot as the sequencer sees it: stale is EMPTY (0); 1 FILLING, 2 FULL. -/
def Plot.slot (p : Plot) (j : Nat) : WSlot := let w := p.wslots.get {} j; if w.tag = p.gen then w else {}

/-- The fields of an MMA, MMAZ or CPYMM. -/
structure MmaF where
  q : Nat
  fmt : Nat
  j : Nat
  zero : Bool
  half : Bool := false
  port : Nat := 0
  sc : Nat := 0
  fromOp : Bool := false
  deriving Repr

def mmaOf : Instr → Option MmaF
  | .mma x => some { q := x.a.toNat, fmt := bits x.e 0 5, j := bits x.d 0 2, zero := false, half := x.e.getLsbD 5, port := x.b.toNat, sc := bits x.d 2 4 }
  | .mmaz x => some { q := x.a.toNat, fmt := bits x.e 0 5, j := bits x.d 0 2, zero := true, half := x.e.getLsbD 5, port := x.b.toNat, sc := bits x.d 2 4 }
  | .cpymm x => some { q := x.b.toNat, fmt := bits x.e 0 5, j := bits x.d 0 2, zero := x.d.getLsbD 2, fromOp := true }
  | _ => none

/-- Orders 4 to 8 of R236 for K = k. -/
def State.mmaChecks (s : State) (word : Word) (m : MmaF) (k : Nat) : Res Unit := do
  let p := s.plot s.cur
  if !m.zero then s.accRead word m.q
  let w := p.slot m.j
  need (w.st = 2) .wempty word
  need (paired m.fmt w.fmt) .mmafmt word
  need (m.zero || p.accSt m.q != .live || (p.acc m.q).isInt = isIntFmt m.fmt) .mmafmt word
  need (k % stepK m.fmt = 0) .mmafmt word
  need (k ≤ w.kw) .mmafmt word
  need (w.fmt != 9 || p.cbTag = some p.gen) .cbempty word
  need (match w.wfmt with | some f => f = w.fmt | none => true) .fmtwin w.src

/-- The matrix operation's actor, its accumulator live from now on. Its `aux` holds the slot's format and, times 32, what is
cleared at its start: 1 for MMAZ, 2 where the accumulator had no contents. -/
def Plot.addMma (p : Plot) (i : Instr) (pc : Word) (m : MmaF) (k : Nat) (ready : Plot) : Plot :=
  let z := if p.accSt m.q != .live then 2 else if m.zero then 1 else 0
  let x : Actor := { id := 0, instr := i, pc := pc, sv := [w64 k], left := some (k / kpc m.fmt), aux := (p.slot m.j).fmt + 32 * z }
  (ready.makeLive m.q p.nextId (isIntFmt m.fmt)).issue x

/-- MMA and MMAZ. -/
def State.issueMma (s : State) (i : Instr) (x : D) (m : MmaF) : Out :=
  let word := encode i
  let k := s.reg (r5 x.c)
  settle s (do
    s.datapath word
    need (aFormat m.fmt) .fmtbad word
    s.accOk word m.q
    need (!(mxCode m.fmt && m.sc = m.port)) .badopnd word
    s.sources word [r5 x.c]
    s.mmaChecks word m k.toNat
    let p := s.plot s.cur
    let q ← s.needSlot word m.q p.nextId
    if 4 ≤ p.matrixOps then stall s
    pure (s.setPlot s.cur (p.addMma i s.seq.pc m k.toNat q)).retire)

/-- MMA. -/
def execMma (x : D) (s : State) : Out := s.issueMma (.mma x) x ((mmaOf (.mma x)).getD { q := 0, fmt := 0, j := 0, zero := false })

/-- MMAZ. -/
def execMmaz (x : D) (s : State) : Out := s.issueMma (.mmaz x) x ((mmaOf (.mmaz x)).getD { q := 0, fmt := 0, j := 0, zero := true })

/-! ### Markers (R227, R233, R238, R242) -/

/-- The matrix unit holds 16 markers. -/
def State.markerRoom (s : State) : Res Unit := if 16 ≤ (s.plot s.cur).markers then stall s else .ok ()

/-- AZERO. -/
def execAzero (x : D) (s : State) : Out :=
  let word := encode (.azero x)
  let t := bits x.e 0 5
  let q := x.a.toNat
  settle s (do
    s.datapath word
    need (t = 0 || t = 0xA) .fmtbad word
    s.accOk word q
    let p := s.plot s.cur
    let r ← s.needSlot word q p.nextId
    s.markerRoom
    let z := if p.accSt q = .live then 0 else 1
    pure (s.setPlot s.cur ((r.makeLive q p.nextId (t = 0xA)).issue { id := 0, instr := .azero x, pc := s.seq.pc, aux := z })).retire)

/-- AREL. -/
def execArel (x : D) (s : State) : Out :=
  let word := encode (.arel x)
  settle s (do
    s.datapath word
    s.accOk word x.a.toNat
    s.markerRoom
    pure (s.modPlot s.cur fun p => (p.release x.a.toNat p.nextId p.nextId).issue { id := 0, instr := .arel x, pc := s.seq.pc }).retire)

/-- ASPILL: what stands in no slot has nothing to move. -/
def execAspill (x : D) (s : State) : Out :=
  let word := encode (.aspill x)
  let q := x.a.toNat
  settle s (do
    s.datapath word
    s.accOk word q
    let p := s.plot s.cur
    need (p.accSt q != .released) .afree word
    if !p.inSlot q then pure (s.modPlot s.cur fun p => p.nameAcc q p.nextId).retire
    else match p.spillPlace with
      | none => trap .aspillf word
      | some place =>
        s.markerRoom
        let p := (p.spillTo q p.nextId place).nameAcc q p.nextId
        pure (s.setPlot s.cur (p.issue { id := 0, instr := .aspill x, pc := s.seq.pc })).retire)

/-- WREL: the slot is EMPTY at issue. -/
def execWrel (x : D) (s : State) : Out :=
  let word := encode (.wrel x)
  let j := x.a.toNat
  settle s (do
    s.datapath word
    let p := s.plot s.cur
    if (p.slot j).st = 0 then pure s.retire
    else
      s.markerRoom
      let p := { p with wslots := p.wslots.set j { p.slot j with st := 0 } }
      pure (s.setPlot s.cur (p.issue { id := 0, instr := .wrel x, pc := s.seq.pc })).retire)

/-- AMIRROR. -/
def execAmirror (x : D) (s : State) : Out :=
  settle s (do
    s.datapath (encode (.amirror x))
    s.markerRoom
    pure (s.modPlot s.cur fun p => p.issue { id := 0, instr := .amirror x, pc := s.seq.pc }).retire)

/-! ### ADRAIN (R239 to R241) -/

/-- Element formats that a drain of an accumulator of the type may have. -/
def drainOk (isInt : Bool) (f : Nat) : Bool :=
  if isInt then f = 0 || f = 0xA || f = 0xB || f = 0xC else f ≤ 8

/-- Element beats of one tile. -/
def drainBeats (f : Nat) : Nat := 16384 / perBeat (fmtWidth f)

def drainN (x : D) : Nat := bits x.e 0 5 + 1
def drainFmt (x : D) : Nat := bits x.c 0 5

/-- ADRAIN: what is known of each tile at issue is kept with the actor: bit 0 unwritten, bit 1 I32. Its number is followed by
one for each tile boundary, at which a route-table entry may act (R241). -/
def execAdrain (x : D) (s : State) : Out :=
  let word := encode (.adrain x)
  let q := x.a.toNat
  let n := drainN x
  let f := drainFmt x
  let tiles := (List.range n).map (q + ·)
  let last := x.c.getLsbD 5
  settle s (do
    s.datapath word
    let p := s.plot s.cur
    need (q + n ≤ s.seq.ctx.accs && !(mxCode f && bits x.d 0 4 = x.b.toNat)) .badopnd word
    need ((mxCode f || x.d = 0) && (x.c.getLsbD 7 || (x.e &&& 0xFFE0#20) = 0) && (!x.c.getLsbD 6 || f = 4 || (0xA ≤ f && f ≤ 0xE))) .rsvfld word
    need (tiles.all fun k => if p.accSt k = .live then drainOk (p.acc k).isInt f else drainOk false f || drainOk true f) .fmtbad word
    need (tiles.all fun k => p.accSt k != .released) .afree word
    need (!(s.seq.gstrict && tiles.any fun k => p.accSt k = .unwritten)) .genstale word
    if 4 ≤ p.matrixOps then stall s
    let id := p.nextId
    let know (k : Nat) : BitVec 32 :=
      BitVec.ofNat 32 ((if p.accSt k = .unwritten then 1 else 0) + (if (p.acc k).isInt && p.accSt k = .live then 2 else 0))
    let a : Actor := { id := 0, instr := .adrain x, pc := s.seq.pc, left := some (n * drainBeats f), ws := tiles.map know }
    let p1 := tiles.foldl (fun p k => p.nameAcc k id) p
    let p1 := if last then tiles.foldl (fun p k => p.release k id (id + (k - q))) p1 else p1
    let p1 := p1.issue a
    pure (s.setPlot s.cur { p1 with nextId := id + n + 1 }).retire)

/-! ### Arithmetic of a step (R68 to R71) -/

/-- The value of a group (R69, R70), scales not yet applied, with the flags of rules 2 and 3. -/
def groupSum (l : List (FVal × FVal)) : FVal × FlagSet :=
  if l.any (fun x => x.1.isNan || x.2.isNan) then (.nan false false, 0)
  else
    let ps := l.map fun x => x.1.times x.2
    if ps.any Option.isNone then (.nan false false, fNV)
    else
      let vs := ps.map fun v => v.getD (.fin false 0 0)
      let pinf := vs.any fun v => match v with | .inf n => !n | _ => false
      let ninf := vs.any fun v => match v with | .inf n => n | _ => false
      if pinf && ninf then (.nan false false, fNV)
      else if pinf then (.inf false, 0)
      else if ninf then (.inf true, 0)
      else
        let q := vs.foldl (fun m v => match v with | .fin _ k e => if k = 0 then m else min m e | _ => m) (0 : Int)
        let sum := vs.foldl (fun a v => match v with | .fin n k e => a + (if k = 0 then 0 else units n k e q) | _ => a) (0 : Int)
        (.fin (sum < 0) sum.natAbs q, 0)

/-- V of R69. -/
def scaled (v : FVal) (sa sb : Nat) : FVal :=
  match v with
  | .fin n m e => if m = 0 then .fin false 0 0 else .fin n m (e + sa + sb - 254)
  | v => v

/-- The elements of row m for a step: its values, its scale byte, and what was wrong with the words that fed it. -/
structure Lane where
  vals : List Nat
  scale : Nat := 127
  bad : Bool := false
  deriving Repr

/-- CB2 (R57): eight values of a codeword, as E4M3 would hold them. -/
def codeword (row : BitVec 24) (signs : Nat) : List FVal :=
  (List.range 8).map fun i =>
    let m := bits row (3 * i) 3
    if m = 0 then .fin false 0 0 else .fin (signs.testBit i) m (-1)

/-- What one element becomes. -/
def accumulate (fa fb : Nat) (rows : NMap (BitVec 24)) (old : BitVec 32) (a b : Lane) : BitVec 32 × FlagSet :=
  if isIntFmt fa then
    let sum := (a.vals.zip b.vals).foldl (fun t x => t + intOf fa x.1 * intOf fb x.2) (0 : Int)
    (old + BitVec.ofInt 32 sum, 0)
  else if fa = 1 || fa = 2 then
    let r := f32.fma 0 ((fmtOf fa).decode (a.vals.headD 0)) ((fmtOf fb).decode (b.vals.headD 0)) (f32.decode old.toNat)
    (BitVec.ofNat 32 r.1, r.2)
  else
    let av := a.vals.map (fmtOf fa).decode
    let bv := if fb = 9 then b.vals.flatMap fun c => codeword (rows.get 0 (c / 256)) (c % 256) else b.vals.map (fmtOf fb).decode
    let mx := mxCode fa || fb = 9
    let g : FVal × FlagSet := if mx && (a.scale = 255 || b.scale = 255) then (.nan false false, 0) else groupSum (av.zip bv)
    let v := if mx then scaled g.1 a.scale b.scale else g.1
    let r := f32.add 0 (f32.decode old.toNat) v
    (BitVec.ofNat 32 r.1, r.2 ||| g.2)

/-- The weights of column n for the step that begins at k (R231, R234). -/
def WSlot.column (w : WSlot) (f k n : Nat) : Lane × List CW :=
  let width := if f = 9 then 16 else fmtWidth f
  let count := if f = 9 then 4 else stepK f
  let first := if f = 9 then k / 8 else k
  let at_ (i : Nat) : CW := w.ws.get CW.zero (n * 64 + (first + i) * width / 32)
  let ws := (List.range count).map at_
  let vals := (List.range count).map fun i => (at_ i).v.toNat / 2 ^ ((first + i) * width % 32) % 2 ^ width
  let g := k / 32 * 128 + n
  let scaleBad := if mxCode f || f = 9 then w.scaleBad.get 0 g else 0
  ({ vals := vals, scale := (w.scales.get 127 g).toNat, bad := (ws.any fun c => (CW.check c).isSome) || scaleBad != 0 },
    ws ++ (if scaleBad = 1 then [CW.poison 0] else if scaleBad = 2 then [⟨0, 1⟩] else []))

/-- Row m of the step's A beats, each of which gives it 16 bits, and of its scale beat (R229). -/
def rowLane (f m : Nat) (beats : List Beat) (scale : Option Beat) : Lane :=
  let w := fmtWidth f
  let one (b : Beat) : List Nat :=
    let h := (b.word (m / 2)).v.toNat / 2 ^ (16 * (m % 2)) % 65536
    (List.range (kpc f)).map fun i => h / 2 ^ (w * i) % 2 ^ w
  let bad (b : Beat) : Bool := b.err || (CW.check (b.word (m / 2))).isSome
  let sc := match scale with | some b => (b.word (m / 4)).v.toNat / 2 ^ (8 * (m % 4)) % 256 | none => 127
  let sbad := match scale with | some b => b.err || (CW.check (b.word (m / 4))).isSome | none => false
  { vals := beats.flatMap one, scale := sc, bad := beats.any bad || sbad }

/-- One aligned step (R237, R242, R243, R244): the accumulator's elements after it, and its flags. -/
def Plot.mmaStep (p : Plot) (m : MmaF) (fb k : Nat) (beats : List Beat) (scale : Option Beat) : Plot × FlagSet :=
  let rows := (List.range (if m.half then 64 else 128)).map fun r => rowLane m.fmt r beats scale
  let cols := (List.range 128).map fun n => ((p.wslots.get {} m.j).column fb k n).1
  let old := (p.acc m.q).dense
  let new := ((List.range 16384).zip old).map fun ke =>
    let r := ke.1 / 128
    if p.masked ke.1 || (m.half && 64 ≤ r) then (ke.2, (0 : FlagSet))
    else
      let a := rows.getD r { vals := [] }
      let b := cols.getD (ke.1 % 128) { vals := [] }
      let x := accumulate m.fmt fb p.cbRows ke.2.v a b
      let bad := ke.2.bad || a.bad || b.bad
      (({ v := x.1, bad := bad } : AEl), if bad then 0 else x.2)
  (p.modAcc m.q fun a => { a with els := sparseEls (new.map (·.1)) }, new.foldl (fun f x => f ||| x.2) 0)

/-- The words of A and scale beats that a step uses; a tagged beat counts as a failed one (R349). -/
def usedWords (half : Bool) (beats : List Beat) (scale : Option Beat) : List CW :=
  let n := if half then 32 else 64
  beats.flatMap (fun b => if b.err then [⟨0, 1⟩] else b.ws.take n) ++
    (match scale with | some b => if b.err then [⟨0, 1⟩] else b.ws.take (n / 2) | none => [])

/-! ### Steps -/

/-- The contents that an operation starts from. -/
def Plot.startMma (p : Plot) (x : Actor) (m : MmaF) : Plot × Actor :=
  if x.started then (p, x)
  else
    let z := x.aux / 32
    (if z = 0 then p else p.zeroAcc m.q (z = 2), { x with started := true })

/-- The operation is computed twice, in rows 64 + m of the array too (R242). -/
def Plot.mirrored (p : Plot) (m : MmaF) : Bool := p.mirror && (m.half || p.rowmask.extractLsb' 64 64 = 0)

/-- Every element of the active rows of a mirrored operation is poisoned (R242). -/
def Plot.poisonRows (p : Plot) (q : Nat) : Plot :=
  let els := ((List.range 16384).zip (p.acc q).dense).map fun ke =>
    if ke.1 < 64 * 128 && p.rowmask.getLsbD (ke.1 / 128) then { ke.2 with bad := true } else ke.2
  p.modAcc q fun a => { a with els := sparseEls els }

/-- What a step of a mirrored operation finds, and writes into the journal (R242, R346): `once` the results differ, `twice`
they differ when the step is recomputed too. -/
def State.mirrorStep (s : State) (c : Nat) (m : MmaF) (x : Actor) (once twice : Bool) : State × Actor :=
  if (once || twice) && (s.plot c).mirrored m then
    (s.report c 0x08 0 0 0 0 (s.seqOf c).ctx.launch, { x with faulty := x.faulty || twice })
  else (s, x)

/-- A mirrored operation whose results differed for good has completed (R242): poison, MIRRORFAIL, MMAMIS. -/
def State.mirrorFail (s : State) (c : Nat) (x : Actor) : State :=
  match mmaOf x.instr with
  | some m =>
    if x.faulty then
      ((s.modPlot c fun p => p.poisonRows m.q).report c 0x09 1 (Cause.mmamis).code 0 0 (s.seqOf c).ctx.launch).raiseAt c
        { cause := .mmamis, unit := 6, t0 := w64 m.q }
    else s
  | none => s

/-- A matrix operation retires: its flags are recorded (R59), and what a CPYMM holds is done (R193). -/
def State.retireMma (s : State) (c : Nat) (x : Actor) : State :=
  let s := s.mirrorFail c x
  let s := if x.flags = 0 then s else s.recordFlags c 6 x.flags
  s.modPlot c fun p =>
    let p := p.drop x.id
    match p.ops.find? fun o => o.mma == some x.id with
    | some o => ((p.land o.tag o.bytes).leaveBatch o.id).dropOp o.id
    | none => p

/-- The A beat and scale beat that the operation takes next, if they are there: from the ports, or from the copy engine. -/
inductive Supply where
  | none
  | ended (port : Nat)
  | beat (a : Beat) (sc : Option Beat) (again : Bool)
  deriving Repr

/-- An end token stands at the head of a port. -/
def Plot.endAt (p : Plot) (k : Nat) : Bool := match p.head? k with | some { k := .fin, .. } => true | _ => false

/-- What comes next, or the port whose end token ends the operation, whatever stands at the other one (R15). -/
def Plot.supply (p : Plot) (x : Actor) (m : MmaF) (first : Bool) : Supply :=
  let wantSc := mxCode m.fmt && first
  if m.fromOp then
    match p.ops.find? fun o => o.mma == some x.id with
    | some o =>
      let n := x.left.getD 0
      let sc := if wantSc then o.beats[n + x.fired / (32 / kpc m.fmt)]? else .none
      match o.beats[x.fired]? with
      | some a => .beat a sc false
      | none => .none
    | none => .none
  else if p.endAt m.port then .ended m.port
  else if mxCode m.fmt && !x.scalesTaken m.fmt && p.endAt m.sc then .ended m.sc
  else match p.head? m.port with
  | some t =>
    match t.k with
    | .data a =>
      let bad (ws : List CW) : Bool := anyMis ws
      let n := if m.half then 32 else 64
      let again := p.awaitsReplay [t] && bad (a.ws.take n)
      if !wantSc then .beat a .none again
      else match p.head? m.sc with
        | some u =>
          match u.k with
          | .data b => .beat a (some b) (again || p.awaitsReplay [u] && bad (b.ws.take (n / 2)))
          | _ => .none
        | none => .none
    | _ => .none
  | none => .none

/-- The operation may move: it is its turn in the unit and at its ports, and nothing ahead of it waits. -/
def State.matrixReady (s : State) (c : Nat) (x : Actor) : Bool :=
  let p := s.plot c
  !x.parked && !s.frozen c && !p.spillsAhead x.id && !p.accBusy x && p.turn x && (p.rate 1 0).allows (s.cycleOf c)

/-- The words of an operand whose loss has been told as another module's (R344) tell it no more. -/
def Plot.operandWords (p : Plot) (x : Actor) (ws : List CW) : List CW :=
  if p.ops.any (fun o => o.mma == some x.id && o.far) then ws.filter fun w => CW.check w != some .poison else ws

/-- A beat enters the array; the last one of a step brings about its accumulation. -/
def State.takeBeat (s : State) (c : Nat) (x : Actor) (m : MmaF) (a : Beat) (sc : Option Beat) : State :=
  let per := stepK m.fmt / kpc m.fmt
  let first := x.fired % per = 0
  let now := s.cycleOf c
  let s := s.modPlot c fun p =>
    let p := if m.fromOp then p else (if sc.isSome then (p.pop m.port).pop m.sc else p.pop m.port)
    { (p.noteRate 1 0 now) with lastAct := s.tempo }
  let held := if first then (match sc with | some b => [b] | none => []) ++ [a] else x.beats ++ [a]
  let x := { x with fired := x.fired + 1, beats := held }
  if x.fired % per != 0 then s.modPlot c fun p => p.setActor x
  else
    let mx := mxCode m.fmt
    let scale := if mx then held.head? else none
    let beats := if mx then held.drop 1 else held
    let k := (x.fired - 1) / per * stepK m.fmt
    let fb := x.aux % 32
    let weights := (List.range 128).flatMap fun n => (((s.plot c).wslots.get {} m.j).column fb k n).2
    let r := (s.plot c).mmaStep m fb k beats scale
    let (s, x) := s.mirrorStep c m { x with beats := [], flags := x.flags ||| r.2 } s.evt.ok s.evt.ok2
    let s := (s.setPlot c (r.1.setActor x)).reportWords c 6 ((s.plot c).operandWords x (usedWords m.half beats scale) ++ weights)
    if x.left = some x.fired then s.retireMma c x else s

/-- MATRIX_STEP (R237): the matrix unit's first operation takes its next A beat, or ends. -/
def execMatrixStep (s : State) : Out :=
  let c := s.evt.a
  let p := s.plot c
  match p.matrixQueue.head? with
  | none => .next s
  | some x0 =>
    match mmaOf x0.instr with
    | none => .next s
    | some m =>
      if !s.matrixReady c x0 || (m.fromOp && !x0.started) then .next s
      else
        let (p, x) := p.startMma x0 m
        let s := s.setPlot c (p.setActor x)
        if x.left = some x.fired then .next (s.retireMma c x)
        else match p.supply x m (x.fired % (stepK m.fmt / kpc m.fmt) = 0) with
          | .none => .next s
          | .ended k => .next (((s.modPlot c fun p => p.pop k).setLenmis c).retireMma c x)
          | .beat a sc again => .next (if again then s else s.takeBeat c x m a sc)

/-- FOLLOW_ON_MMA_START (R193): the operand of the first operation, a CPYMM's, has landed. -/
def execFollowOnMmaStart (s : State) : Out :=
  let c := s.evt.a
  let p := s.plot c
  match p.matrixQueue.head? with
  | none => .next s
  | some x =>
    match mmaOf x.instr with
    | none => .next s
    | some m =>
      if !m.fromOp || x.started || !s.matrixReady c x || !p.ops.any (fun o => o.mma == some x.id && o.landed) then .next s
      else
        let (p, x) := p.startMma x m
        .next (s.setPlot c (p.setActor x))

/-- Elements of an accumulator converted for a drain or a tile (R240). -/
def drainEls (dt : Nat) (isInt sat : Bool) (l : List AEl) : List El × FlagSet × Bool :=
  gather (l.map fun e => (if isInt then convertEl dt 0xA 0 sat e.v.toNat else convertEl dt 0 0 sat e.v.toNat, e.bad))

/-- The element beat b of a tile, with its scale beat for an MX target. -/
def drainBeat (dt : Nat) (isInt sat : Bool) (els : List AEl) (b : Nat) : VOut :=
  let n := perBeat (fmtWidth dt)
  let part := (els.drop (b * n)).take n
  if mxCode dt then quantBeats dt 0 (part.map fun e => if e.bad then CW.poison e.v else CW.mk' e.v)
  else
    let r := drainEls dt isInt sat part
    { outs := [packN (fmtWidth dt) 64 r.1], fl := r.2.1, isat := r.2.2 }

/-- A route takes its place among those of a sink by its number. -/
def insertRoute (l : List (Nat × Route)) (id : Nat) (r : Route) : List (Nat × Route) :=
  l.filter (·.1 ≤ id) ++ [(id, r)] ++ l.filter (id < ·.1)

/-- The tile that a drain stands at, and whether its first beat is next. -/
def drainTile (x : Actor) (d : D) : Nat × Bool := (x.fired / drainBeats (drainFmt d), x.fired % drainBeats (drainFmt d) = 0)

/-- The drain ends on an end token of its steering port: what it has not drained is not released (R241). -/
def Plot.endDrain (p : Plot) (x : Actor) (d : D) : Plot :=
  let t := (drainTile x d).1
  let rest := (List.range (drainN d)).drop t
  let back (p : Plot) (k : Nat) : Plot :=
    let q := d.a.toNat + k
    if p.accSt q = .released && (p.acc q).used = x.id then
      match (p.dying.find? fun e => e.1 = x.id + k) with
      | some (_, 0) => p.modAcc q fun a => { a with st := .live, place := .slot }
      | some (_, a + 1) => { p.modAcc q (fun y => { y with st := .live, place := .spill a }) with spillUsed := p.spillUsed ++ [a] }
      | none => p.modAcc q fun a => { a with st := .unwritten }
    else p
  if d.c.getLsbD 5 then rest.foldl (fun p k => (back p k).freeDying (x.id + k)) p else p

/-- DRAIN_FIRING (R239 to R241): the first operation, a drain, takes its steering token or makes its next beat. -/
def execDrainFiring (s : State) : Out :=
  let c := s.evt.a
  let p := s.plot c
  match p.matrixQueue.head? with
  | none => .next s
  | some x =>
    match x.instr with
    | .adrain d =>
      let steer := d.c.getLsbD 7
      let t := drainTile x d
      let sink := 16 + d.b.toNat
      if !s.matrixReady c x then .next s
      else if steer && t.2 && !x.started then
        let port := 32 + bits d.e 5 3
        match p.head? port with
        | some tok =>
          match tok.k with
          | .fin => .next (((s.modPlot c fun p => (p.pop port).endDrain x d).setLenmis c).retireMma c x)
          | .bit v _ =>
            let r := p.rtab.get {} (if v then bits d.e 8 4 else bits d.e 12 4)
            let p := (p.pop port).setActor { x with started := true }
            .next (s.setPlot c { p with routes := p.routes.set d.b.toNat (insertRoute (p.routes.get [] d.b.toNat) (x.id + t.1) r) })
          | _ => .next s
        | none => .next s
      else
        let f := drainFmt d
        let mx := mxCode f
        let scSink := 16 + bits d.d 0 4
        if p.room sink = 0 || (mx && p.room scSink = 0) then .next s
        else
          let know := x.ws.getD t.1 0
          let els := p.readAcc (d.a.toNat + t.1) (know.getLsbD 0)
          let isInt := if know.getLsbD 0 then !drainOk false f else know.getLsbD 1
          let r := drainBeat f isInt (d.c.getLsbD 6) els (x.fired % drainBeats f)
          let by_ := if steer then x.id + t.1 + 1 else x.id
          let tok (k : Nat) : Tok := { k := .data { ws := r.outs.getD k [] }, by_ := by_ }
          let x := { x with fired := x.fired + 1, flags := x.flags ||| r.fl, started := false }
          let x := { x with started := steer && x.fired % drainBeats f != 0 }
          let now := s.cycleOf c
          let p := { (p.noteRate 1 0 now) with lastAct := s.tempo }
          let p := p.push sink (tok 0)
          let p := if mx then p.push scSink { tok 1 with by_ := x.id } else p
          let p := if x.fired % drainBeats f = 0 && d.c.getLsbD 5 then p.freeDying (x.id + t.1) else p
          let s := (s.setPlot c (p.setActor x)).modSeqOf c fun q => { q with isat := q.isat || r.isat }
          .next (if x.left = some x.fired then s.retireMma c x else s)
    | _ => .next s

/-- MATRIX_MARKER_EFFECT (R227): the marker at the head of the unit's queue takes effect. A WREL waits for the fill of its slot. -/
def execMatrixMarkerEffect (s : State) : Out :=
  let c := s.evt.a
  let p := s.plot c
  match p.matrixQueue.head? with
  | none => .next s
  | some x =>
    if !isMatrixMarker x.instr || s.frozen c || p.accBusy x || p.spillsAhead x.id then .next s
    else
      let done (p : Plot) : Out := .next (s.setPlot c (p.drop x.id))
      match x.instr with
      | .azero d => done (p.zeroAcc d.a.toNat (x.aux = 1))
      | .arel _ => done (p.freeDying x.id)
      | .wrel d =>
        let filling (o : EngOp) : Bool := o.id < x.id && (match o.instr with | .wld w => w.a == d.a | _ => false)
        if p.ops.any filling then .next s else done p
      | .amirror d => done { p with mirror := d.a = 0 }
      | .cbld d =>
        let rows := if x.aux = 1 then [] else p.cbRows
        let rows := (List.range x.ws.length).foldl (fun (m : NMap (BitVec 24)) k => m.set (d.b.toNat + k) ((x.ws.getD k 0).extractLsb' 0 24)) rows
        done { p with cbRows := rows }
      | .tmask t =>
        let m : BitVec 128 := (x.sv.getD 1 0) ++ (x.sv.getD 0 0)
        done (if t.imm.getLsbD 0 then { p with colmask := m } else { p with rowmask := m })
      | .tret => done { p with rowmask := BitVec.allOnes 128, colmask := BitVec.allOnes 128 }
      | _ => done p

end Sys2Proof.Machine
end

