-- ==== Sys2Proof/Machine/Tile.lean ====
section
/-! DEFINITION. Class 0xC but CPY and COLL: tile descriptors, TLD, TLDA, TST, TADD, TCPY, CPYMM, and how the copy engine
performs them (R86 to R94, R108, R109, R186 to R191, R193). -/

namespace Sys2Proof.Machine

/-! ### Descriptors (R88) -/

def TileDesc.rows (d : TileDesc) : Nat := bits d.w1 0 8 + 1
def TileDesc.rowBytes (d : TileDesc) : Nat := (bits d.w1 8 4 + 1) * 64
def TileDesc.fmt (d : TileDesc) : Nat := bits d.w1 12 5
def TileDesc.strict (d : TileDesc) : Bool := d.w1.getLsbD 20
def TileDesc.inStash (d : TileDesc) : Bool := d.w1.getLsbD 21
def TileDesc.pitch (d : TileDesc) : Nat := bits d.w1 32 24 * 64
def TileDesc.size (d : TileDesc) : Nat := d.rows * d.rowBytes
def TileDesc.rowAt (d : TileDesc) (i : Nat) : Word := d.w0 + w64 (i * d.pitch)

/-- Reserved bits and values: bits [31:22] and [63:56], SCOPE above 4; more than 128 rows or 512 bytes of row. -/
def TileDesc.reserved (d : TileDesc) : Bool :=
  bits d.w1 22 10 != 0 || bits d.w1 56 8 != 0 || 5 ≤ bits d.w1 17 3 || 128 < d.rows || 512 < d.rowBytes

/-- An address joins a rising list that holds the lowest touched address of each page. -/
def insertPage (a : Word) : List Word → List Word
  | [] => [a]
  | b :: l =>
    if b.toNat / 65536 = a.toNat / 65536 then (if a.toNat < b.toNat then a else b) :: l
    else if a.toNat < b.toNat then a :: b :: l
    else b :: insertPage a l

/-- The lowest touched address of every page of a GLOBAL tile, in rising order (R92). -/
def TileDesc.pages (d : TileDesc) : List Word :=
  ((List.range d.rows).flatMap fun i => pagesOf (d.rowAt i) d.rowBytes).foldl (fun l a => insertPage a l) []

/-- The first bytes of the sectors that the rows touch. -/
def TileDesc.sectors (d : TileDesc) : List Word :=
  (List.range d.rows).flatMap fun i => sectorsOf (d.rowAt i) d.rowBytes

/-- Orders 4 and 5 of R89, and the bank tokens, for the rows of a LOCAL tile, each order over all rows. -/
def TileDesc.stashFault (d : TileDesc) (p : Plot) : Option (Cause × Word) :=
  let faults := (List.range d.rows).filterMap fun i =>
    (p.localFault p.nextId (d.rowAt i).toNat d.rowBytes).map fun c => (c, d.rowAt i)
  [Cause.space, .stashconf, .btokbad].findSome? fun c => faults.find? (·.1 == c)

/-- The stash bytes of the rows hold a stale granule: its address. -/
def TileDesc.staleAt (d : TileDesc) (p : Plot) : Option Word :=
  ((List.range d.rows).find? fun i => p.anyStale (d.rowAt i).toNat d.rowBytes).map d.rowAt

/-- Every page of a list of touched addresses, each the lowest in its page, is translated and checked (R92, R148). -/
def State.tilePages (s : State) (l : List Word) (kind : Nat) : Res (List Tlb) :=
  l.mapM fun va => do
    let t ← s.translate s.cur 0 va kind
    s.present s.cur 0 t va kind
    need (s.popKind (t.pa va) != 3) .space va
    pure t

/-- The checks of R89 on a descriptor: `ok` says which formats the instruction accepts. The translations are what it keeps. -/
def State.descCheck (s : State) (word : Word) (d : TileDesc) (strict write : Bool) (ok : Nat → Bool) : Res (List Tlb) := do
  need (!d.reserved) .rsvfld word
  need (d.fmt ≤ 0xE && ok d.fmt) .fmtbad word
  need (!(write && 1 < d.rows && d.pitch < d.rowBytes)) .tileshape word
  if d.inStash then
    match d.stashFault (s.plot s.cur) with
    | some (c, a) => trap c a
    | none => pure []
  else
    let l := d.pages
    need (!((strict || d.strict) && 1 < l.length)) .tilexf d.w0
    s.tilePages l (if write then 1 else 0)

/-! ### Format windows (R86, R87) -/

/-- The window that covers every one of the addresses. -/
def State.oneWindow (s : State) (pas : List Nat) : Option FmtWin :=
  (s.fwins.find? fun kw => pas.all kw.2.covers).map (·.2)

/-- A load that names an MX or CB2 format finds all its bytes in one window (R87). -/
def State.framed (s : State) (f : Nat) (loc : Bool) (l : List (Word × Tlb)) : Res Unit :=
  let needs := 6 ≤ f && f ≤ 9
  let pas := l.map fun x => x.2.pa x.1
  let a := match l with | x :: _ => x.1 | [] => 0
  need (!needs || (!loc && (s.oneWindow pas).isSome)) .fmtwin a

/-- The scale byte of the block at a physical address, and the word that holds it: of a cached sector what the fill framed in its
sideband, else what a fill frames now (R86). A flip of a publishable scale region leaves the framed scales as they are, and the
next fill takes the face then visible (the model's choice, log entry 73). -/
def State.scaleAt (s : State) (w : FmtWin) (pa : Nat) : BitVec 8 × CW :=
  let l := match s.cache.find (pa / 64) with | some c => c.scales | none => s.framing pa
  let a := w.scale + (pa - w.base) / blockBytes w.fmt
  let cw := l.getD (a / 4 - (w.scaleWords pa).headD 0 / 4) CW.zero
  (byteOf cw.v (a % 4), cw)

/-! ### Issue (R187) -/

/-- A register of the descriptor file. -/
def State.desc (s : State) (n : Nat) : TileDesc := (s.plot s.cur).tds.get {} n

/-- The tag of R159, then a place among the 32 operations of the engine; the operation takes the next number. -/
def State.issueOp (s : State) (word : Word) (o : EngOp) (p : Plot) : Res State := do
  let q ← p.issueTag word o.tag o.bytes
  if 32 ≤ p.ops.length then stall s
  let s := s.freshTag s.cur o.tag
  let q := { q with ops := q.ops ++ [{ o with id := p.nextId }], nextId := p.nextId + 1 }
  let q := if o.tag.isNone then q.joinBatch p.nextId else q
  pure (s.setPlot s.cur q)

/-- The stash range of a tile instruction: 64-byte aligned, and orders 7 to 9 of R148. -/
def State.stashRange (s : State) (a : Word) (n : Nat) : Res Unit := do
  need (a.toNat % 64 = 0) .align a
  s.localCheck a.toNat n

/-- TDSET: no checks. -/
def execTdset (x : D) (s : State) : Out :=
  settle s (do
    s.datapath (encode (.tdset x))
    s.sources (encode (.tdset x)) [r5 x.b, r5 x.c]
    let d : TileDesc := { w0 := s.reg (r5 x.b), w1 := s.reg (r5 x.c) }
    pure (s.modPlot s.cur fun p => { p with tds := p.tds.set x.a.toNat d }).retire)

def anyFmt (_ : Nat) : Bool := true

/-- TLD. -/
def execTld (x : D) (s : State) : Out :=
  let word := encode (.tld x)
  let d := s.desc x.a.toNat
  let a := s.reg (r5 x.b)
  settle s (do
    s.datapath word
    s.sources word [r5 x.b]
    let ts ← s.descCheck word d (x.e.getLsbD 0) false anyFmt
    s.granules word (d.inStash && (d.staleAt (s.plot s.cur)).isSome)
    s.stashRange a d.size
    s.framed d.fmt d.inStash (d.pages.zip ts)
    let o : EngOp := { id := 0, instr := .tld x, pc := s.seq.pc, sv := [a], td := d, tag := tagOf x.c, bytes := d.size, pages := ts }
    pure (← s.issueOp word o (s.plot s.cur)).retire)

/-- TLDA: `pos` tells whether the accumulator had contents. -/
def execTlda (x : D) (s : State) : Out :=
  let word := encode (.tlda x)
  let d := s.desc x.a.toNat
  let q := x.b.toNat
  settle s (do
    s.datapath word
    s.accOk word q
    let ts ← s.descCheck word d (x.e.getLsbD 0) false (fun f => f = 0 || f = 0xA)
    s.granules word (d.inStash && (d.staleAt (s.plot s.cur)).isSome)
    need (d.rowBytes = 512) .tileshape word
    let p := s.plot s.cur
    let r ← s.needSlot word q p.nextId
    let o : EngOp := { id := 0, instr := .tlda x, pc := s.seq.pc, td := d, tag := tagOf x.c, bytes := d.size, pages := ts,
                       pos := if p.accSt q = .live then 1 else 0 }
    pure (← s.issueOp word o (r.makeLive q p.nextId (d.fmt = 0xA))).retire)

/-- The formats of a tile that an accumulator of the type may be written to. -/
def tileFmtOk (isInt : Bool) (f : Nat) : Bool := if isInt then f = 0xA else f ≤ 2

/-- The source checks of TST and TADD (R190): the operation's `sv` and `pos` (for an accumulator: 1 unwritten, 2 I32). `ok` says
which formats the instruction itself accepts. -/
def State.tileSource (s : State) (word : Word) (x : D) (d : TileDesc) (ok : Nat → Bool) : Res (List Word × Nat) := do
  let p := s.plot s.cur
  if x.d.getLsbD 1 then
    let q := x.b.toNat
    s.accRead word q
    let unw := p.accSt q = .unwritten
    let isInt := if unw then d.fmt = 0xA else (p.acc q).isInt
    need (tileFmtOk isInt d.fmt && ok d.fmt) .fmtbad word
    need (d.rowBytes = (if d.fmt = 0 || d.fmt = 0xA then 512 else 256)) .tileshape word
    pure ([], (if unw then 1 else 0) + (if isInt then 2 else 0))
  else
    let a := s.reg (r5 x.b)
    s.stashRange a d.size
    s.granules word (p.anyStale a.toNat d.size)
    need (ok d.fmt) .fmtbad word
    pure ([a], 0)

/-- Issue of TST and TADD: the descriptor's checks, the source's, then the instruction's own. -/
def State.issueTile (s : State) (i : Instr) (x : D) (ok : Nat → Bool) (own : List Tlb → TileDesc → Res Unit) : Out :=
  let word := encode i
  let d := s.desc x.a.toNat
  let acc := x.d.getLsbD 1
  settle s (do
    s.datapath word
    if acc then s.accOk word x.b.toNat
    if !acc then s.sources word [r5 x.b]
    let ts ← s.descCheck word d (x.e.getLsbD 0) true anyFmt
    let r ← s.tileSource word x d ok
    own ts d
    let p := s.plot s.cur
    let q := if acc then p.nameAcc x.b.toNat p.nextId else p
    let q := if acc && x.d.getLsbD 0 then q.release x.b.toNat p.nextId p.nextId else q
    let o : EngOp := { id := 0, instr := i, pc := s.seq.pc, sv := r.1, td := d, tag := tagOf x.c, bytes := d.size, pages := ts, pos := r.2 }
    pure (← s.issueOp word o q).retire)

/-- TST. -/
def execTst (x : D) (s : State) : Out := s.issueTile (.tst x) x anyFmt fun _ _ => .ok ()

/-- TADD: it obtains the contents of its tile too (R40). -/
def execTadd (x : D) (s : State) : Out :=
  s.issueTile (.tadd x) x (fun f => f = 0 || f = 0xA) fun ts d => do
    need (d.w0.toNat % 4 = 0) .align d.w0
    s.granules (encode (.tadd x)) (d.inStash && (d.staleAt (s.plot s.cur)).isSome)
    match (d.pages.zip ts).find? (fun y => ptePub y.2.pte) with
    | some y => trap .pubbad y.1
    | none => pure ()

/-- TCPY. -/
def execTcpy (x : D) (s : State) : Out :=
  let word := encode (.tcpy x)
  let dst := s.desc x.a.toNat
  let src := s.desc x.b.toNat
  let strict := x.e.getLsbD 0
  settle s (do
    s.datapath word
    let ts ← s.descCheck word src strict false anyFmt
    let td ← s.descCheck word dst strict true anyFmt
    s.granules word (src.inStash && (src.staleAt (s.plot s.cur)).isSome)
    need (src.rows = dst.rows && src.rowBytes = dst.rowBytes) .tileshape word
    let o : EngOp := { id := 0, instr := .tcpy x, pc := s.seq.pc, td := dst, td2 := src, tag := tagOf x.c, bytes := dst.size, pages := ts ++ td }
    pure (← s.issueOp word o (s.plot s.cur)).retire)

/-- CPYMM: the operation, and behind it in the same action its follow-on MMA in the matrix unit's order. -/
def execCpymm (x : D) (s : State) : Out :=
  let i : Instr := .cpymm x
  let word := encode i
  let m := (mmaOf i).getD { q := 0, fmt := 0, j := 0, zero := false }
  let d := s.desc x.a.toNat
  let k := d.rows * kpc m.fmt
  settle s (do
    s.datapath word
    need (aFormat m.fmt) .fmtbad word
    s.accOk word m.q
    let ts ← s.descCheck word d (x.e.getLsbD 8) false (· = m.fmt)
    s.granules word (d.inStash && (d.staleAt (s.plot s.cur)).isSome)
    need (d.rowBytes = 256) .tileshape word
    s.framed m.fmt d.inStash (d.pages.zip ts)
    need (!(6 ≤ m.fmt && m.fmt ≤ 9) || (s.oneWindow ((d.pages.zip ts).map fun y => y.2.pa y.1)).any (·.fmt = m.fmt)) .fmtwin d.w0
    s.mmaChecks word m k
    let p := s.plot s.cur
    let r ← s.needSlot word m.q (p.nextId + 1)
    if 4 ≤ p.matrixOps then stall s
    let o : EngOp := { id := 0, instr := i, pc := s.seq.pc, td := d, tag := tagOf x.c, bytes := d.size, pages := ts, mma := some (p.nextId + 1) }
    let t ← s.issueOp word o p
    let p1 := t.plot t.cur
    let r1 := { r with ops := p1.ops, nextId := p1.nextId, tagPend := p1.tagPend, tagReady := p1.tagReady, openBatch := p1.openBatch, batches := p1.batches }
    pure (t.setPlot t.cur ((p1.addMma i s.seq.pc m k r1))).retire)

/-! ### The engine's accesses -/

/-- The translation that an operation made of an address. -/
def EngOp.tlb (o : EngOp) (va : Word) : Tlb := (o.pages.find? fun t => t.covers t.asid (vpnOf va)).getD default

/-- The access that reads a sector. -/
def EngOp.access (o : EngOp) (va : Word) : Access :=
  let t := o.tlb va
  { t := t, va := va, pa := t.pa va, kind := loadKind t }

/-- The engine reaches every sector of an access, or none: what it must wait for has been asked for. The error replies
withhold their sectors (R187). -/
def State.engineReach (s : State) (c : Nat) (l : List Access) : Except State (State × List (Nat × Raise)) :=
  let bad := s.refusals c 8 l
  let w := s.askAll c 8 l
  if w.2 then .error w.1 else .ok (s.takeAll c 8 l, bad)

/-- A word as the engine reads it (R179): a sector that a reply or the home's check withheld reads as lost. -/
def State.engineRead (s : State) (c : Nat) (o : EngOp) (bad : List (Nat × Raise)) (va : Word) : CW :=
  let t := o.tlb va
  let pa := t.pa va
  if bad.any (·.1 = pa / 64) || !s.homeRangeOk c pa then CW.poison (Config.lost pa) else s.currentWord c t va pa true

/-- The code of a word put together from pieces of others: lost where one is lost, and failing where one fails. -/
def joinedCode (ws : List CW) (v : BitVec 32) : BitVec 4 :=
  if ws.any (·.c = 15) then 15
  else if ws.any (fun w => (CW.check w).isSome) then BitVec.ofNat 4 (((lcc v).toNat + 1) % 15)
  else lcc v

/-- The words of n bytes from any byte address: an aligned range gives words and codes unchanged. -/
def spanWords (rd : Word → CW) (a : Word) (n : Nat) : List CW :=
  let sh := a.toNat % 4
  let base := a >>> 2 <<< 2
  if sh = 0 then (List.range (n / 4)).map fun k => rd (a + w64 (4 * k))
  else (List.range (n / 4)).map fun k =>
    let lo := rd (base + w64 (4 * k))
    let hi := rd (base + w64 (4 * k + 4))
    let v := (lo.v >>> (8 * sh)) ||| (hi.v <<< (32 - 8 * sh))
    ⟨v, joinedCode [lo, hi] v⟩

/-- A part of a write: a word address, and which bytes of the word it writes. -/
structure Piece where
  va : Word
  mask : BitVec 4
  w : CW
  deriving Repr

/-- The parts of a write of words at any byte address. A part of a word takes code 15 from a word that does not check. -/
def pieces (a : Word) (ws : List CW) : List Piece :=
  let sh := a.toNat % 4
  let base := a >>> 2 <<< 2
  if sh = 0 then (numbered ws).map fun kw => { va := a + w64 (4 * kw.1), mask := 15, w := kw.2 }
  else (numbered ws).flatMap fun (kw : Nat × CW) =>
    let c : BitVec 4 := if (CW.check kw.2).isSome then 15 else 0
    let lo : BitVec 32 := kw.2.v <<< (8 * sh)
    let hi : BitVec 32 := kw.2.v >>> (32 - 8 * sh)
    [{ va := base + w64 (4 * kw.1), mask := 15 <<< sh, w := ⟨lo, c⟩ },
     { va := base + w64 (4 * kw.1 + 4), mask := 15 >>> (4 - sh), w := ⟨hi, c⟩ }]

/-- What the parts of a write put into the sector of an access of the kind given: only a request to another module carries it. -/
def EngOp.writes (o : EngOp) (kind : Nat) (ps : List Piece) (va : Word) : Access :=
  let t := o.tlb va
  let pa := t.pa va
  let d := if kind = 7 || kind = 8 then sectorParts (ps.map fun x => ((o.tlb x.va).pa x.va, x.mask, x.w)) (pa / 64) else ([], [])
  { t := t, va := va, pa := pa, kind := kind, ws := d.1, mask := d.2 }

/-- A part of a write is performed for its operation, unless its sector was refused. -/
def State.enginePiece (s : State) (c : Nat) (o : EngOp) (by_ : Writer) (bad : List (Nat × Raise)) (x : Piece) : State :=
  let t := o.tlb x.va
  let pa := t.pa x.va
  if bad.any (·.1 = pa / 64) || !s.homeRangeOk c pa then s else s.engineWord c t x.va pa x.w x.mask by_

/-- An operation as the maker of writes that are no tile. -/
def EngOp.writer (o : EngOp) : Writer := { src := some o.id, tag := o.tag }

/-- The parts of a write reach their pages and are performed, or none is. -/
def State.engineWrite (s : State) (c : Nat) (o : EngOp) (by_ : Writer) (sectors : List Word) (ps : List Piece) :
    Except State (State × List (Nat × Raise)) :=
  let l := sectors.map fun va => o.writes (s.writeKind (o.tlb va) ((o.tlb va).pa va)) ps va
  match s.engineReach c l with
  | .error t => .error t
  | .ok (s, bad) => .ok (ps.foldl (fun s x => s.enginePiece c o by_ bad x) s, bad)

/-- Sectors read are charged. -/
def State.engineTouch (s : State) (c : Nat) (l : List Access) : State :=
  l.foldl (fun s x => if s.homeRangeOk c x.pa then s.touchAt c x.va x.pa (ptePodc x.t.pte) (pteMt x.t.pte = 1) false else s) s

/-- The refusals of the home's check are journalled, once an operation. -/
def State.engineRefused (s : State) (c : Nat) (l : List Access) : State :=
  match l.find? fun x => !s.homeRangeOk c x.pa with
  | some x => s.homeCheckReport c x.pa
  | none => s

/-- What the replies raise reaches the strand at its next boundary, as unit 8 (R187). -/
def State.raiseReplies (s : State) (c : Nat) (bad : List (Nat × Raise)) : State :=
  let s := bad.foldl (fun s r => s.raiseAt c { r.2 with unit := 8 }) s
  s.modSeqOf c fun q => { q with replies := q.replies.filter fun r => !(r.unit = 8 && bad.any (·.1 = r.sector)) }

/-- Writes into the stash of a failed strand that have not landed are dropped (R327). -/
def State.stashGone (s : State) (c : Nat) : Bool := (s.seqOf c).run = .failed

/-- A part written into stash. -/
def Plot.putPiece (p : Plot) (x : Piece) : Plot :=
  p.put x.va.toNat (mergeWord (p.word x.va.toNat) x.w.v x.w.c x.mask).1

/-- A tile is read as one: its words, row after row. -/
def State.tileRead (s : State) (c : Nat) (o : EngOp) (d : TileDesc) : Except State (State × List CW × List (Nat × Raise)) :=
  let rows (rd : Word → CW) : List CW := (List.range d.rows).flatMap fun i => spanWords rd (d.rowAt i) d.rowBytes
  if d.inStash then .ok (s, rows (fun a => (s.plot c).word a.toNat), [])
  else
    let l := d.sectors.map o.access
    match s.engineReach c l with
    | .error t => .error t
    | .ok (s, bad) =>
      let s := s.engineTouch c l
      .ok (s.engineRefused c l, rows (s.engineRead c o bad), bad)

/-- SCOPE of a descriptor (R88). -/
def TileDesc.scope (d : TileDesc) : Nat := bits d.w1 17 3

/-- A tile is written as one; of the strand's view it is one unit (R90, R109). -/
def State.tileWrite (s : State) (c : Nat) (o : EngOp) (d : TileDesc) (ws : List CW) : Except State (State × List (Nat × Raise)) :=
  let n := d.rowBytes / 4
  let ps := (List.range d.rows).flatMap fun i => pieces (d.rowAt i) ((ws.drop (n * i)).take n)
  if d.inStash then .ok (if s.stashGone c then s else s.modPlot c fun p => ps.foldl Plot.putPiece p, [])
  else
    let by_ : Writer := { o.writer with unit := some (s.view c).nextId, scope := some d.scope }
    match s.engineWrite c o by_ d.sectors ps with
    | .error t => .error t
    | .ok (s, bad) => .ok (s.engineRefused c (d.sectors.map o.access), bad)

/-! ### Performing an operation -/

/-- The operation completes: its bytes land on its tag, it leaves its batch, what it released is free. -/
def State.finishOp (s : State) (c : Nat) (o : EngOp) : State :=
  s.modPlot c fun p => { (((p.land o.tag o.bytes).leaveBatch o.id).dropOp o.id).freeDying o.id with lastAct := s.tempo }

/-- The elements of an accumulator in the format of a tile, rows of 128 (R190). -/
def Plot.accWords (p : Plot) (q : Nat) (o : EngOp) : List CW × FlagSet :=
  let w := fmtWidth o.td.fmt
  let els := (p.readAcc q (o.pos.testBit 0)).take (128 * o.td.rows)
  let r := drainEls o.td.fmt (o.pos.testBit 1) false els
  (packN w (o.td.size / 4) r.1, r.2.1)

/-- The source words of TST and TADD, and the flags of their conversion; none while matrix operations issued earlier have
still to write the accumulator. -/
def Plot.tileWords (p : Plot) (o : EngOp) : Option (List CW × FlagSet) :=
  match opAcc o.instr with
  | some q => if p.accAhead o.id q || p.spillsAhead o.id then none else some (p.accWords q o)
  | none => some ((List.range (o.td.size / 4)).map fun k => p.word ((o.sv.getD 0 0).toNat + 4 * k), 0)

/-- The strand's own stores to the words of an addition that its engines see are performed before it (R109). -/
def State.publishFenced (s : State) (c : Nat) (o : EngOp) (vas : List Word) : Res State :=
  let pas := vas.map fun va => (o.tlb va).pa va
  s.publishTouched c 8 o.td.scope fun st => st.fenced && pas.contains st.pa

/-- One element of TADD: `m` at the home and the operand `v` (R190); lost where one of them does not check. -/
def addElement (isInt : Bool) (m v : CW) : CW × FlagSet :=
  let r : Nat × FlagSet := if isInt then ((m.v.toNat + v.v.toNat) % 2 ^ 32, 0) else f32.add 0 (f32.decode m.v.toNat) (f32.decode v.v.toNat)
  if (CW.check m).isSome || (CW.check v).isSome then (CW.poison (BitVec.ofNat 32 r.1), 0) else (CW.mk' (BitVec.ofNat 32 r.1), r.2)

/-- What an addition consumed: a word of memory with its address, or one of the operand. -/
abbrev Used := List (CW × Option Nat)

/-- An element of TADD is performed at its home at once; one at another module's has been by its request, whose reply holds the
word from before it. -/
def State.tileAdd (s : State) (c : Nat) (o : EngOp) (bad : List (Nat × Raise)) (va : Word) (v : CW) : State × FlagSet × Used :=
  let t := o.tlb va
  let pa := t.pa va
  if bad.any (·.1 = pa / 64) || !s.homeRangeOk c pa then (s, 0, [])
  else
    let m := s.homeWord (s.asidOf c) (vaNum va) pa
    let r := addElement (o.td.fmt = 0xA) m v
    let s := if s.elsewhere (ptePodc t.pte) pa then s else s.putNow c va pa (ptePodc t.pte) (pteMt t.pte = 1) [r.1]
    (s.ownNow c pa [r.1], r.2, [(m, if ptePodc t.pte && !s.homedHere pa then some pa else none), (v, none)])

/-- TADD into a LOCAL tile. -/
def Plot.stashAdd (p : Plot) (o : EngOp) (a : Nat) (v : CW) : Plot × FlagSet × Used :=
  let m := p.word a
  let r := addElement (o.td.fmt = 0xA) m v
  (p.put a r.1, r.2, [(m, none), (v, none)])

/-- The accesses of a TADD. A request to another module carries the addends of its sector and whether they are I32. -/
def State.addAccess (s : State) (o : EngOp) (ps : List Piece) (va : Word) : Access :=
  let t := o.tlb va
  let far := s.elsewhere (ptePodc t.pte) (t.pa va)
  let x := o.writes (if far then 7 else 2) ps va
  if far then { x with ws := x.ws ++ [CW.mk' (if o.td.fmt = 0xA then 1 else 0)] } else x

/-- A number joins a rising list without repeats. -/
def insertFrame (f : Nat) : List Nat → List Nat
  | [] => [f]
  | g :: l => if f = g then g :: l else if f < g then f :: g :: l else g :: insertFrame f l

/-- The frames with REC that a TADD touches, rising (R369). -/
def EngOp.recFrames (o : EngOp) : List Nat :=
  ((o.td.sectors.filter fun va => pteRec (o.tlb va).pte).map fun va => frameOf ((o.tlb va).pa va)).foldl (fun l f => insertFrame f l) []

/-- The decisions of a TADD at its home, one a frame, made once: bit 2 of `pos` says that they have been (R369 to R371). -/
def State.addTurns (s : State) (c : Nat) (o : EngOp) : Except State State :=
  if o.pos.testBit 2 then .ok s
  else match s.atLocations (s.seqOf c).ctx.launch 7 (s.issuer c) (o.recFrames.map w64) with
    | .ok t => .ok (t.modPlot c fun p => { p with ops := p.ops.map fun (y : EngOp) => if y.id = o.id then { y with pos := y.pos + 4 } else y })
    | .error t => .error t

/-- An addition has its turn before a request to another module leaves, else as it is performed. -/
def State.addReach (s : State) (c : Nat) (o : EngOp) (l : List Access) : Except State (State × List (Nat × Raise)) :=
  let ready : Bool := match s.engineReach c l with | .ok _ => true | .error _ => false
  match (if ready || l.any (·.kind = 7) then s.addTurns c o else .ok s) with
  | .error t => .error t
  | .ok s => s.engineReach c l

/-- All the elements of a TADD in their order. -/
def State.tileAdds (s : State) (c : Nat) (o : EngOp) (ws : List CW) : Except State (State × FlagSet × Used × List (Nat × Raise)) :=
  let n := o.td.rowBytes / 4
  let at_ (k : Nat) : Word := o.td.rowAt (k / n) + w64 (4 * (k % n))
  if o.td.inStash then
    let r := (numbered ws).foldl (fun (r : Plot × FlagSet × Used) kw =>
      let a := r.1.stashAdd o (at_ kw.1).toNat kw.2
      (a.1, r.2.1 ||| a.2.1, r.2.2 ++ a.2.2)) (s.plot c, 0, [])
    .ok (s.setPlot c r.1, r.2.1, r.2.2, [])
  else
    match s.publishFenced c o ((List.range ws.length).map at_) with
    | .error (.stall t) => .error t
    | .error (.trap x) => .error ((s.dropReplies c 9).raiseAt c { x with unit := 8 })
    | .ok s =>
      let ps := (numbered ws).map fun kw => ({ va := at_ kw.1, mask := 15, w := kw.2 } : Piece)
      let l := o.td.sectors.map (s.addAccess o ps)
      match s.addReach c o l with
      | .error t => .error t
      | .ok (s, bad) =>
        let r := (numbered ws).foldl (fun (r : State × FlagSet × Used) kw =>
          let a := r.1.tileAdd c o bad (at_ kw.1) kw.2
          (a.1, r.2.1 ||| a.2.1, a.2.2 ++ r.2.2)) (s, 0, [])
        .ok (r.1.engineRefused c l, r.2.1, r.2.2, bad)

/-- What an addition raises for the words that it consumed (R190): a lost word of another module is REMPOISON (R344). -/
def State.reportUsed (s : State) (c : Nat) (o : EngOp) (used : Used) : State :=
  let far := used.find? fun x => x.2.isSome && CW.check x.1 == some .poison
  let s := s.reportWords c 8 ((used.filter fun x => x.2.isNone || CW.check x.1 != some .poison).map (·.1))
  match far.bind (·.2) with
  | none => s
  | some pa =>
    let va := ((o.td.sectors.filter fun va => (o.tlb va).pa va / 64 = pa / 64).headD 0)
    s.raiseAt c { cause := .rempoison, unit := 8, t0 := (va >>> 6 <<< 6) + w64 (pa % 64) }

/-- The scale beats of a CPYMM's operand (R86, R193): the sidebands' scale bytes of a group's beats, one after the other. -/
def State.scaleBeats (s : State) (o : EngOp) (f : Nat) : List (List CW) :=
  let bpb := blockBytes f
  let per := 32 / kpc f
  let w := ((s.fwins.find? fun kw => kw.2.covers ((o.tlb o.td.w0).pa o.td.w0)).map (·.2)).getD {}
  let byte (j : Nat) : BitVec 8 × CW :=
    let va := o.td.rowAt (j / (256 / bpb)) + w64 (j % (256 / bpb) * bpb)
    s.scaleAt w ((o.tlb va).pa va)
  let word (k : Nat) : CW :=
    let l := (List.range 4).map fun i => byte (4 * k + i)
    let b (i : Nat) : Byte := (l.getD i (0, CW.zero)).1
    let v := wordOf (b 0) (b 1) (b 2) (b 3)
    ⟨v, joinedCode (l.map (·.2)) v⟩
  (List.range (o.td.rows / per)).map fun g => fullBeat ((List.range 32).map fun k => word (32 * g + k))

/-- The first lost word of a tile that came from another module: its address. -/
def State.farLost (s : State) (o : EngOp) (d : TileDesc) (ws : List CW) : Option Word :=
  let n := d.rowBytes / 4
  let at_ (k : Nat) : Word := d.rowAt (k / n) + w64 (4 * (k % n))
  let far (va : Word) : Bool := ptePodc (o.tlb va).pte && !s.homedHere ((o.tlb va).pa va)
  ((numbered ws).find? fun kw => CW.check kw.2 == some .poison && far (at_ kw.1)).map fun kw => at_ kw.1

/-- TLDA lands: rows 0 to nr − 1 from the tile, the others zero; masked elements stay (R189, R243, R244). -/
def Plot.landAcc (p : Plot) (q : Nat) (o : EngOp) (ws : List CW) : Plot :=
  let old := if o.pos = 1 then (p.acc q).dense else List.replicate 16384 {}
  let els := (((List.range 16384).zip old).zip (ws ++ List.replicate (16384 - ws.length) CW.zero)).map fun (x : (Nat × AEl) × CW) =>
    if p.masked x.1.1 then x.1.2 else ({ v := x.2.v, bad := x.2.c == 15 } : AEl)
  p.modAcc q fun a => { a with els := sparseEls els }

/-- An operation of a tile instruction is performed, if all it needs is there. The scales of a TLD of an MX or CB2 format go
nowhere: the spec gives them no place in the stash (the model's choice, log entry 73). -/
def State.performTile (s : State) (c : Nat) (o : EngOp) : State :=
  let p := s.plot c
  match o.instr with
  | .tld _ =>
    match s.tileRead c o o.td with
    | .error t => t
    | .ok (s, ws, bad) =>
      let s := if s.stashGone c then s else s.modPlot c fun p => (pieces (o.sv.getD 0 0) ws).foldl Plot.putPiece p
      (s.finishOp c o).raiseReplies c bad
  | .tlda x =>
    if p.accAhead o.id x.b.toNat || p.spillsAhead o.id then s
    else match s.tileRead c o o.td with
      | .error t => t
      | .ok (s, ws, bad) => ((s.modPlot c fun p => p.landAcc x.b.toNat o ws).finishOp c o).raiseReplies c bad
  | .tst _ =>
    match p.tileWords o with
    | none => s
    | some (ws, fl) =>
      match s.tileWrite c o o.td ws with
      | .error t => t
      | .ok (s, bad) => ((s.finishOp c o).recordFlags c 8 fl).raiseReplies c bad
  | .tadd _ =>
    match p.tileWords o with
    | none => s
    | some (ws, fl) =>
      match s.tileAdds c o ws with
      | .error t => t
      | .ok (s, fa, used, bad) => (((s.finishOp c o).recordFlags c 8 (fl ||| fa)).reportUsed c o used).raiseReplies c bad
  | .tcpy _ =>
    match s.tileRead c o o.td2 with
    | .error t => t
    | .ok (s1, ws, bad) =>
      match s1.tileWrite c o o.td ws with
      | .error t => t
      | .ok (s2, bad2) => (s2.finishOp c o).raiseReplies c (bad ++ bad2)
  | .cpymm x =>
    if o.landed then s
    else match s.tileRead c o o.td with
      | .error t => t
      | .ok (s, ws, bad) =>
        let f := bits x.e 0 5
        let a := (List.range o.td.rows).map fun i => (ws.drop (64 * i)).take 64
        let sc := if mxCode f then s.scaleBeats o f else []
        let far := s.farLost o o.td ws
        let o := { o with landed := true, beats := (a ++ sc).map (fun ws => { ws := ws }), far := far.isSome }
        let s := (s.modPlot c fun p => { p with ops := p.ops.map (fun y => if y.id = o.id then o else y), lastAct := s.tempo }).raiseReplies c bad
        match far with
        | some va => s.raiseAt c { cause := .rempoison, unit := 8, t0 := va }
        | none => s
  | _ => s

/-- TILE_PERFORM (R90 to R94, R187): operation b of the engine of plot a, unless a FENCE holds it back. -/
def execTilePerform (s : State) : Out :=
  let c := s.evt.a
  let p := s.plot c
  match p.ops.find? (·.id = s.evt.b) with
  | none => .next s
  | some o => if p.opBlocked o.id || s.frozen c then .next s else .next (s.performTile c o)

end Sys2Proof.Machine
end

