-- ==== Sys2Proof/Machine/Weight.lean ====
section
/-! DEFINITION. WLD and CBLD of class 0xD, and the fill of a weight slot (R230 to R234). -/

namespace Sys2Proof.Machine

/-! ### WLD -/

/-- Bytes of a column of k values, the last one not always whole; a CB2 codeword's two bytes hold eight. -/
def columnBytes (f k : Nat) : Nat := if f = 9 then k / 4 else (k * fmtWidth f + 7) / 8

/-- Bytes of a weight image (R232). -/
def imageBytes (f k : Nat) : Nat := if f = 9 then 32 * k else 16 * k * fmtWidth f

def columnAt (a : Word) (n : Nat) : Word := a + w64 (256 * n)

/-- The depth that a WLD names. -/
def State.depthOf (s : State) (x : D) (f : Nat) : Nat := if x.d = 0 then slotDepth f else (s.reg (r5 x.d)).toNat

/-- The lowest touched address of every page of a weight image (R148). -/
def imagePages (a : Word) (len : Nat) : List Word :=
  ((List.range 128).flatMap fun n => pagesOf (columnAt a n) len).foldl (fun l a => insertPage a l) []

/-- Orders 7 to 9 of R148 for the columns of a LOCAL image, each order over all of them. -/
def Plot.imageFault (p : Plot) (a : Word) (len : Nat) : Option (Cause × Word) :=
  let faults := (List.range 128).filterMap fun n => (p.localFault p.nextId (columnAt a n).toNat len).map fun c => (c, columnAt a n)
  [Cause.space, .stashconf, .btokbad].findSome? fun c => faults.find? (·.1 == c)

/-- The translations of a weight image, or the first fault of its pages or stash bytes (R232 order 5). -/
def State.imageCheck (s : State) (word : Word) (loc : Bool) (a : Word) (len : Nat) : Res (List Tlb) :=
  let p := s.plot s.cur
  if loc then
    match p.imageFault a len with
    | some (c, va) => trap c va
    | none => do
      s.granules word ((List.range 128).any fun n => p.anyStale (columnAt a n).toNat len)
      pure []
  else s.tilePages (imagePages a len) 0

/-- WLD: the slot is FILLING at issue. Of the operation, `sv` holds the address, `pos` the depth. -/
def execWld (x : D) (s : State) : Out :=
  let word := encode (.wld x)
  let f := bits x.e 0 5
  let loc := x.e.getLsbD 6
  let j := x.a.toNat
  let k := s.depthOf x f
  let a := s.reg (r5 x.b)
  let len := columnBytes f k
  settle s (do
    s.datapath word
    need (weightFormat f) .fmtbad word
    s.sources word (if x.d = 0 then [] else [r5 x.d])
    need (k != 0 && k ≤ slotDepth f && (!narrow f || k % 32 = 0)) .tileshape word
    need (a.toNat % 256 = 0) .align a
    let ts ← s.imageCheck word loc a len
    let l := (imagePages a len).zip ts
    s.framed f loc l
    s.sources word [r5 x.b]
    let win := if 6 ≤ f && f ≤ 9 then s.oneWindow (l.map fun y => y.2.pa y.1) else none
    let p := s.plot s.cur
    let w : WSlot := { p.slot j with st := 1, tag := p.gen, fmt := f, kw := k, wfmt := win.map (·.fmt), keep := x.e.getLsbD 5, src := a }
    let o : EngOp := { id := 0, instr := .wld x, pc := s.seq.pc, sv := [a], tag := tagOf x.c, bytes := imageBytes f k, pages := ts, pos := k }
    pure (← s.issueOp word o { p with wslots := p.wslots.set j w }).retire)

/-! ### The fill -/

/-- The slot that a fill writes. -/
def fillOf (o : EngOp) : Option Nat := match o.instr with | .wld x => some x.a.toNat | _ => none

/-- An actor of the matrix unit names the slot: an operation that reads it, or a WREL. -/
def namesSlot (x : Actor) (j : Nat) : Bool :=
  (match x.instr with | .wrel d => d.a.toNat = j | _ => false) || (match mmaOf x.instr with | some m => m.j = j | none => false)

/-- The fill may write its slot: earlier operations on it, and earlier fills of it, are done (R232, R233). -/
def Plot.fillReady (p : Plot) (o : EngOp) (j : Nat) : Bool :=
  !p.matrixQueue.any (fun x => x.id < o.id && namesSlot x j) && !p.ops.any (fun y => y.id < o.id && fillOf y == some j) && !p.opBlocked o.id

/-- The scale bytes of the columns: the block's number, the byte, and 1 for a poisoned or 2 for a failed code. -/
def State.fillScales (s : State) (o : EngOp) (f k : Nat) : List (Nat × BitVec 8 × BitVec 4) :=
  let a := o.sv.getD 0 0
  match s.oneWindow [(o.tlb a).pa a] with
  | none => []
  | some w =>
    (List.range (k / 32)).flatMap fun g => (List.range 128).map fun n =>
      let va := columnAt a n + w64 (columnBytes f (32 * g))
      let r := s.scaleAt w ((o.tlb va).pa va)
      (g * 128 + n, r.1, match CW.check r.2 with | none => 0 | some .poison => 1 | some _ => 2)

/-- The payload and the scales in the slot. -/
def WSlot.filled (w : WSlot) (cols : List (List CW)) (sc : List (Nat × BitVec 8 × BitVec 4)) (full : Bool) : WSlot :=
  let ws := (numbered cols).flatMap fun nc => (numbered nc.2).map fun kw => (nc.1 * 64 + kw.1, kw.2)
  { w with
    st := if full then 2 else w.st,
    ws := ws.filter fun kw => kw.2 != CW.zero,
    scales := sc.map fun x => (x.1, x.2.1),
    scaleBad := (sc.filter fun x => x.2.2 != 0).map fun x => (x.1, x.2.2) }

/-- WEIGHT_FILL_COMPLETE (R232): the last byte of the oldest fill of slot b of plot a has landed. Only the newest fill of a
slot that is still FILLING makes it FULL. -/
def execWeightFillComplete (s : State) : Out :=
  let c := s.evt.a
  let j := s.evt.b
  let p := s.plot c
  match p.ops.find? fun o => fillOf o == some j with
  | none => .next s
  | some o =>
    match o.instr with
    | .wld x =>
      if !p.fillReady o j || s.frozen c then .next s
      else
        let f := bits x.e 0 5
        let loc := x.e.getLsbD 6
        let a := o.sv.getD 0 0
        let n := (columnBytes f o.pos + 3) / 4
        let done (s : State) (cols : List (List CW)) (bad : List (Nat × Raise)) : Out :=
          let sc := if mxCode f || f = 9 then s.fillScales o f o.pos else []
          let newest := !p.ops.any fun y => o.id < y.id && fillOf y == some j
          let s := s.modPlot c fun p =>
            let w := p.wslots.get {} j
            { p with wslots := p.wslots.set j (w.filled cols sc (newest && w.st = 1 && w.tag = p.gen)) }
          .next ((s.finishOp c o).raiseReplies c bad)
        let cols (rd : Word → CW) : List (List CW) :=
          (List.range 128).map fun m => (List.range n).map fun k => rd (columnAt a m + w64 (4 * k))
        if loc then done s (cols fun va => p.word va.toNat) []
        else
          let l := ((List.range 128).flatMap fun m => sectorsOf (columnAt a m) (4 * n)).map o.access
          match s.engineReach c l with
          | .error t => .next t
          | .ok (s, bad) =>
            let s := s.engineTouch c l
            done (s.engineRefused c l) (cols (s.engineRead c o bad)) bad
    | _ => .next s

/-! ### CBLD -/

/-- Words of memory as plain loads, each consumed (R148 order 10). -/
def State.loadWords (s : State) (a : Word) : Nat → Res (List CW × State)
  | 0 => .ok ([], s)
  | n + 1 => do
    let (l, s) ← s.loadWords a n
    let va := a + w64 (4 * n)
    let t ← s.translate s.cur 0 va 0
    let (ws, s) ← s.readWords t va 4 false
    s.consume t va (t.pa va) ws
    pure (l ++ ws, s.watchAccess va 4 false)

/-- CBLD: the table counts as filled from its issue on; the rows are written as a marker. -/
def execCbld (x : D) (s : State) : Out :=
  let word := encode (.cbld x)
  let m := x.c.toNat + 1
  let a := s.reg (r5 x.a)
  let p := s.plot s.cur
  settle s (do
    s.datapath word
    need (x.b.toNat + m ≤ 256) .badopnd word
    need (a.toNat % 4 = 0) .align a
    s.sources word [r5 x.a]
    let (ws, t) ← (if x.e.getLsbD 0 then do
        s.localCheck a.toNat (4 * m)
        s.granules word (p.anyStale a.toNat (4 * m))
        let ws := (List.range m).map fun k => p.word (a.toNat + 4 * k)
        consumeLocal a.toNat ws
        pure (ws, s)
      else do
        s.reachPages a (4 * m) 0 false
        s.loadWords a m)
    need (ws.all fun w => w.v.toNat < 2 ^ 24) .cfgbad word
    t.markerRoom
    let q := t.plot t.cur
    let first := if q.cbTag = some q.gen then 0 else 1
    let y : Actor := { id := 0, instr := .cbld x, pc := s.seq.pc, aux := first, ws := ws.map (·.v) }
    pure (t.setPlot t.cur ({ q with cbTag := some q.gen }.issue y)).retire)

end Sys2Proof.Machine
end

