-- ==== Sys2Proof/Machine/Integrator.lean ====
section
/-! DEFINITION. Class 0xE: the integrator bank (R245 to R262). -/

namespace Sys2Proof.Machine

/-! ### Configuration (R246) -/

def cfgW (w : Word) : Nat := match bits w 0 3 with | 0 => 8 | 1 => 12 | 2 => 16 | 3 => 20 | 4 => 24 | _ => 32
def cfgF (w : Word) : Nat := bits w 3 5
def cfgE (w : Word) : Nat := bits w 8 4
def cfgDxk (w : Word) : Nat := bits w 12 2
def cfgDxsrc (w : Word) : Nat := bits w 14 6

/-- A dY input. -/
structure DyInput where
  kind : Nat
  neg : Bool
  index : Nat
  deriving Repr

def cfgInput (w : Word) (i : Nat) : DyInput :=
  { kind := bits w (24 + 10 * i) 2, neg := w.getLsbD (26 + 10 * i), index := bits w (27 + 10 * i) 6 }

def cfgInputs (w : Word) : List DyInput := (List.range 4).map (cfgInput w)

/-- What ICFG finds wrong with a word (R254). -/
def cfgFault (w : Word) : Option Cause :=
  if w.getLsbD 22 || w.getLsbD 23 || (List.range 4).any (fun i => w.getLsbD (33 + 10 * i)) then some .rsvfld
  else if 6 ≤ bits w 0 3 || cfgW w < cfgF w + 2 then some .iwidth
  else if cfgDxk w = 3 || (cfgInputs w).any (·.kind = 3) then some .cfgbad
  else none

/-- Sat_W, and whether it changes the value (R248). -/
def satW (w : Nat) (v : Int) : Int × Bool :=
  if v < -2 ^ (w - 1) then (-2 ^ (w - 1), true) else if 2 ^ (w - 1) - 1 < v then (2 ^ (w - 1) - 1, true) else (v, false)

/-- RES brought into the range of R247. -/
def clampRes (e : Nat) (v : Int) : Int × Bool :=
  let lo : Int := if e = 0 then 0 else -2 ^ (e - 1)
  let hi : Int := if e = 0 then 0 else 2 ^ (e - 1) - 1
  if v < lo then (lo, true) else if hi < v then (hi, true) else (v, false)

def Integ.setY (g : Integ) (v : Int) : Integ :=
  let r := satW (cfgW g.cfg) v
  { g with y := r.1, ysat := g.ysat || r.2 }

/-! ### The bank -/

/-- An integrator; a stale one is zero in every field (R40, R245). -/
def Plot.integ (p : Plot) (i : Nat) : Integ := let g := p.ints.get {} i; if g.tag = p.gen then g else { tag := p.gen }
def Plot.staleInt (p : Plot) (i : Nat) : Bool := (p.ints.get {} i).tag != p.gen
def Plot.setInt (p : Plot) (i : Nat) (g : Integ) : Plot := { p with ints := p.ints.set i { g with tag := p.gen } }
def Plot.modInt (p : Plot) (i : Nat) (f : Integ → Integ) : Plot := p.setInt i (f (p.integ i))

/-- The bank's operations in issue order (R252). -/
def Plot.bankQueue (p : Plot) : List Actor := p.actors.filter fun x => isBank x.instr

def isIstep : Instr → Bool
  | .istep _ => true
  | _ => false

/-! ### The step (R248 to R250) -/

/-- The increment of one integrator; `src` is what DxInput reads. The flag is a clip. -/
def Integ.turn (g : Integ) (src : Nat → Int) : Integ × Bool :=
  let q : Int := 2 ^ cfgE g.cfg
  let dx : Int := match cfgDxk g.cfg with | 0 => 0 | 1 => 1 | _ => src (cfgDxsrc g.cfg)
  let dx := if g.cfg.getLsbD 21 then -dx else dx
  if dx = 0 then ({ g with dz := 0 }, false)
  else
    let t := g.res + dx * g.y
    let raw := (2 * t + q).fdiv (2 * q)
    let clip := 127 < raw.natAbs
    ({ g with res := t - raw * q, dz := if clip then 127 * raw.sign else raw, iovf := g.iovf || clip }, clip)

/-- A bank as it stands in a step, with the mask of integrators that clipped with IOVFEN set. -/
structure BankStep where
  gs : List Integ
  clipped : Nat := 0

def BankStep.dz (b : BankStep) (j : Nat) : Int := (b.gs.getD j {}).dz

/-- The sum of the dY inputs that `take` accepts. -/
def Integ.inputs (g : Integ) (take : DyInput → Option Int) : Int :=
  (cfgInputs g.cfg).foldl (fun t x => match take x with | some v => if x.neg then t - v else t + v | none => t) 0

def BankStep.note (b : BankStep) (i : Nat) (g : Integ) (clip : Bool) : BankStep :=
  { gs := b.gs.set i g, clipped := if clip && g.cfg.getLsbD 20 then b.clipped + 2 ^ i else b.clipped }

/-- Simultaneous order (R249); `port` is the step's increment beat, lane by lane. -/
def stepTogether (gs : List Integ) (port : Nat → Int) : BankStep :=
  let old (j : Nat) : Int := (gs.getD j {}).dz
  let b := (List.range 64).foldl (fun (b : BankStep) i =>
    let r := (gs.getD i {}).turn old
    b.note i r.1 r.2) { gs := gs }
  { b with gs := b.gs.map fun g => g.setY (g.y + g.inputs fun x =>
      match x.kind with | 1 => some (b.dz x.index) | 2 => some (port x.index) | _ => none) }

/-- What integrator i adds at once to those wired to it (R250). -/
def addFrom (i : Nat) (dz : Int) (g : Integ) : Integ :=
  (cfgInputs g.cfg).foldl (fun (g : Integ) x =>
    if x.kind = 1 && x.index = i then g.setY (if x.neg then g.y - dz else g.y + dz) else g) g

/-- Staggered order (R250). -/
def stepStaggered (gs : List Integ) (port : Nat → Int) : BankStep :=
  let b := (List.range 64).foldl (fun (b : BankStep) i =>
    let r := (b.gs.getD i {}).turn b.dz
    let b := b.note i r.1 r.2
    if r.1.dz = 0 then b else { b with gs := b.gs.map (addFrom i r.1.dz) }) { gs := gs }
  { b with gs := b.gs.map fun g =>
      if (cfgInputs g.cfg).any (·.kind = 2) then
        g.setY (g.y + g.inputs fun x => if x.kind = 2 then some (port x.index) else none)
      else g }

/-- One step of a plot's bank. Stale integrators are inert (R247). -/
def Plot.bankStep (p : Plot) (stag : Bool) (port : Nat → Int) : Plot × List Int × Nat :=
  let gs := (List.range 64).map p.integ
  let b := if stag then stepStaggered gs port else stepTogether gs port
  let q := (List.range 64).foldl (fun (q : Plot) i => if p.staleInt i then q else q.setInt i (b.gs.getD i {})) p
  (q, b.gs.map (·.dz), b.clipped)

/-! ### ISTEP (R255, R256) -/

/-- Increment bytes of a beat: byte 64j + L is lane L at step j. -/
def incByte (ws : List CW) (k : Nat) : Int := (byteOf (ws.getD (k / 4) CW.zero).v (k % 4)).toInt

/-- The increment beats of a list of steps. -/
def incBeats (n : Nat) (dzs : List (List Int)) : List (List CW) :=
  (List.range n).map fun b => (List.range 64).map fun w =>
    let byte (i : Nat) : Byte :=
      let k := 4 * w + i
      BitVec.ofInt 8 ((dzs.getD (4 * b + k / 64) []).getD (k % 64) 0)
    CW.mk' (wordOf (byte 0) (byte 1) (byte 2) (byte 3))

/-- A stream beat (R257): the selected values in ascending index. -/
def Plot.sampleBeat (p : Plot) (f : Nat) (mask : Word) : List CW × FlagSet :=
  let sel := (List.range 64).filter fun i => mask.getLsbD i
  let r := sel.map fun i =>
    let g := p.integ i
    (fmtOf f).round 0 false (decide (g.y < 0)) g.y.natAbs (-(cfgF g.cfg : Int)) false
  (packN (fmtWidth f) 64 (r.map fun x => (x.1, false)), r.foldl (fun a x => a ||| x.2) 0)

/-- The steps of a firing: those run, the increments of each, and the mask that stopped the bank. -/
def Plot.bankSteps (p : Plot) (stag : Bool) (port : Nat → Nat → Int) : Nat → Nat → Plot × List (List Int) × Nat
  | 0, _ => (p, [], 0)
  | n + 1, j =>
    let r := p.bankStep stag (port j)
    if r.2.2 != 0 then (r.1, [r.2.1], r.2.2)
    else
      let t := r.1.bankSteps stag port n (j + 1)
      (t.1, r.2.1 :: t.2.1, t.2.2)

/-- Its inputs and sinks. `aux` is G; of a stream, `ws` holds the sink and the format, `sv` the mask. -/
def istepPorts (x : Actor) (d : D) : List (Nat × Nat) × List (Nat × Nat) :=
  (if d.b.getLsbD 4 then [(d.b.toNat % 16, x.aux / 4)] else [],
   (if d.c.getLsbD 4 then [(16 + d.c.toNat % 16, x.aux / 4)] else []) ++ (x.ws.take 1).map fun k => (16 + k.toNat, 1))

/-- A firing of G steps, or of the steps that its beats cover. -/
def istepBody (c : Nat) (x : Actor) (d : D) (s : State) (toks : List (List Tok)) : Firing :=
  let isIn := d.b.getLsbD 4
  let isOut := d.c.getLsbD 4
  let beats := toks.headD []
  let g := if isIn then Nat.min x.aux (4 * beats.length) else x.aux
  let ws := beats.flatMap tokWords
  let tagged := beats.any tokErr
  let port (j L : Nat) : Int := if isIn then incByte ws (64 * j + L) else 0
  let s := if tagged then s else s.reportWords c 7 ws
  let err := tagged || anyMis ws
  let r := (s.plot c).bankSteps (d.d.getLsbD 0) port g 0
  let s := s.setPlot c (if r.2.2 = 0 then r.1 else { r.1 with bank := { r.1.bank with stopped := true } })
  let s := if r.2.2 = 0 then s else s.raiseAt c { cause := .iovf, unit := 7, t0 := w64 r.2.2 }
  let inc := if isOut then [(incBeats (g / 4) r.2.1).map fun ws => .data { ws := ws, err := err }] else []
  let x := if r.2.2 = 0 then x else { x with left := some (x.fired + 1) }
  match x.ws with
  | _ :: f :: _ =>
    let b := (s.plot c).sampleBeat f.toNat (x.sv.getD 0 0)
    { s := s.recordFlags c 7 b.2, x := x, outs := inc ++ [[.data { ws := b.1, err := err }]] }
  | _ => { s := s, x := x, outs := inc }

/-- ISTEP_FIRING (R252, R255): the bank's first operation, an ISTEP, takes its turn, unless the bank is stopped. -/
def execIstepFiring (s : State) : Out :=
  let c := s.evt.a
  let p := s.plot c
  match p.bankQueue.head? with
  | none => .next s
  | some x =>
    match x.instr with
    | .istep d =>
      if p.bank.stopped || x.parked || s.frozen c || !p.turn x || !(p.rate 3 0).allows (s.cycleOf c) then .next s
      else
        let io := istepPorts x d
        match p.next x io.1 io.2 (x.aux / 4) with
        | none => .next s
        | some t =>
          let toks := p.peek io.1
          let again := (match t with | .fire _ => true | _ => false) && p.awaitsReplay toks.flatten
          if again then .next s
          else
            let now := s.cycleOf c
            let t := s.takeTurn c x io.1 io.2 t (istepBody c x d)
            .next (t.modPlot c fun p => { (p.noteRate 3 0 now) with lastAct := s.tempo })
    | _ => .next s

/-- ISTEP. -/
def execIstep (x : D) (s : State) : Out :=
  let word := encode (.istep x)
  let p := s.plot s.cur
  let isIn := x.b.getLsbD 4
  let isOut := x.c.getLsbD 4
  let n := (s.reg (r5 x.a)).toNat
  let b := p.bank
  let g := if b.son then Nat.max 1 b.sk else if isIn || isOut then 4 else 1
  settle s (do
    s.datapath word
    s.sources word [r5 x.a]
    need (x.a = 0 || n ≤ 0xFFFF_FFFF) .cfgbad word
    need ((x.a = 0 || n % g = 0) && !(b.son && (isIn || isOut) && b.sk % 4 != 0) && !(x.a = 0 && !isIn)) .cfgbad word
    if 2 ≤ (p.bankQueue.filter fun y => isIstep y.instr).length then stall s
    let a : Actor := { id := 0, instr := .istep x, pc := s.seq.pc, sv := [b.smask], aux := g,
                       ws := if b.son then [BitVec.ofNat 32 b.sport, BitVec.ofNat 32 b.sfmt] else [],
                       left := if x.a = 0 then none else some (n / g) }
    pure (s.addVec a).retire)

/-! ### Markers (R252, R254) -/

/-- The bank holds 16 markers. -/
def State.bankRoom (s : State) : Res Unit :=
  if 16 ≤ ((s.plot s.cur).bankQueue.filter fun y => !isIstep y.instr).length then stall s else .ok ()

/-- A marker is issued; `also` is what the plot holds at once. -/
def State.bankMarker (s : State) (i : Instr) (sv : List Word) (also : Plot → Plot := id) : Res State := do
  s.bankRoom
  pure (s.modPlot s.cur fun p => also (p.issue { id := 0, instr := i, pc := s.seq.pc, sv := sv })).retire

/-- ICFG. -/
def execIcfg (x : D) (s : State) : Out :=
  let word := encode (.icfg x)
  let v := s.reg (r5 x.b)
  settle s (do
    s.datapath word
    s.sources word [r5 x.b]
    match cfgFault v with
    | some c => trap c word
    | none => s.bankMarker (.icfg x) [v])

/-- ISET. -/
def execIset (x : D) (s : State) : Out :=
  let word := encode (.iset x)
  settle s (do
    s.datapath word
    s.sources word [r5 x.b, r5 x.c]
    s.bankMarker (.iset x) [s.reg (r5 x.b), s.reg (r5 x.c)])

/-- IWIRE. -/
def execIwire (x : D) (s : State) : Out :=
  settle s (do
    s.datapath (encode (.iwire x))
    need (x.c.toNat != 3) .cfgbad (encode (.iwire x))
    s.bankMarker (.iwire x) [])

/-- IUNWIRE. -/
def execIunwire (x : D) (s : State) : Out :=
  settle s (do
    s.datapath (encode (.iunwire x))
    s.bankMarker (.iunwire x) [])

/-- ISTREAM: the setting governs the ISTEPs issued after it. -/
def execIstream (x : D) (s : State) : Out :=
  let word := encode (.istream x)
  let f := bits x.d 0 5
  let k := (s.reg (r5 x.c)).toNat
  settle s (do
    s.datapath word
    s.sources word [r5 x.b, r5 x.c]
    need (f = 0 || f = 1) .fmtbad word
    need (1 ≤ k && k ≤ 256) .cfgbad word
    let b := (s.plot s.cur).bank
    s.bankMarker (.istream x) [] fun p =>
      { p with bank := { b with son := true, sfmt := f, sport := x.a.toNat, smask := s.reg (r5 x.b), sk := k } })

/-- ISTREAM off. -/
def execIstreamOff (s : State) : Out :=
  settle s (do
    s.datapath (encode .istreamOff)
    s.bankMarker .istreamOff [] fun p => { p with bank := { p.bank with son := false } })

/-- The integrators that a marker in the queue will have written (R41). -/
def writesInt (x : Actor) (i : Nat) : Bool :=
  match x.instr with
  | .icfg d | .iset d | .iwire d | .iunwire d | .iinject d | .iinjectPort d => d.a.toNat = i
  | .iload _ => (x.sv.getD 0 0).getLsbD i
  | _ => false

/-- In strict mode an integrator whose old state is read must not be stale (R252). -/
def State.intFresh (s : State) (word : Word) (i : Nat) : Res Unit :=
  let p := s.plot s.cur
  s.granules word (p.staleInt i && !p.bankQueue.any (writesInt · i))

/-- IINJECT from a register. -/
def execIinject (x : D) (s : State) : Out :=
  let word := encode (.iinject x)
  settle s (do
    s.datapath word
    s.sources word [r5 x.c]
    s.intFresh word x.a.toNat
    s.bankMarker (.iinject x) [s.reg (r5 x.c)])

/-- IINJECT from a port. -/
def execIinjectPort (x : D) (s : State) : Out :=
  let word := encode (.iinjectPort x)
  settle s (do
    s.datapath word
    s.intFresh word x.a.toNat
    s.bankMarker (.iinjectPort x) [])

/-- ILOAD from a port. -/
def execIload (x : D) (s : State) : Out :=
  let word := encode (.iload x)
  settle s (do
    s.datapath word
    s.sources word [r5 x.b]
    need (bits x.d 0 5 ≤ 1) .fmtbad word
    s.bankMarker (.iload x) [s.reg (r5 x.b)])

/-! ### What the markers do -/

/-- ICFG's effect. -/
def Integ.configure (g : Integ) (v : Word) : Integ := ({ g with cfg := v, res := 0, dz := 0 }).setY g.y

/-- ISET's effect. -/
def Integ.setTo (g : Integ) (y r : Int) : Integ :=
  let q := clampRes (cfgE g.cfg) r
  let g := g.setY y
  { g with res := q.1, ysat := g.ysat || q.2 }

/-- A field of the configuration word replaced. -/
def putBits (w : Word) (lo n v : Nat) : Word :=
  (w &&& ~~~(w64 ((2 ^ n - 1) * 2 ^ lo))) ||| w64 (v % 2 ^ n * 2 ^ lo)

/-- IWIRE's and IUNWIRE's effects. -/
def Integ.wire (g : Integ) (i k src : Nat) (neg : Bool) : Integ :=
  let n := if neg then 1 else 0
  if i = 4 then { g with cfg := putBits (putBits (putBits g.cfg 12 2 k) 14 6 src) 21 1 n }
  else { g with cfg := putBits g.cfg (24 + 10 * i) 9 (k + 4 * n + 8 * src) }

def Integ.unwire (g : Integ) (i : Nat) : Integ := { g with cfg := putBits g.cfg (if i = 4 then 12 else 24 + 10 * i) 2 0 }

/-- ILOAD of one lane (R260). -/
def Integ.loadLane (g : Integ) (f v : Nat) : Integ × FlagSet :=
  let w := cfgW g.cfg
  match (fmtOf f).decode v with
  | .nan _ _ => (g.setY 0, fNV)
  | .inf neg => (g.setY (if neg then -2 ^ w else 2 ^ w), 0)
  | .fin neg m e =>
    let r := roundAt 0 neg m (e + cfgF g.cfg) 0 false
    (g.setY (if neg then -(r.1 : Int) else r.1), if r.2 then fNX else 0)

/-- A lane of a beat with the word that holds it. -/
def laneOf (f i : Nat) (b : Beat) : Nat × CW :=
  let w := if f = 0 then b.word i else b.word (i / 2)
  (if f = 0 then w.v.toNat else w.v.toNat / 2 ^ (16 * (i % 2)) % 65536, w)

/-- What is raised for a word that a marker consumes; a tagged beat counts as lost (R349). -/
def State.markerWords (s : State) (c : Nat) (err : Bool) (ws : List CW) : State :=
  if err then s.raiseAt c { cause := .poison, unit := 7 } else s.reportWords c 7 ws

/-- A marker that takes one beat from a port. -/
def State.portMarker (s : State) (c : Nat) (x : Actor) (port : Nat) (used : Beat → List CW) (eff : Plot → Beat → Plot × FlagSet) : State :=
  let p := s.plot c
  match p.head? port with
  | none => s
  | some t =>
    match t.k with
    | .fin => (s.modPlot c fun p => (p.pop port).drop x.id).setLenmis c
    | .data b =>
      let ws := used b
      if p.awaitsReplay [t] && anyMis ws then s
      else
        let s := s.markerWords c b.err ws
        let r := eff (p.pop port) b
        let s := s.setPlot c { (s.plot c) with ports := r.1.ports, ints := r.1.ints, lastAct := s.tempo }
        (s.recordFlags c 7 r.2).modPlot c fun p => p.drop x.id
    | _ => s

/-- BANK_MARKER_EFFECT (R252): the marker at the head of bank order takes effect. -/
def execBankMarkerEffect (s : State) : Out :=
  let c := s.evt.a
  let p := s.plot c
  match p.bankQueue.head? with
  | none => .next s
  | some x =>
    let done (p : Plot) : Out := .next (s.setPlot c (p.drop x.id))
    if s.frozen c || x.parked then .next s
    else match x.instr with
    | .icfg d => done (p.modInt d.a.toNat fun g => g.configure (x.sv.getD 0 0))
    | .iset d => done (p.modInt d.a.toNat fun g => g.setTo (x.sv.getD 0 0).toInt (x.sv.getD 1 0).toInt)
    | .iwire d => done (p.modInt d.a.toNat fun g => g.wire d.b.toNat d.c.toNat d.d.toNat (d.e.getLsbD 0))
    | .iunwire d => done (p.modInt d.a.toNat fun g => g.unwire d.b.toNat)
    | .iinject d => done (p.modInt d.a.toNat fun g => g.setY (g.y + (x.sv.getD 0 0).toInt))
    | .iinjectPort d =>
      if !p.turn x then .next s
      else .next (s.portMarker c x d.c.toNat (fun b => [b.word d.d.toNat]) fun p b =>
        let w := b.word d.d.toNat
        if b.err || (CW.check w).isSome then (p, 0) else (p.modInt d.a.toNat fun g => g.setY (g.y + w.v.toInt), 0))
    | .iload d =>
      let f := bits d.d 0 5
      let sel := (List.range 64).filter fun i => (x.sv.getD 0 0).getLsbD i
      if !p.turn x then .next s
      else .next (s.portMarker c x d.a.toNat (fun b => sel.map fun i => (laneOf f i b).2) fun p b =>
        sel.foldl (fun (r : Plot × FlagSet) i =>
          let l := laneOf f i b
          if b.err || (CW.check l.2).isSome then r
          else
            let g := (r.1.integ i).loadLane f l.1
            (r.1.setInt i g.1, r.2 ||| g.2)) (p, 0))
    | .istream _ => done p
    | .istreamOff => done p
    | _ => .next s

/-! ### ISAMPLE, IFLAGS, and the image (R258, R260) -/

/-- ISAMPLE. -/
def execIsample (x : D) (s : State) : Out :=
  let word := encode (.isample x)
  let p := s.plot s.cur
  settle s (do
    s.datapath word
    if !p.bankQueue.isEmpty then stall s
    s.intFresh word x.b.toNat
    let g := p.integ x.b.toNat
    let v : Word := match x.c.toNat with
      | 0 => BitVec.ofInt 64 g.y
      | 1 => BitVec.ofInt 64 g.res
      | 2 => BitVec.ofInt 64 g.dz
      | _ => g.cfg
    pure (s.setReg (r5 x.a) v).retire)

/-- The flag that IFLAGS reads, and that flag cleared. -/
def Integ.flagOf (g : Integ) (f : Nat) : Bool := if f = 0 then g.iovf else g.ysat
def Integ.clearFlag (g : Integ) (f : Nat) : Integ := if f = 0 then { g with iovf := false } else { g with ysat := false }

/-- An integrator with IOVFEN set still shows IOVF (R251). -/
def Plot.stillClipped (p : Plot) : Bool := (List.range 64).any fun i => (p.integ i).iovf && (p.integ i).cfg.getLsbD 20

/-- IFLAGS: it passes the ISTEPs that wait on a stopped bank. -/
def execIflags (x : D) (s : State) : Out :=
  let word := encode (.iflags x)
  let p := s.plot s.cur
  let f := x.c.toNat
  let m := s.reg (r5 x.b)
  settle s (do
    s.datapath word
    s.sources word [r5 x.b]
    if !(p.bankQueue.isEmpty || (p.bank.stopped && p.bankQueue.all fun y => isIstep y.instr)) then stall s
    s.granules word ((List.range 64).any p.staleInt)
    let v := (List.range 64).foldl (fun n i => if (p.integ i).flagOf f then n + 2 ^ i else n) 0
    let q := (List.range 64).foldl (fun (q : Plot) i => if m.getLsbD i then q.modInt i fun g => g.clearFlag f else q) p
    let q := { q with bank := { q.bank with stopped := q.bank.stopped && q.stillClipped } }
    pure ((s.setPlot s.cur q).setReg (r5 x.a) (w64 v)).retire)

/-- An integrator's 16 bytes of the image, as four words. -/
def Integ.image (g : Integ) : List CW :=
  let fl : Nat := (if g.iovf then 1 else 0) + (if g.ysat then 2 else 0)
  let hw : BitVec 32 := (BitVec.ofNat 8 fl : Byte) ++ (BitVec.ofInt 8 g.dz : Byte) ++ (BitVec.ofInt 16 g.res : BitVec 16)
  [CW.mk' (BitVec.ofInt 32 g.y), CW.mk' hw, CW.mk' (g.cfg.extractLsb' 0 32), CW.mk' (g.cfg.extractLsb' 32 32)]

/-- The image of a bank (R260): 272 words. -/
def Plot.bankImage (p : Plot) : List CW :=
  let b := p.bank
  let w1 := (if b.son then 1 else 0) + 2 * b.sfmt + 256 * b.sport + 65536 * (if b.stopped then 1 else 0)
  [CW.mk' 0x49470001, CW.mk' (BitVec.ofNat 32 w1), CW.mk' (b.smask.extractLsb' 0 32), CW.mk' (b.smask.extractLsb' 32 32),
    CW.mk' (BitVec.ofNat 32 (b.sk % 65536))] ++ List.replicate 11 CW.zero ++ (List.range 64).flatMap fun i => (p.integ i).image

/-- ISAVE. -/
def execIsave (x : D) (s : State) : Out :=
  let word := encode (.isave x)
  let a := s.reg (r5 x.a)
  let p := s.plot s.cur
  settle s (do
    s.datapath word
    s.sources word [r5 x.a]
    need (a.toNat % 64 = 0) .align a
    s.localCheck a.toNat 1088
    if !p.bankQueue.isEmpty then stall s
    pure (s.setPlot s.cur ((numbered p.bankImage).foldl (fun (p : Plot) kw => p.put (a.toNat + 4 * kw.1) kw.2) p)).retire)

/-- An integrator of an image. -/
def integOf (y h c0 c1 : BitVec 32) : Integ :=
  { y := y.toInt, res := (h.extractLsb' 0 16).toInt, dz := (h.extractLsb' 16 8).toInt, cfg := c1 ++ c0, iovf := h.getLsbD 24, ysat := h.getLsbD 25 }

/-- ILOAD from an image. -/
def execIloadImage (x : D) (s : State) : Out :=
  let word := encode (.iloadImage x)
  let a := s.reg (r5 x.a)
  let p := s.plot s.cur
  settle s (do
    s.datapath word
    s.sources word [r5 x.a]
    need (a.toNat % 64 = 0) .align a
    s.localCheck a.toNat 1088
    if !p.bankQueue.isEmpty then stall s
    s.granules word (p.anyStale a.toNat 1088)
    let ws := (List.range 272).map fun k => p.word (a.toNat + 4 * k)
    consumeLocal a.toNat ws
    let v (k : Nat) : BitVec 32 := (ws.getD k CW.zero).v
    let w1 := v 1
    need (v 0 = 0x49470001) .cfgbad word
    need (w1 &&& 0xFFFE_F0C0#32 = 0 && (v 4).toNat < 65536 && ((List.range 11).all fun k => v (5 + k) = 0)) .cfgbad word
    need ((List.range 64).all fun i => (v (17 + 4 * i)).toNat < 2 ^ 26) .cfgbad word
    match (List.range 64).findSome? fun i => cfgFault (v (19 + 4 * i) ++ v (18 + 4 * i)) with
    | some c => trap c word
    | none =>
      let b : Bank := { son := w1.getLsbD 0, sfmt := bits w1 1 5, sport := bits w1 8 4, stopped := w1.getLsbD 16, smask := v 3 ++ v 2, sk := (v 4).toNat }
      let q := (List.range 64).foldl (fun (q : Plot) i =>
        let k := 16 + 4 * i
        q.setInt i (integOf (v k) (v (k + 1)) (v (k + 2)) (v (k + 3)))) p
      pure (s.setPlot s.cur { q with bank := b }).retire)

end Sys2Proof.Machine
end

