-- ==== Sys2Proof/Machine/System.lean ====
section
/-! DEFINITION. Class 0x6 but for contexts and gambits: traps and returns, plots, links, the directory, the journal,
translations, messages, the stop of the tempo (R278 to R293, R309, R325, R361, R366, R367, R374). -/

namespace Sys2Proof.Machine

/-! ### TRAP (R286) -/

/-- TRAP with code bit 31 clear: SWTRAP, taken after the instruction. -/
def execTrap (x : SC) (s : State) : Out := .next (s.retireWith { cause := .swtrap, t0 := x.imm.setWidth 64 })

/-- TRAP with code bit 31 set: BRKPT, a fault. -/
def execTrapBrkpt (x : SC) (s : State) : Out := settle s (trap .brkpt ((x.imm &&& 0x7FFF_FFFF#32).setWidth 64))

/-! ### TRET (R283, R286, R325) -/

/-- The loop counters of a record name a beat of its command. -/
def AgRec.inside (r : AgRec) : Bool := (List.range 4).all fun l => (r.i.get 0 l).toNat < r.gstate.count l

/-- The beat that the counters name. -/
def AgRec.beat (r : AgRec) : Nat :=
  let c (l : Nat) : Nat := r.gstate.count l
  let i (l : Nat) : Nat := (r.i.get 0 l).toNat
  i 0 + c 0 * (i 1 + c 1 * (i 2 + c 2 * i 3))

/-- A stopped command continues at its beat; a gather or scatter at its lane. The beats that an edit skips land on the tag. -/
def Plot.resumeGen (p : Plot) (g : Nat) (r : AgRec) : Plot :=
  match (p.genQueue g).head? with
  | none => { p with recs := p.recs.set g {} }
  | some x =>
    let f := r.beat
    let lane := match x.instr with | .sgath _ | .sscat _ => r.lane.toNat | _ => 0
    let h := if f = x.fired then x.h else []
    let p := p.land x.tag ((f - x.fired) * (4 * streamWords x.instr))
    { p.setActor { x with fired := f, lane := lane, h := h } with recs := p.recs.set g {} }

/-- A generator with a live record resumes once its cause has been delivered, or raises AGLOOPBAD (R325). -/
def State.resumeGen (s : State) (a g : Nat) : State :=
  let r := (s.plot a).recs.get {} g
  if !r.live || (s.seqOf a).pend.any (fun y => y.unit = 1 + g) then s
  else if r.inside then s.modPlot a fun p => p.resumeGen g r
  else s.raiseAt a { cause := .agloopbad, unit := 1 + g, t0 := w64 g }

/-- MODE := PMODE, INH := 0, PC := EPC; a hub core stays in supervisor mode (R278), and a plot in it keeps INH (R280). -/
def Seq.goBack (q : Seq) (hub : Bool) : Seq :=
  let m := if hub then 1 else q.pmode
  { q.settled with mode := m, inh := !hub && m = 1, pc := q.epc }

/-- The masks are not all ones, or a TMASK still stands in the queue. -/
def Plot.maskedOff (p : Plot) : Bool :=
  p.rowmask != BitVec.allOnes 128 || p.colmask != BitVec.allOnes 128 ||
    p.actors.any fun x => match x.instr with | .tmask _ => true | _ => false

/-- A return to user mode restores the masks by a marker of the matrix unit (R286). -/
def State.restoreMasks (s : State) (a : Nat) : State :=
  if (s.plot a).maskedOff then s.modPlot a fun p => p.issue { id := 0, instr := .tret } else s

/-- A return of agent `a` to user mode (R286, R325). -/
def State.toUser (s : State) (a : Nat) : State :=
  (List.range 4).foldl (fun s g => s.resumeGen a g) (s.restoreMasks a)

/-- What TRET does, for TRET and for a debugger's resume (R284). -/
def State.returnFrom (s : State) (a : Nat) : State :=
  let s := s.modSeqOf a fun q => q.goBack (isHub a)
  if isHub a || (s.seqOf a).mode != 0 then s else s.toUser a

/-- TRET. -/
def execTret (s : State) : Out :=
  settle s (do
    s.privileged (encode .tret)
    if !isHub s.cur && s.seq.pmode = 0 && (s.plot s.cur).maskedOff then s.markerRoom
    pure (s.returnFrom s.cur))

/-! ### Target plots (R279, R287) -/

/-- The plot that a system instruction names; one that this core has engaged is its own. -/
def State.target (s : State) (word v : Word) : Res Nat := do
  need (v.toNat < 4096) .cfgbad word
  need (namesPlot v.toNat) .routebad word v
  need (!(s.plot v.toNat).engaged || s.seq.busy) .cfgbad word
  pure v.toNat

/-- No strand, no unretired actor, no outstanding engine operation (R287). -/
def State.idlePlot (s : State) (c : Nat) : Bool :=
  (s.seqOf c).run == .idle && (s.plot c).actors.isEmpty && (s.plot c).ops.isEmpty

/-- A system instruction engages its target until it is done. -/
def State.engage (s : State) (c : Nat) : State :=
  (s.modPlot c fun p => { p with engaged := true }).modSeq fun q => { q with busy := true }

def State.disengage (s : State) (c : Nat) : State :=
  (s.modPlot c fun p => { p with engaged := false }).modSeq fun q => { q with busy := false }

/-- The status SCRUBREQ. -/
def scrubreq : Word := 0x8000_0000_0000_005A#64

/-- GENBUMP's action on an idle plot, or its refusal (R287). -/
def State.bumpPlot (s : State) (c : Nat) : Option State :=
  let p := s.plot c
  let regs := (s.seqOf c).regs
  if 0xFF00 ≤ p.gen.toNat + 1 then none
  else some ((s.setPlot c (p.bump (p.gen + 1))).setSeqOf c { regs := regs })

/-- GENBUMP. -/
def execGenbump (x : SC) (s : State) : Out :=
  let word := encode (.genbump x)
  settle s (do
    s.hubOnly word
    let c ← s.target word (s.reg x.sa)
    need (s.idlePlot c) .cfgbad word
    match s.bumpPlot c with
    | none => pure (s.setReg x.sd scrubreq).retire
    | some t => pure (t.setReg x.sd ((t.plot c).gen.setWidth 64)).retire)

/-- Ticks of n cycles of the acre of a plot, rounded up (R394). -/
def State.cyclesToTicks (s : State) (c n : Nat) : Nat :=
  let pt := (s.acre (acreOf c)).point
  (10 * n + pt - 1) / pt

/-- SCRUB: the core stalls for 4,096 cycles of the target's acre. -/
def execScrub (x : SC) (s : State) : Out :=
  let word := encode (.scrub x)
  settle s (do
    s.hubOnly word
    let c ← s.target word (s.reg x.sa)
    need (s.seq.busy || s.idlePlot c) .cfgbad word
    match s.seq.answer with
    | none => stall ((s.engage c).modSeq fun q => { q with answer := some (s.tempo + w64 (s.cyclesToTicks c 4096)) })
    | some d =>
      if s.tempo.toNat < d.toNat then stall s
      else
        let t := (s.disengage c).modPlot c Plot.scrub
        let t := t.modSeqOf c fun q => { q with regs := [] }
        pure (t.setReg x.sd 0).retire)

/-- A plot runs a user strand: one that has not ended, whether it issues, is held or stands in debug mode (R288). -/
def Seq.runsUser (q : Seq) : Bool :=
  (match q.run with | .idle | .ended | .failed | .saved => false | _ => true) && (q.mode = 0 || (q.mode = 2 && q.pmode = 0))

/-- TMASK (R243, R288): a marker of the matrix unit of the issuing plot, or of a hub core's target. -/
def execTmask (x : SC) (s : State) : Out :=
  let word := encode (.tmask x)
  let y : Actor := { id := 0, instr := .tmask x, pc := s.seq.pc, sv := [s.reg x.sa, s.reg x.sb] }
  settle s (do
    s.privileged word
    if isHub s.cur then
      let c ← s.target word (s.reg x.sd)
      need (!(s.seqOf c).runsUser) .cfgbad word
      if 16 ≤ (s.plot c).markers then stall s
      pure (s.modPlot c fun p => p.issue y).retire
    else
      need (x.sd = 0) .rsvfld word
      s.sources word [x.sa, x.sb]
      s.markerRoom
      pure (s.modPlot s.cur fun p => p.issue y).retire)

/-! ### Messages, translations, the stop of the tempo (R293) -/

/-- MBOX. -/
def execMbox (x : SC) (s : State) : Out :=
  let word := encode (.mbox x)
  let core := bits x.imm 0 8
  settle s (do
    s.privileged word
    need (core ≤ 31) .cfgbad word
    s.sources word [x.sa, x.sb]
    if 64 ≤ (s.seqOf (hubAgent core)).mail.length then stall s
    pure ((s.mailTo (hubAgent core) s.cur (bits x.imm 16 16) (s.reg x.sa) (s.reg x.sb)).setReg x.sd 0).retire)

/-- The translations that a TLBINV names. -/
def invalidates (mode asid vpn : Nat) (t : Tlb) : Bool :=
  match mode with
  | 0 => t.covers asid vpn
  | 1 => t.asid = asid
  | _ => true

/-- An engine operation still uses a translation that is to be invalidated (R187). -/
def State.opsHold (s : State) (f : Tlb → Bool) : Bool := s.plots.any fun kp => kp.2.ops.any fun o => o.pages.any f

/-- The stores of an agent that were made through a translation that is to be invalidated and are not yet performed at their
homes, with the rest of their units. A hub core without translation has none. -/
def State.storesUnder (s : State) (f : Tlb → Bool) (a : Nat) : List Nat :=
  let l := (s.view a).unpublished
  let hit (st : Store) : Bool := s.asidOf a < 65536 && f { asid := s.asidOf a, vpn := vpnOf st.va, big := st.big, pte := 0 }
  closeStores l l.length ((l.filter hit).map (·.id))

/-- Every access made through a translation has been performed before the TLBINV that drops it completes (R314): an agent's
stores are performed at their homes now, ahead of its release (the model's choice, log entry 72). What a home refuses is not
performed, and its agent is told (R363). -/
def State.performUnder (s : State) (f : Tlb → Bool) (a : Nat) : Res State :=
  let ids := s.storesUnder f a
  if ids.isEmpty then .ok s
  else match s.storesReach a 9 none ((s.view a).chosen ids) with
    | .ok s => .ok (s.performAll a { scope := 3, episode := none, ids := ids, quiet := true })
    | .error (.stall t) => stall t
    | .error (.trap r) => stall (s.refuseStores a r)

/-- The translations are dropped everywhere, and the answers of walks that began before (R293). -/
def State.dropTlbs (s : State) (f : Tlb → Bool) (mode asid : Nat) : State :=
  let keep (l : List Tlb) : List Tlb := l.filter fun t => !f t
  let plots := s.plots.map fun kp => (kp.1, { kp.2 with utlb := keep kp.2.utlb })
  let acres := s.acres.map fun ka => (ka.1, { ka.2 with tlb := keep ka.2.tlb })
  let seqs := s.seqs.map fun kq => (kq.1, if mode = 2 || kq.2.ctx.asid = asid then { kq.2 with faults := [] } else kq.2)
  { s with plots := plots, acres := acres, seqs := seqs }

/-- TLBINV. -/
def execTlbinv (x : SC) (s : State) : Out :=
  let word := encode (.tlbinv x)
  let mode := bits x.imm 0 2
  let asid := bits (s.reg x.sa) 0 16
  let f := invalidates mode asid (vpnOf (s.reg x.sb))
  settle s (do
    s.privileged word
    need (mode != 3) .rsvfld word
    need (isHub s.cur || (mode != 2 && asid = s.seq.ctx.asid)) .priv word
    s.sources word [x.sa, x.sb]
    if s.opsHold f then stall s
    let s ← (s.views.map (·.1)).foldlM (fun s a => s.performUnder f a) s
    pure (s.dropTlbs f mode asid).retire)

/-- The module is to stop at a tick, or earlier where an earlier stop stands (R293). -/
def State.stopBy (s : State) (t : Word) : State :=
  let first : Bool := match s.power.stopAt with | some u => t.toNat < u.toNat | none => true
  if first then { s with power := { s.power with stopAt := some t, warned := false } } else s

/-- TEMPOSTOP: the stop that comes first stands. -/
def execTempostop (x : SC) (s : State) : Out :=
  let word := encode (.tempostop x)
  let t := s.reg x.sa
  settle s (do
    s.hubOnly word
    need (s.tempo.toNat < t.toNat) .cfgbad word
    let s := s.stopBy t
    pure (if x.imm.getLsbD 0 then { s with power := { s.power with podStop := s.power.stopAt } } else s).retire)

/-! ### The journal and the directory (R292, R293) -/

/-- The words of journal entries from index i on. -/
def State.journalWords (s : State) (i n : Nat) : List CW :=
  (List.range (16 * n)).map fun k => s.phys.word false (Config.journalBase + 64 * ((i + k / 16) % Config.journalSlots) + 4 * (k % 16))

/-- JRNLRD. -/
def execJrnlrd (x : SC) (s : State) : Out :=
  let word := encode (.jrnlrd x)
  let i := (s.reg x.sa).toNat
  let a := s.reg x.sb
  let j := s.obs.journal
  let n := Nat.min (bits x.imm 0 8 + 1) (j.w - i)
  settle s (do
    s.hubOnly word
    need (a.toNat % 64 = 0) .align a
    need (j.b ≤ i) .cfgbad word
    if n != 0 then s.reachPages a (64 * n) 1 true
    let t ← s.storeSpan a (s.journalWords i n) 0
    let t := if x.imm.getLsbD 8 then t.modObs fun o => { o with journal := { o.journal with b := i + n } } else t
    pure ((t.setReg x.sd (w64 n)).watchAccess a (64 * n) true).retire)

/-- A leaf maps a frame of an address as pod-coherent. -/
def Tlb.podAt (t : Tlb) (pa : Nat) : Bool :=
  ptePodc t.pte && (if t.big then bits t.pte 29 23 = pa / 2 ^ 29 else pteBase t.pte = pa / 65536 * 65536)

/-- A page that lies in no enabled pod range is known to be pod-coherent where the directory or a cache has dealt with the sector,
or where a TLB holds such a translation of it (R361). -/
def State.podKnown (s : State) (pa : Nat) : Bool :=
  let sec := pa / 64
  (s.fabric.dir.find sec).isSome || (s.fabric.lines.find sec).isSome || s.fabric.dirQ.any (fun r => r.kind < 10 && r.sector = sec) ||
    s.acres.any (fun ka => ka.2.tlb.any (·.podAt pa)) || s.plots.any fun kp => kp.2.utlb.any (·.podAt pa)

/-- A sector that this module homes on a pod-coherent page (R292, R361). -/
def State.homesSector (s : State) (pa : Word) : Bool :=
  pa.toNat < 2 ^ 52 && s.homedHere pa.toNat && ((s.podRangeOf pa.toNat).isSome || s.podKnown pa.toNat)

/-- Requests that wait at this directory for a sector. -/
def State.waitingFor (s : State) (sector : Nat) : Nat := (s.fabric.dirQ.filter fun r => r.kind < 9 && r.sector = sector).length

def maskOf (l : List Nat) : Nat := (List.range 16).foldl (fun n k => if l.contains k then n + 2 ^ k else n) 0

/-- The entry as DIRQ returns it. -/
def State.dirWord (s : State) (sector : Nat) : Word :=
  let e := s.fabric.dir.get {} sector
  packed [(e.st, 0), (b2n e.poison, 3), (e.owner % 16, 4), (maskOf e.sharers, 8), (Nat.min 255 (s.waitingFor sector), 24)]

/-- DIRQ. -/
def execDirq (x : SC) (s : State) : Out :=
  let word := encode (.dirq x)
  let a := s.reg x.sa
  settle s (do
    s.hubOnly word
    need (a.toNat % 64 = 0) .align a
    need (s.homesSector a) .cfgbad word
    pure (s.setReg x.sd (s.dirWord (a.toNat / 64))).retire)

/-- An entry of the directory; one in state I is not kept. -/
def State.setDir (s : State) (sec : Nat) (e : DirEntry) : State :=
  s.modFabric fun f => { f with dir := if e.st = 0 then f.dir.del sec else f.dir.set sec e }

def State.setLine (s : State) (sec : Nat) (l : Option PodLine) : State :=
  s.modFabric fun f => { f with lines := match l with | some l => f.lines.set sec l | none => f.lines.del sec }

def State.sectorOf (s : State) (sec : Nat) : List CW := (List.range 16).map fun k => s.phys.word false (sec * 64 + 4 * k)

/-- A request leaves the queue with its answer: to this module's own agent, or in a response flit; a recall has none. `dirty` tells that the data
are newer than memory's. -/
def State.answerReq (s : State) (r : DirReq) (err : Option Cause) (dirty : Bool) (ws : List CW) : State :=
  let s := s.modFabric fun f => { f with dirQ := f.dirQ.filter (·.id != r.id) }
  if r.kind = 9 then s
  else if r.modl = s.fabric.podIndex then
    match err with
    | some c => s.modSeqOf r.agent fun q => { q with replies := q.replies ++ [{ unit := r.unit, sector := r.sector, cause := c }] }
    | none =>
      match r.kind with
      | 0 => s.setLine r.sector (some { st := 1, words := ws })
      | 1 => s.setLine r.sector (some { st := if dirty then 3 else 2, words := ws })
      | k => s.modFabric fun f => { f with granted := f.granted ++ [(r.agent * 16 + r.unit, k, r.sector)] }
  else
    s.emit [{ dst := r.modl, src := s.fabric.podIndex, typ := 1, seq := 0, ack := 0, target := r.sector, index := r.kind, req := r.agent,
              part := b2n dirty, status := (match err with | some c => c.code.toNat | none => 0), payload := ws }]

/-- The requests that wait on an owner-lost sector receive the owner-lost reply; an owner's release is dropped (R292, R363). -/
def State.refuseWaiting (s : State) (sec : Nat) : State :=
  (s.fabric.dirQ.filter fun r => r.kind < 10 && r.sector = sec).foldl (fun s r =>
    if r.kind = 3 then s.modFabric (fun f => { f with dirQ := f.dirQ.filter (·.id != r.id) })
    else s.answerReq r (some .ownlost) false []) s

/-- The words of a sector written to memory, each with its code. -/
def State.writeSectorWords (s : State) (pa : Nat) (ws : List CW) : State :=
  (List.range 16).foldl (fun s k => s.putMemory (pa + 4 * k) (ws.getD k CW.zero)) s

/-- DIRRECLAIM. -/
def execDirreclaim (x : SC) (s : State) : Out :=
  let word := encode (.dirreclaim x)
  let a := s.reg x.sa
  let b := s.reg x.sb
  let sector := a.toNat / 64
  settle s (do
    s.hubOnly word
    need (a.toNat % 64 = 0) .align a
    need (b.toNat % 64 = 0) .align b
    need (s.homesSector a) .cfgbad word
    need ((s.fabric.dir.get {} sector).st = 4) .cfgbad word
    s.reachPages b 64 0 false
    let (ws, s) ← s.readSpan b 1
    match (List.range 16).find? fun k => (ws.getD k CW.zero).c = 15 with
    | some k => trap .poison (b + w64 (4 * k))
    | none =>
      let s := ((s.refuseWaiting sector).writeSectorWords a.toNat ws).setDir sector {}
      pure (s.watchAccess b 64 false).retire)

/-! ### Links (R291, R360, R366, R367, R381, R382) -/

/-- A link by its name; none where another bit is set or no such link is there. -/
def linkOf (v : Word) : Option Nat :=
  let ok := v.toNat < 0x1_0000 && (match bits v 12 4 with
    | 0 => bits v 8 4 < 12 && bits v 3 5 = 0
    | 1 => bits v 4 8 = 0
    | 2 => bits v 1 11 = 0
    | _ => false)
  if ok then some v.toNat else none

def isEther (l : Nat) : Bool := l / 0x1000 = 2
def isUcie (l : Nat) : Bool := l / 0x1000 = 0

/-- The core whose operation is the next at a link's controller: the first to come of those that stand in a stall (R291). -/
def State.nextAtLink (s : State) (k : Link) : Option Nat := k.waiting.find? fun a => (s.seqOf a).stalled && (s.seqOf a).run == .running

/-- What every LNKCTL begins with: the link it acts on. Operations run one at a time in arrival order: one that another core's
precedes is waited for. -/
def State.lnkctl (s : State) (word : Word) (x : SC) (admitted : Nat → Bool) : Res (Nat × State) := do
  s.hubOnly word
  match linkOf (s.reg x.sa) with
  | none => trap .cfgbad word
  | some l =>
    need (!isEther l) .cfgbad word
    let k := s.link l
    let others : Bool := match s.nextAtLink k with | some a => a != s.cur | none => false
    if !s.seq.busy && (k.quiesceAt.isSome || others) then
      stall (s.setLink l { k with waiting := if k.waiting.contains s.cur then k.waiting else k.waiting ++ [s.cur] })
    need (s.seq.busy || admitted k.st) .cfgbad word
    pure (l, s.setLink l { k with waiting := k.waiting.filter (· != s.cur) })

/-- 2^63 + LNKDOWN. -/
def lnkdown : Word := 0x8000_0000_0000_0046#64

/-- A QUIESCE ends: with its state and what it returns. -/
def State.endQuiesce (s : State) (x : SC) (l st : Nat) (v : Word) : State :=
  let s := (s.setLink l { s.link l with st := st, quiesceAt := none }).modSeq fun q => { q with busy := false }
  (s.setReg x.sd v).retire

/-- LNKCTL QUIESCE: new flits are held from its start on. -/
def execLnkctlQuiesce (x : SC) (s : State) : Out :=
  let word := encode (.lnkctlQuiesce x)
  settle s (do
    let (l, s) ← s.lnkctl word x (· = 0)
    need (s.reg x.sb = 0) .rsvfld word
    let k := s.link l
    let late : Bool := match k.quiesceAt with | some t => t.toNat + 100_000 ≤ s.tempo.toNat | none => false
    if k.st = 3 then pure (s.endQuiesce x l 3 lnkdown)
    else if k.replay = 0 then pure (s.endQuiesce x l 1 0)
    else if late then pure (s.endQuiesce x l 3 lnkdown)
    else
      let k := { k with quiesceAt := some (k.quiesceAt.getD s.tempo) }
      stall ((s.setLink l k).modSeq fun q => { q with busy := true }))

/-- LNKCTL REMAP. -/
def execLnkctlRemap (x : SC) (s : State) : Out :=
  let word := encode (.lnkctlRemap x)
  let v := s.reg x.sb
  settle s (do
    let (l, s) ← s.lnkctl word x (fun st => st = 1 || st = 3)
    need (v.toNat < 0x400 && bits v 6 2 = 0) .rsvfld word
    let k := s.link l
    need ((k.spares.find (bits v 8 2)).isNone) .cfgbad word
    let s := s.setLink l { k with spares := k.spares.set (bits v 8 2) (bits v 0 6) }
    let s := s.report (0x3000 + l % 4096) 0x0B 0 0 0 (w64 (bits v 0 6))
    let s := if isUcie l then s.raiseSup .ucierep (w64 l) (w64 (bits v 0 6)) else s
    pure (s.setReg x.sd 0).retire)

/-- A lane of the segment does not train, and no spare serves it. -/
def Link.segmentBad (k : Link) (width seg : Nat) : Bool :=
  (List.range width).any fun i => k.badLanes.getLsbD (width * seg + i) && !k.spares.any (fun y => y.2 = width * seg + i)

/-- LNKCTL RETRAIN. -/
def execLnkctlRetrain (x : SC) (s : State) : Out :=
  let word := encode (.lnkctlRetrain x)
  let v := s.reg x.sb
  let width := 64 / 2 ^ bits v 0 2
  settle s (do
    let (l, s) ← s.lnkctl word x (fun st => st != 0)
    need (v.toNat < 16 && bits v 0 2 != 3 && bits v 2 2 < 64 / width) .rsvfld word
    let k := s.link l
    if k.segmentBad width (bits v 2 2) then pure ((s.setLink l { k with st := 3 }).setReg x.sd lnkdown).retire
    else
      let s := s.setLink l { k with st := 2, width := width }
      let s := if isUcie l && width < 64 then s.raiseSup .lnkdegr (w64 l) (w64 width) else s
      pure (s.setReg x.sd (w64 width)).retire)

/-- The link is ACTIVE; the flits that it kept leave first. -/
def State.activate (s : State) (l : Nat) : State :=
  let k := s.link l
  let n : BitVec 16 := BitVec.ofNat 16 k.kept.length
  (s.setLink l { k with st := 0, kept := [], replay := 0, sent := k.sent - n }).modFabric fun f => { f with out := k.kept ++ f.out }

/-- LNKCTL RESUME. -/
def execLnkctlResume (x : SC) (s : State) : Out :=
  let word := encode (.lnkctlResume x)
  settle s (do
    let (l, s) ← s.lnkctl word x (· = 2)
    need (s.reg x.sb = 0) .rsvfld word
    pure ((s.activate l).setReg x.sd 0).retire)

/-- LNKCTL MARGIN: the eye is a free value from 0 to 1,000, its lane one of the link's. -/
def execLnkctlMargin (x : SC) (s : State) : Out :=
  let word := encode (.lnkctlMargin x)
  settle s (do
    let (l, s) ← s.lnkctl word x (· = 2)
    need (s.reg x.sb = 0) .rsvfld word
    let (n, s) := s.draw
    let eye := (Config.eye n).toNat % 1001
    let lane := (Config.eyeLane n).toNat % 64
    let _ := l
    pure (s.setReg x.sd (packed [(eye, 0), (lane, 16), (b2n (eye < 300), 63)])).retire)

/-- The threshold of retries and its window in ticks (R367). -/
def State.retryLimit (s : State) : Nat × Nat :=
  let t := bits s.fabric.retryCfg 0 32
  let w := bits s.fabric.retryCfg 32 32
  (if t = 0 then 64 else t, 1000 * (if w = 0 then 1000 else w))

/-- A link with its counts of the window that it is in: those of a window that has ended are 0 (R291, R356, R367). -/
def State.linkNow (s : State) (l : Nat) : Link :=
  let k := s.link l
  let window := if isEther l then 1_000_000 else s.retryLimit.2
  if k.winAt.toNat + window ≤ s.tempo.toNat then { k with retries := 0, fecFails := 0, winAt := s.tempo, raised := false } else k

/-- An item of a link's status. -/
def Link.item (k : Link) (l item : Nat) : Word :=
  match item with
  | 0 => w64 (if isEther l then k.fecFails else k.retries)
  | 1 => k.errMap
  | 2 =>
    if isEther l then packed [(if k.st = 3 then 0 else k.width, 0), (k.st, 8)]
    else packed [(k.width, 0), (k.st, 8), (k.replay, 16), (k.spares.length, 32), (b2n k.reduce, 36)]
  | _ => packed ((List.range 4).map fun i => ((match k.spares.find i with | some lane => lane + 128 | none => 0), 8 * i))

/-- LNKST (R291). -/
def execLnkst (x : SC) (s : State) : Out :=
  let word := encode (.lnkst x)
  let item := bits x.imm 0 2
  settle s (do
    s.hubOnly word
    match linkOf (s.reg x.sa) with
    | none => trap .cfgbad word
    | some l =>
      need (!(isEther l && (item = 1 || item = 3))) .cfgbad word
      let k := s.linkNow l
      let k' : Link :=
        if !x.imm.getLsbD 8 then k
        else if item = 0 then { k with retries := 0, fecFails := 0, raised := false }
        else if item = 1 then { k with errMap := 0 }
        else k
      pure ((s.setLink l k').setReg x.sd (k.item l item)).retire)

/-- QUIESCE_TIMEOUT (R291): 100 µs after its start, a QUIESCE whose replay buffer is not empty leaves the link DOWN. -/
def execQuiesceTimeout (s : State) : Out :=
  let k := s.link s.evt.a
  match k.quiesceAt with
  | some t =>
    if t.toNat + 100_000 ≤ s.tempo.toNat && k.replay != 0 then .next (s.setLink s.evt.a { k with st := 3 }) else .next s
  | none => .next s

/-! ### Delivery of boundary exceptions (R282, R283) -/

/-- BOUNDARY_EXCEPTION: the pending exception with the lowest cause code is delivered to agent a, EPC the first instruction
not executed. -/
def execBoundaryException (s : State) : Out :=
  let a := s.evt.a
  let q := s.seqOf a
  let t := { s with cur := a }
  if !q.delivers || !t.atBoundary t.atPc then .next s
  else match q.nextRaise with
    | none => .next s
    | some r =>
      let s := { s with cur := a }
      .next ((s.modSeq fun q => q.dropRaise r).takeException r true q.pc)

end Sys2Proof.Machine
end

