-- ==== Sys2Proof/Machine/Context.lean ====
section
/-! DEFINITION. Drains, context saves and loads, relinking, folded plots, the watchdog and escalation (R288 to R290, R328 to
R338). -/

namespace Sys2Proof.Machine

/-! ### The watchdog (R328, R337) -/

/-- The last tick at which a strand of the launch completed an instruction, or an actor, stream or engine of it moved. -/
def State.lastRestart (s : State) (l : Launch) : Word :=
  if l.wdogStop then l.wdogAt
  else (s.agentsWith fun c => c.launch = l.id).foldl (fun m a =>
    let x := if (s.seqOf a).lastDone.toNat < (s.plot a).lastAct.toNat then (s.plot a).lastAct else (s.seqOf a).lastDone
    if m.toNat < x.toNat then x else m) l.wdogAt

/-- From a DRAINMK or CTXSAVE on, the watchdog no longer restarts. -/
def State.stopRestarts (s : State) (launch : Nat) : State :=
  match s.launch? launch with
  | some l => s.modLaunch launch fun k => { k with wdogAt := s.lastRestart l, wdogStop := true }
  | none => s

/-- No context of the launch is on a plot: it is saved (R328). -/
def State.offPlots (s : State) (launch : Nat) : Bool := (s.agentsWith fun c => c.launch = launch).isEmpty

/-- The watchdog goes on after a pause: what was left of its interval still is; after a restart in the pause all of it is. -/
def State.resumeWdog (s : State) (launch : Nat) : State :=
  match s.launch? launch with
  | none => s
  | some l =>
    if s.offPlots launch || (s.agentsWith fun c => c.launch = launch).any fun a => (s.seqOf a).mode = 2 then s
    else match l.wdogHeld with
      | none => s
      | some t =>
        let r := s.lastRestart l
        s.modLaunch launch fun k => { k with wdogAt := if t.toNat < r.toNat then s.tempo else r + (s.tempo - t), wdogHeld := none }

/-- Header bits of a save area (R335): 0 RELINKED, 1 LOST, 2 FOLDED. -/
def State.areaFlags (s : State) (pa : Nat) : Nat := s.phys.num (pa + 6) 2
def State.setAreaFlags (s : State) (pa f : Nat) : State := { s with phys := s.phys.putNum (pa + 6) 2 f }

/-- Areas that firmware holds; the scheduler's own have keys from 2^60 on (R334). -/
def isFoldKey (k : Nat) : Bool := 2 ^ 60 ≤ k

/-- A plot's remnants read zero under a new generation. -/
def State.bumpRemnants (s : State) (c : Nat) : State :=
  let p := s.plot c
  let regs := p.regsAfter (s.seqOf c).regs
  (s.setPlot c p.freshGen).modSeqOf c fun q => { q with regs := regs }

/-- A watchdog expiry during a drain or a save (R337): the save is abandoned. -/
def State.loseSave (s : State) (l : Launch) : State :=
  let keys := (s.areas.filter fun ka => ka.2.seq.ctx.launch = l.id && !isFoldKey ka.1).map (·.1)
  let plots := s.agentsWith fun c => c.launch = l.id
  let at_ := (plots.find? fun c => (s.plot c).engaged).getD ((l.tracts.flatMap Tract.plots).headD 0)
  let s := keys.foldl (fun s k => s.setAreaFlags k (s.areaFlags k ||| 2)) s
  let s := s.failLaunch l.id .wdogsave
  let s := plots.foldl (fun s c => s.bumpRemnants c) s
  let s := s.modLaunch l.id fun k => { k with lost := true, wdogArmed := false, tracts := k.tracts.map fun t => { t with drain := none } }
  let s := s.modSched fun c => { c with drains := c.drains.filter (·.launch != l.id) }
  s.raiseSup .wdogsave (w64 l.rcb) (w64 at_)

/-- A drain or a save of the launch is under way. -/
def State.saving (s : State) (l : Launch) : Bool :=
  l.tracts.any (·.drain.isSome) || (s.agentsWith fun c => c.launch = l.id).any fun a => (s.seqOf a).req.save || (s.plot a).engaged

/-- WATCHDOG_EXPIRY (R328, R337). -/
def execWatchdogExpiry (s : State) : Out :=
  match s.launch? s.evt.a with
  | none => .next s
  | some l =>
    let on := s.agentsWith fun c => c.launch = l.id
    if !l.wdogArmed || l.wdogUs = 0 || l.wdogHeld.isSome || on.isEmpty || s.tempo.toNat < (s.lastRestart l).toNat + 1000 * l.wdogUs then
      .next s
    else if s.saving l then .next (s.loseSave l)
    else
      let s := (s.raiseSup .wdog (w64 l.rcb)).failLaunch l.id .wdog
      .next (s.modLaunch l.id fun k => { k with wdogArmed := false })

/-- PREEMPTION_ESCALATION (R329): a request that has been pending for 100 µs. -/
def execPreemptionEscalation (s : State) : Out :=
  let q := s.seqOf s.evt.a
  if q.req.pending && q.req.since.toNat + 100_000 ≤ s.tempo.toNat then
    .next (s.modSeqOf s.evt.a fun q => { q with req := { q.req with escalated := true } })
  else .next s

/-! ### Whether a tract is at rest (R330, R331) -/

/-- The strand has stopped issuing. -/
def State.hasStopped (s : State) (c : Nat) : Bool :=
  let q := s.seqOf c
  q.mode = 2 || !(q.run == .running || q.run == .exhausted)

/-- A source port or sink leads on to these places: through the actors that take from it, or by its wirings. Ports are
numbered as in `Plot`. -/
def State.onward (s : State) (x : Nat × Nat) : List (Nat × Nat) :=
  let p := s.plot x.1
  if 16 ≤ x.2 && x.2 < 32 then
    (p.routes.get [] (x.2 - 16)).flatMap fun r =>
      if r.2.kind = 0 then [(x.1, r.2.port)] else (s.receivers x.1 r.2).map fun d => (d, r.2.port)
  else
    (p.actors.filter fun y => y.keys.contains x.2).flatMap fun y => y.keys.filterMap fun k =>
      if 16 ≤ k && k < 32 then some (x.1, k) else if 96 ≤ k && k < 104 then some (x.1, k - 64) else none

/-- The places that tokens at some places can come to. -/
def State.reaches (s : State) : Nat → List (Nat × Nat) → List (Nat × Nat)
  | 0, l => l
  | n + 1, l => s.reaches n (l ++ l.flatMap s.onward).eraseDups

/-- The port of the A operand of a matrix operation that has begun and still takes beats from ports (R330). -/
def startedInput (x : Actor) : Option Nat :=
  match mmaOf x.instr with
  | some m => if !m.fromOp && (x.started || x.fired != 0) then some m.port else none
  | none => none

/-- Beats that a started operation will still take from its port, beyond those that stand there. -/
def Plot.wantsMore (p : Plot) (k : Nat) : Bool :=
  p.actors.any fun x => startedInput x == some k &&
    (match x.left with | some n => (p.port k).length + x.fired < n | none => true)

/-- The port that a stream read fills. -/
def readPort : Instr → Option Nat
  | .sld x | .sgath x => some x.a.toNat
  | _ => none

/-- A stream read goes on for a matrix operation that has begun (R330). -/
def State.feedsStarted (s : State) (c port : Nat) : Bool :=
  (s.plot c).wantsMore port ||
    ((s.reaches 40 [(c, port)]).drop 1).any fun x => (s.plot x.1).actors.any fun y => startedInput y == some x.2

/-- An event would change the machine. -/
def State.stirs (s : State) (e : State → Out) (x : EvArgs) : Bool :=
  let s := { s with evt := x }
  match e s with | .next t => t != s | _ => false

/-- Something of a plot but its engine operations and stream reads can move. -/
def State.moves (s : State) (c : Nat) : Bool :=
  let x : EvArgs := { a := c }
  [execActorFiring, execMatrixStep, execFollowOnMmaStart, execDrainFiring, execAccumulatorSpill, execMatrixMarkerEffect, execIstepFiring,
    execBankMarkerEffect].any (fun e => s.stirs e x) ||
  (List.range 16).any (fun k => s.stirs execTokenSend { a := c, b := k } || s.stirs execBeatReplay { a := c, b := k }) ||
  (List.range 4).any (fun g => s.stirs execStreamBeat { a := c, b := g })

/-- The plots at rest together: strands stopped, stream reads parked or stopped by a fault, engine operations done, no token
in flight, and nothing that can move, limits of ACTRATE left aside. -/
def State.atRest (s : State) (ps : List Nat) : Bool :=
  let unlimited := ps.foldl (fun s c => s.modPlot c fun p => { p with rates := [] }) s
  ps.all (fun c => s.hasStopped c && !s.frozen c && (s.plot c).ops.isEmpty && (s.plot c).actors.all fun x =>
    (readPort x.instr).isNone || x.parked || (match genOfInstr x.instr with | some g => ((s.plot c).recs.get {} g).live | none => true)) &&
  !s.flight.any (fun f => ps.contains f.dst) && !s.misses.any (fun m => m.reqs.any fun r => ps.contains r.agent) &&
  !ps.any fun c => unlimited.moves c

/-- A stream write could perform its next beat but for its memory: it is its turn, and its tokens are there. -/
def Plot.canBeat (p : Plot) (g : Nat) (x : Actor) (sink : Nat) (ix : List Nat) : Bool :=
  ((p.genQueue g).head?.map (·.id)) == some x.id && !p.streamBlocked x.id x.instr && p.turn x &&
    (match p.head? (16 + sink) with | some t => (p.wiring sink t).kind = 4 | none => false) && ix.all fun k => !(p.port k).isEmpty

/-- An actor or command may park (R331): a stream read at a beat boundary unless R330 keeps it reading; a write whose sink
or indices have run out, or whose generator has stopped; an actor without inputs after a firing; any other once the plots
are at rest. A matrix operation that has begun does not park, nor the follow-on of a CPYMM. -/
def State.mayPark (s : State) (c : Nat) (x : Actor) (ps : List Nat) : Bool :=
  let p := s.plot c
  let faulted := match genOfInstr x.instr with | some g => (p.recs.get {} g).live | none => false
  match x.instr with
  | .sld d => faulted || !s.feedsStarted c d.a.toNat
  | .sgath d => faulted || (x.lane = 0 && !s.feedsStarted c d.a.toNat)
  | .sfill _ => true
  | .sst d => faulted || (!p.canBeat d.a.toNat x d.b.toNat [] && s.atRest ps)
  | .sscat d => faulted || (x.lane = 0 && !p.canBeat d.a.toNat x d.b.toNat [d.d.toNat] && s.atRest ps)
  | .mma _ | .mmaz _ => !x.started && x.fired = 0 && s.atRest ps
  | .cpymm _ => false
  | .adrain d => !d.c.getLsbD 7 || s.atRest ps
  | .viota _ | .pgen _ => true
  | .istep d => !d.b.getLsbD 4 || s.atRest ps
  | i => ((vecOf i).isSome || isBank i) && s.atRest ps

/-- The plots that a drain or a save of plot c stops: its whole tract, or itself. -/
def State.stopSet (s : State) (c : Nat) : List Nat :=
  match s.tractOf c with
  | some t => if t.drain.isSome then t.plots else if (s.seqOf c).req.save then [c] else []
  | none => []

/-- ACTOR_PARK (R331): actor b of plot a parks; it leaves the end markers of its outputs to those behind it. -/
def execActorPark (s : State) : Out :=
  let c := s.evt.a
  let ps := s.stopSet c
  match (s.plot c).actors.find? (·.id = s.evt.b) with
  | none => .next s
  | some x =>
    if ps.isEmpty || x.parked || !s.mayPark c x ps then .next s
    else .next (s.modPlot c fun p => p.setActor { x with parked := true })

/-- Markers of a unit, and of FENCE and SBAR, wait behind what has parked. -/
def isMarker (i : Instr) : Bool :=
  isMatrixMarker i || (match i with
    | .fence _ | .sbar _ | .icfg _ | .iset _ | .iwire _ | .iunwire _ | .istream _ | .istreamOff | .iinject _ => true
    | _ => false)

/-- Every actor of a plot has parked or waits behind one. -/
def Plot.allParked (p : Plot) : Bool := p.actors.all fun x => x.parked || isMarker x.instr

def State.drained (s : State) (ps : List Nat) : Bool := s.atRest ps && ps.all fun c => (s.plot c).allParked

/-! ### DRAINMK (R288, R331) -/

/-- The plots of a region of a tract, named as DRAINMK names it; none where it leaves the tract. -/
def Tract.region (t : Tract) (imm : BitVec 32) : Option (List Nat) :=
  if imm.getLsbD 14 then some t.plots
  else
    let r := bits imm 0 4
    let f := bits imm 4 3
    let nr := bits imm 7 4 + 1
    let nf := bits imm 11 3 + 1
    if t.nr < r + nr || t.nf < f + nf then none
    else some ({ t with rank := t.rank + r, file := t.file + f, nr := nr, nf := nf }).plots

/-- No mapping of the launch's image fits its plots outside the region (R331). -/
def State.foldFails (s : State) (l : Launch) (region : List Nat) : Bool :=
  let mine := (l.tracts.flatMap Tract.plots).filter fun c => !region.contains c
  let acres := (l.tracts.map (·.acre)).eraseDups
  let others := (acres.flatMap fun a => (List.range 16).flatMap fun r => (List.range 8).map fun f => coordOf a r f).filter fun c => !mine.contains c
  match s.mapsOf l with
  | .error () => true
  | .ok (_, maps) => !maps.any fun x => (findTeam acres others x.shapes).isSome

/-- A placed tract by its origin: the launch, the tract's number, the tract. -/
def State.tractAt (s : State) (c : Nat) : Option (Launch × Nat × Tract) :=
  (s.sched.launches.map (·.2)).findSome? fun l =>
    (List.range l.tracts.length).findSome? fun k =>
      match l.tracts[k]? with
      | some t => if coordOf t.acre t.rank t.file = c then some (l, k, t) else none
      | none => none

/-- A strand is asked to stop. -/
def Seq.ask (q : Seq) (save : Bool) (now : Word) : Seq :=
  let since := if q.req.pending then q.req.since else now
  { q with req := { q.req with save := q.req.save || save, drain := q.req.drain || !save, since := since } }

/-- DRAINMK. -/
def execDrainmk (x : SC) (s : State) : Out :=
  let word := encode (.drainmk x)
  let v := s.reg x.sa
  settle s (do
    s.hubOnly word
    need (!(x.imm.getLsbD 14 && bits x.imm 0 14 != 0)) .rsvfld word
    match s.tractAt v.toNat with
    | none => trap .cfgbad word
    | some (l, k, t) =>
      match t.region x.imm with
      | none => trap .cfgbad word
      | some region =>
        need t.drain.isNone .cfgbad word
        let id := s.sched.nextDrain
        let ff := !x.imm.getLsbD 14 && s.foldFails l region
        let d : Drain := { id := id, core := s.cur - 0x1000, origin := v.toNat, launch := l.id, tract := k, foldfail := ff,
                           plots := if ff then t.plots else region }
        let s := s.stopRestarts l.id
        let s := s.modSched fun c => { c with drains := c.drains ++ [d], nextDrain := if id = 0xFFFF then 1 else id + 1 }
        let s := s.modLaunch l.id fun l => { l with tracts := setAt l.tracts k fun t => { t with drain := some id } }
        let on := (s.agentsWith fun c => c.launch = l.id).filter t.has
        let s := on.foldl (fun s a => s.modSeqOf a fun q => q.ask false s.tempo) s
        pure (s.setReg x.sd (w64 id)).retire)

/-- DRAIN_COMPLETE (R331): the drain's issuer takes PREEMPT, or FOLDFAIL; the plots of the region are fallow. -/
def execDrainComplete (s : State) : Out :=
  match s.sched.drains.find? (·.id = s.evt.a) with
  | none => .next s
  | some d =>
    match (s.launch? d.launch).bind fun l => l.tracts[d.tract]? with
    | none => .next (s.modSched fun c => { c with drains := c.drains.filter (·.id != d.id) })
    | some t =>
      if !s.drained t.plots then .next s
      else
        let s := s.modSched fun c => { c with drains := c.drains.filter (·.id != d.id) }
        let s := d.plots.foldl (fun s c => s.modPlot c fun p => { p with fallow := true }) s
        let s := s.modLaunch d.launch fun l => { l with tracts := setAt l.tracts d.tract fun t => { t with drain := none } }
        .next (s.raiseHub d.core { cause := if d.foldfail then .foldfail else .preempt, t0 := w64 d.id, t1 := w64 d.origin })

/-! ### CTXSAVE (R289, R333, R335) -/

/-- The header of a save area; where the sections stand is a free value. -/
def State.writeHeader (s : State) (pa : Nat) (x : Area) : State :=
  let q := x.seq
  let p := s.phys
  let p := p.putNum pa 4 0x4358_5331
  let p := p.putNum (pa + 4) 4 1
  let p := p.putNum (pa + 8) 4 (x.home + 65536 * x.plot.gen.toNat)
  let p := p.putNum (pa + 0xC) 4 q.ctx.launch
  let p := p.putNum (pa + 0x10) 8 (q.ctx.strandix % 65536)
  let p := p.putDword (pa + 0x18) x.at_
  let p := p.putDword (pa + 0x20) (w64 q.ctx.rcb)
  let p := (p.putDword (pa + 0x28) 0).putDword (pa + 0x30) 0
  let p := p.putDword (pa + 0x38) 0
  let p := (List.range 8).foldl (fun p k => p.putDword (pa + 0x40 + 8 * k) (Config.freeWord (s.fresh + k))) p
  { s with phys := p, fresh := s.fresh + 8 }

/-- A sequencer as a save keeps it: its requests are honoured, its cycles counted; an EQUOTA that fell due is pending (R331). -/
def State.savedSeq (s : State) (c : Nat) : Seq :=
  let q := s.seqOf c
  let due : List Raise := match q.req.quota with | some n => [{ cause := .equota, t0 := w64 n }] | none => []
  { q.settled with req := {}, pend := q.pend ++ due, cycle := s.cycleOf c, cycleAt := s.tempo, faults := [], replies := [] }

/-- A vector accumulator as a save writes it: the words of a tagged one with code 15 (R349). -/
def VAcc.saved (v : VAcc) : VAcc :=
  if v.err then { v with ws := (List.range 64).map fun k => (k, CW.poison (v.ws.get CW.zero k).v), err := false } else v

/-- A plot as a save writes it. -/
def Plot.saved (p : Plot) : Plot := { p with va := p.va.map fun kv => (kv.1, kv.2.saved) }

/-- A strand waits on no event slot any more: at its resumption an EVWAIT is executed afresh (R166). -/
def State.leaveSlots (s : State) (me : Nat) : State :=
  s.modSched fun x => { x with events := x.events.map fun ke => (ke.1, { ke.2 with waiters := ke.2.waiters.filter (·.agent != me) }) }

/-- The plot has given up its context: idle, its tagged state as it was, no port, route or declaration left. -/
def State.vacate (s : State) (c : Nat) : State :=
  let s := s.leaveSlots (strandKey (s.seqOf c).ctx)
  let p := s.plot c
  let regs := (s.seqOf c).regs
  let q : Plot := { p.bump p.gen with folded := p.folded, engaged := p.engaged, fallow := false }
  let s := (s.setPlot c q).setSeqOf c { regs := regs }
  let misses := s.winMisses.filter fun m => m.owner != c
  { s with views := s.views.del c, windows := s.windows.filter (fun w => w.owner != c), winMisses := misses }

/-- The context of plot c leaves it: WINDOW sectors written back, stores published at system scope (R112, R333). What it waits
for is asked for. -/
def State.takeContext (s : State) (c : Nat) : Res (State × Area) :=
  let l := (s.view c).unpublished
  match s.storesReach c 9 none l with
  | .error (.stall t) => .error (.stall t)
  | .error (.trap r) => .error (.stall (s.refuseStores c r))
  | .ok s =>
    let s := s.publish c { scope := 5, episode := none, ids := l.map (·.id) }
    let wins := (s.windows.filter fun w => w.owner = c).map fun w => { w with sectors := [] }
    let s := s.closeWindows c
    let x : Area := { seq := s.savedSeq c, plot := (s.plot c).saved, wins := wins, home := c, at_ := s.tempo }
    .ok (s.vacate c, x)

/-- The address of a save area as the issuing core reaches it. -/
def State.areaPa (s : State) (a : Word) (kind : Nat) : Res Nat := do
  s.reachPages a 0x80_0000 kind true
  let t ← s.translate s.cur 0 a kind
  pure (t.pa a)

/-- The header that stands at an address is the one that a save wrote for the context (R335). -/
def State.headerOf (s : State) (pa : Nat) (x : Area) : Bool :=
  let n (o l : Nat) : Nat := s.phys.num (pa + o) l
  n 0 4 = 0x4358_5331 && n 8 2 % 4096 = x.home && n 0xA 2 = x.plot.gen.toNat && n 0xC 4 = x.seq.ctx.launch &&
    n 0x10 2 = x.seq.ctx.strandix % 65536 && s.phys.dword (pa + 0x18) = x.at_

/-- The context whose area stands at an address: the one saved there, or one whose area has been copied there. -/
def State.areaAt (s : State) (pa : Nat) : Option Area :=
  match (s.areas.find pa).bind fun x => if s.headerOf pa x then some x else none with
  | some x => some x
  | none => (s.areas.find? fun ka => !isFoldKey ka.1 && s.headerOf pa ka.2).map (·.2)

/-- The context of an area has been loaded: it is on a plot again, while the bytes of the area and of its copies stand. -/
def State.loaded (s : State) (x : Area) : State :=
  let same (y : Area) : Bool := y.home = x.home && y.at_ = x.at_ && y.seq.ctx.launch = x.seq.ctx.launch && y.seq.ctx.strandix = x.seq.ctx.strandix
  { s with areas := s.areas.map fun ka => (ka.1, if !isFoldKey ka.1 && same ka.2 then { ka.2 with out := true } else ka.2) }

/-- The strand and its units have stopped at their pre-emption points, and no token is on its way to the plot. -/
def State.readyToSave (s : State) (c : Nat) : Bool := s.drained [c]

/-- CTXSAVE. -/
def execCtxsave (x : SC) (s : State) : Out :=
  let word := encode (.ctxsave x)
  let a := s.reg x.sb
  settle s (do
    s.hubOnly word
    let c ← s.target word (s.reg x.sa)
    need (a.toNat % 65536 = 0) .align a
    let q := s.seqOf c
    need (s.seq.busy || (q.run != .idle && !s.frozen c)) .cfgbad word
    let pa ← s.areaPa a 1
    let lost := match s.launch? q.ctx.launch with | some l => l.lost | none => false
    if !s.seq.busy then
      let s := (s.engage c).stopRestarts q.ctx.launch
      stall (s.modSeqOf c fun q => q.ask true s.tempo)
    else if lost then pure ((s.disengage c).setReg x.sd (statusOf .wdogsave)).retire
    else if !s.readyToSave c then stall s
    else
      let (s, area) ← (s.sampleAcre (acreOf c)).takeContext c
      let s := ({ s with areas := s.areas.set pa area } : State).writeHeader pa area
      let s := if s.offPlots q.ctx.launch then s.holdWdog q.ctx.launch else s
      pure ((s.disengage c).setReg x.sd 0).retire)

/-! ### CTXLOAD (R289, R336) -/

/-- Items of the save are written under the new generation, the others stay as the target has them: stale. -/
def mergeTagged {α : Type} (tag : α → BitVec 16) (set : α → α) (saved : BitVec 16) (old new : NMap α) : NMap α :=
  new.foldl (fun m kv => if tag kv.2 = saved then m.set kv.1 (set kv.2) else m) old

/-- Stash granules inside a LOCAL-KEEP or spill region (R83). -/
def Plot.keptGranule (p : Plot) (g : Nat) : Bool :=
  p.regions.any fun r => (r.kind = 0 || r.kind = 3) && r.base ≤ 64 * g && 64 * g < r.base + r.size

/-- A context's plot state on a plot whose generation has just been bumped. An uncorrectable word of its code store stays one
where its context goes (the model's choice, log entry 75). -/
def Plot.restore (t x : Plot) : Plot :=
  let g := t.gen
  let s := x.gen
  let keep := x.wslots.filter fun kv => kv.2.keep && kv.2.st = 2
  let stash := x.stash.filter fun kv => x.keptGranule kv.1
  let cb := x.cbTag == some s
  { x with
    gen := g,
    stash := mergeTagged Granule.tag (fun y => { y with tag := g }) s t.stash stash,
    va := mergeTagged VAcc.tag (fun y => { y with tag := g }) s t.va x.va,
    accs := mergeTagged Acc.tag (fun y => { y with tag := g }) s t.accs x.accs,
    wslots := mergeTagged WSlot.tag (fun y => { y with tag := g }) s t.wslots keep,
    ints := mergeTagged Integ.tag (fun y => { y with tag := g }) s t.ints x.ints,
    carry := mergeTagged Reg.tag (fun y => { y with tag := g }) s t.carry x.carry,
    cbRows := if cb then x.cbRows else t.cbRows, cbTag := if cb then some g else t.cbTag,
    actors := x.actors.map (fun y => { y with parked := false }),
    replay := [], utlb := t.utlb, rowmask := BitVec.allOnes 128, colmask := BitVec.allOnes 128, started := true, fallow := false,
    engaged := t.engaged, folded := t.folded, lastAct := t.lastAct }

/-- A context comes onto plot c, whose generation has just been bumped. -/
def State.putContext (s : State) (c : Nat) (x : Area) (run : Bool) : State :=
  let p := (s.plot c).restore x.plot
  let regs := mergeTagged Reg.tag (fun y => { y with tag := p.gen }) x.plot.gen (s.seqOf c).regs x.seq.regs
  let r : Run := match x.seq.run with | .ended => .ended | .failed => .failed | _ => if run then .running else .held
  let q : Seq := { x.seq with run := r, regs := regs, cycleAt := s.tempo, stalled := false }
  let s := ((s.setPlot c p).setSeqOf c q).setView c {}
  let s := s.acquire c
  { s with windows := s.windows ++ x.wins.map fun w => { w with owner := c } }

/-- The launch's watchdog runs again, and restarts again once none of its contexts is in a firmware's area. -/
def State.restartWdog (s : State) (launch : Nat) : State :=
  let s := s.resumeWdog launch
  if s.areas.any fun ka => ka.2.live && ka.2.seq.ctx.launch = launch && !isFoldKey ka.1 then s
  else s.modLaunch launch fun l => { l with wdogStop := false }

/-- A folded context joins a plot where another of its launch is resident (R334). -/
def State.joinFold (s : State) (c : Nat) (x : Area) : State :=
  let key := 2 ^ 60 + x.seq.ctx.launch * 65536 + x.seq.ctx.strandix
  { (s.modPlot c fun p => { p with folded := p.folded ++ [key] }) with areas := s.areas.set key { x with home := c, out := false } }

/-- CTXLOAD. -/
def execCtxload (x : SC) (s : State) : Out :=
  let word := encode (.ctxload x)
  let a := s.reg x.sb
  settle s (do
    s.hubOnly word
    let c ← s.target word (s.reg x.sa)
    need (a.toNat % 65536 = 0) .align a
    let pa ← s.areaPa a 0
    match s.areaAt pa with
    | none => trap .cfgbad word
    | some area =>
      let f := s.areaFlags pa
      let launch := area.seq.ctx.launch
      let joins := f.testBit 2 && !s.idlePlot c && (s.seqOf c).ctx.launch = launch
      need (s.idlePlot c || joins) .cfgbad word
      need (!f.testBit 1) .cfgbad word
      need (c = (if f.testBit 0 then s.phys.num (pa + 0x28) 2 % 4096 else s.phys.num (pa + 8) 2 % 4096)) .cfgbad word
      if joins then
        pure ((((s.loaded area).joinFold c area).restartWdog launch).setReg x.sd 0).retire
      else match (s.sampleAcre (acreOf c)).bumpPlot c with
        | none => pure (s.setReg x.sd scrubreq).retire
        | some t =>
          let t := (t.loaded area).putContext c area (x.imm.getLsbD 0)
          pure ((t.restartWdog launch).setReg x.sd 0).retire)

/-! ### RELINK (R290, R338) -/

/-- An entry of the relink list with its saved context. -/
structure Relinked where
  pa : Nat
  coord : Nat
  area : Area
  deriving Repr

/-- The entries of a list of 64-byte-aligned words after its header. -/
def listEntry (ws : List CW) (i : Nat) : Nat × Nat × Bool :=
  let w (k : Nat) : Nat := (ws.getD (4 * i + k) CW.zero).v.toNat
  (w 0 + 2 ^ 32 * w 1, w 2 % 4096, w 2 / 4096 = 0 && w 3 = 0)

/-- The save areas that the entries name. -/
def State.relinkAreas (s : State) (word : Word) (ws : List CW) : Nat → Res (List Relinked)
  | 0 => .ok []
  | n + 1 => do
    let l ← s.relinkAreas word ws n
    let (a, coord, ok) := listEntry ws n
    need (ok && a % 65536 = 0) .cfgbad word
    let pa ← s.areaPa (w64 a) 1
    match s.areaAt pa with
    | none => trap .cfgbad word
    | some x => pure (l ++ [{ pa := pa, coord := coord, area := x }])

/-- Where a strand was: its index in the launch. -/
def Relinked.ix (r : Relinked) : Nat := r.area.seq.ctx.strandix

/-- The tracts of a mapping under the new coordinates: each at the coordinate of its first seat, or where it stands. -/
def newTracts (l : Launch) (x : ImgMap) (same : Bool) (es : List Relinked) : Option (List Tract) :=
  (List.range x.shapes.length).mapM fun t =>
    let sh := x.shapes.getD t (1, 1)
    match es.find? fun e => x.seat e.ix = (t, 0) with
    | some e =>
      let o := if same then (l.tracts.getD t default) else { acre := 0, rank := 0, file := 0, nr := 1, nf := 1, released := true, ranksUp := 16 }
      some { o with acre := acreOf e.coord, rank := rankOf e.coord, file := fileOf e.coord, nr := sh.1, nf := sh.2, released := true, drain := none }
    | none => if same then l.tracts[t]? else none

/-- The first entry that does not stand on the plot of its seat, or on a plot that is not free. -/
def State.misplaced (s : State) (x : ImgMap) (ts : List Tract) (es : List Relinked) : Option Nat :=
  (List.range es.length).find? fun i =>
    match es[i]? with
    | none => false
    | some e =>
      let seat := x.seat e.ix
      let t := ts.getD seat.1 default
      !(namesPlot e.coord && 16 ≥ t.rank + t.nr && 8 ≥ t.file + t.nf && t.plots[seat.2]? == some e.coord && (s.acre t.acre).usable &&
        !s.takenPlots.contains e.coord)

/-- The place of a strand under a mapping whose tracts stand as given. -/
def ImgMap.placeOf (x : ImgMap) (ts : List Tract) (ix : Nat) : Nat :=
  let seat := x.seat ix
  ((ts.getD seat.1 default).plots).getD seat.2 0

/-- A wiring word that the edge-name table names (R275, R277): its name, the strand it stands in, and the word with its coordinate
relocated: of a ROUTE (class 0, by sink), an RTAB (1, by entry) or a BTGIVE (2, by bank). -/
structure NamedEdge where
  name : Nat
  ix : Nat
  cls : Nat
  n : Nat
  r : Route
  deriving DecidableEq, Repr, Inhabited

def wireOf (w : Word) : Option (Nat × Nat × Route) :=
  match decodeWord w with
  | .ok (.routeLocal d) => some (0, d.a.toNat, routeWord d 0)
  | .ok (.routeRemote d) => some (0, d.a.toNat, routeWord d 1)
  | .ok (.routeRank d) => some (0, d.a.toNat, routeWord d 2)
  | .ok (.routeFile d) => some (0, d.a.toNat, routeWord d 3)
  | .ok (.rtab d) => some (1, d.a.toNat, routeWord d (bits d.c 0 4))
  | .ok (.btgive d) => some (2, d.a.toNat, { kind := 1, coord := bits d.e 0 12 })
  | _ => none

/-- The named edges of a mapping of the image, its tracts placed as given. -/
def State.namedEdges (s : State) (m : Img) (h : ImgHead) (x : ImgMap) (ts : List Tract) : Load (List NamedEdge) := do
  let es ← s.imgEdges m h
  let ll ← (List.range x.count).mapM fun ix => do
    let st ← s.imgStrand m h x ix
    let rs ← s.imgRelocs m st
    (es.filter (·.sect = st.sect)).mapM fun e => do
      ok? (e.off % 8 = 0 && e.off < st.len)
      let w ← s.imgCode m st e.off
      let c := if rs.any (·.1 = e.off) then relocate ts (x.seat ix).1 (w.toNat % 4096) else none
      pure ((wireOf (match c with | some c => rewrite w c | none => w)).map fun k =>
        ({ name := e.name, ix := ix, cls := k.1, n := k.2.1, r := k.2.2 } : NamedEdge))
  pure (ll.flatten.filterMap id)

/-- A launch's contexts as they were and as they are to be: mapping, tracts and named edges of both, and which strand goes
where. -/
structure Rewire where
  x0 : ImgMap
  ts0 : List Tract
  es0 : List NamedEdge
  x1 : ImgMap
  ts1 : List Tract
  es1 : List NamedEdge
  moved : List Relinked

/-- The plot that an old coordinate has become for a route with an identifier to a port: that of the strand that was there; among
several the one that expects the identifier. A plot that was not saved stays. -/
def Rewire.place (w : Rewire) (coord port : Nat) (rid : BitVec 12) : Nat :=
  let l := w.moved.filter fun e => w.x0.placeOf w.ts0 e.ix = coord
  match l.find? fun e => e.area.plot.expected.find port == some rid with
  | some e => e.coord
  | none => match l with | e :: _ => e.coord | [] => coord

/-- The new wiring of strand ix for one of its wirings (R275, R338): that of the edge of the same name, the identifier kept. One
that no name stands for leads to the strand that it led to (the model's choice, log entry 78). -/
def Rewire.route (w : Rewire) (ix cls n : Nat) (r : Route) : Route :=
  let same (e : NamedEdge) : Bool := e.ix = ix && e.cls = cls && e.n = n && (e.r = r || (cls = 2 && e.r.coord = r.coord))
  match (w.es0.find? same).bind fun o => w.es1.find? fun e => e.name = o.name && e.ix = ix && e.cls = cls with
  | some e => { e.r with rid := r.rid }
  | none => if r.kind = 1 then { r with coord := w.place r.coord r.port r.rid } else r

/-- The source ports that a wiring of a strand at plot c feeds, its tracts as given. -/
def Route.ends (r : Route) (ts : List Tract) (c : Nat) : List (Nat × Nat) :=
  let mine := match ts.find? (·.has c) with | some t => t.plots | none => [c]
  match r.kind with
  | 0 => [(c, r.port)]
  | 1 => [(r.coord, r.port)]
  | 2 => (mine.filter fun d => rankOf d = rankOf c).map fun d => (d, r.port)
  | 3 => (mine.filter fun d => fileOf d = fileOf c).map fun d => (d, r.port)
  | _ => []

/-- The source port that the tokens of port k of strand ix come to: that of the edge of the same name (R338). -/
def Rewire.port (w : Rewire) (ix k : Nat) : Nat :=
  let feeds (x : ImgMap) (ts : List Tract) (e : NamedEdge) (j : Nat) : Bool :=
    e.cls != 2 && (e.r.ends ts (x.placeOf ts e.ix)).contains (x.placeOf ts ix, j)
  match w.es0.find? fun e => feeds w.x0 w.ts0 e k with
  | none => k
  | some o =>
    match w.es1.find? fun e => e.name = o.name && e.ix = o.ix && e.cls = o.cls with
    | none => k
    | some e => if feeds w.x1 w.ts1 e e.r.port then e.r.port else k

/-- The number of a feeder under the new coordinates (R22). -/
def Rewire.feeder (w : Rewire) (f port : Nat) : Nat := if f < 100 then f else 100 + 16 * w.place ((f - 100) / 16) port 0 + (f - 100) % 16

/-- A context with its wiring, route table, bank tokens, ports and feeders matched to the new plots. -/
def Plot.rewired (p : Plot) (w : Rewire) (ix : Nat) : Plot :=
  let src {α : Type} (l : NMap α) : NMap α := l.foldl (fun m kv => m.set (if kv.1 < 16 then w.port ix kv.1 else kv.1) kv.2) []
  { p with
    routes := p.routes.map (fun kr => (kr.1, kr.2.map fun r => (r.1, w.route ix 0 kr.1 r.2))),
    rtab := p.rtab.map (fun kr => (kr.1, w.route ix 1 kr.1 kr.2)),
    banks := p.banks.map (fun kb => (kb.1, match kb.2 with
      | .giving d n => .giving (w.route ix 2 kb.1 { kind := 1, coord := d }).coord n
      | b => b)),
    ports := src p.ports, expected := src p.expected,
    feeders := (src p.feeders).map fun kf => (kf.1, w.feeder kf.2 kf.1) }

/-- The routes of a context name plots of its new tract. -/
def Plot.routesIn (p : Plot) (t : Tract) : Bool :=
  let ok (r : Route) : Bool := r.kind != 1 || t.has r.coord
  p.routes.all (fun kr => kr.2.all fun r => ok r.2) && p.rtab.all (fun kr => ok kr.2) &&
    p.banks.all (fun kb => match kb.2 with | .giving d _ => t.has d | _ => true)

/-- A wiring word of a strand's code names by an absolute coordinate, one without a relocation, a plot outside the tract (R338). -/
def strayCoord (rs : List (Nat × Nat)) (ws : List Word) (t : Tract) : Bool :=
  (numbered ws).any fun kw => !rs.any (·.1 = 8 * kw.1) && (match wireOf kw.2 with
    | some (_, _, r) => r.kind = 1 && namesPlot r.coord && !t.has r.coord
    | none => false)

/-- Where the contexts of a launch go: the new code and wiring of each, or the first entry that cannot be placed. -/
def State.placeAll (s : State) (m : Img) (h : ImgHead) (w : Rewire) (handler : List Word) : Nat → Except Nat (List Area)
  | 0 => .ok []
  | n + 1 => do
    let done ← s.placeAll m h w handler n
    match w.moved[n]? with
    | none => pure done
    | some e =>
      let own := (w.x1.seat e.ix).1
      let t := w.ts1.getD own default
      match (do
        let st ← s.imgStrand m h w.x1 e.ix
        let ws ← s.strandCode m st w.ts1 own handler
        pure (ws, strayCoord (← s.imgRelocs m st) (ws.take (st.len / 8)) t) : Load (List Word × Bool)) with
      | .error () => .error n
      | .ok (ws, stray) =>
        let p := { e.area.plot.rewired w e.ix with code := numbered ws, codeLen := 8 * ws.length }
        if p.routesIn t && !stray then pure (done ++ [{ e.area with plot := p }]) else .error n

/-- A mapping of the launch's image, if it takes the entries: the tracts and the contexts; else the first entry that it does
not take. -/
def State.tryMapping (s : State) (l : Launch) (h : ImgHead) (maps : List ImgMap) (handler : List Word) (es : List Relinked) (k : Nat) :
    Except Nat (List Tract × List Area) :=
  let m := s.imgOf l.part l.image
  let x := maps.getD k default
  let same := k = l.mapping
  let old := maps.getD l.mapping default
  if !same && es.length != x.count then .error 0
  else match newTracts l x same es with
    | none => .error 0
    | some ts =>
      match s.misplaced x ts es, s.namedEdges m h old l.tracts, s.namedEdges m h x ts with
      | some i, _, _ => .error i
      | none, .ok e0, .ok e1 =>
        let w : Rewire := { x0 := old, ts0 := l.tracts, es0 := e0, x1 := x, ts1 := ts, es1 := e1, moved := es }
        (s.placeAll m h w handler es.length).map fun as => (ts, as)
      | _, _, _ => .error 0

/-- The first mapping that takes the entries, the present one tried first. -/
def State.relinkPlace (s : State) (l : Launch) (es : List Relinked) : Except Nat (Nat × ImgMap × List Tract × List Area) :=
  match s.mapsOf l, s.handlerCode l.part with
  | .ok (h, maps), .ok handler =>
    let ks := l.mapping :: (List.range maps.length).filter (· != l.mapping)
    let rs := ks.map fun k => (k, s.tryMapping l h maps handler.1 es k)
    match rs.findSome? fun r => match r.2 with | .ok y => some (r.1, y) | .error _ => none with
    | some (k, ts, as) => .ok (k, maps.getD k default, ts, as)
    | none => .error (rs.foldl (fun m r => match r.2 with | .error i => Nat.max m i | .ok _ => m) 0)
  | _, _ => .error 0

/-- A launch stands on other plots: what it holds of its queue's path follows, and a headland tract that it leaves is idle
(R296, R300, R305). -/
def State.retract (s : State) (l : Launch) (k : Nat) (ts : List Tract) : State :=
  let plots := ts.flatMap Tract.plots
  let keeps (h : Headland) : Bool := h.tract.plots == plots
  let warm := s.sched.headlands.any fun h => h.busy == some l.id && keeps h
  let n := if warm then 0 else plots.length
  let s := (s.useLess l.queue 0xC0 4 l.plotsHeld).useMore l.queue 0xC0 4 n
  let free (h : Headland) : Headland := if h.busy == some l.id && !keeps h then { h with busy := none } else h
  let s := s.modSched fun c => { c with headlands := c.headlands.map free }
  s.modLaunch l.id fun l => { l with tracts := ts, mapping := k, plotsHeld := n }

/-- The areas are marked relinked, with their new plots (R335). -/
def State.markRelinked (s : State) (es : List Relinked) (as : List Area) (folded : Bool) : State :=
  (es.zip as).foldl (fun s ea =>
    let s := s.setAreaFlags ea.1.pa (1 + (if folded then 4 else 0))
    { s with phys := s.phys.putNum (ea.1.pa + 0x28) 8 ea.1.coord, areas := s.areas.set ea.1.pa ea.2 }) s

/-- RELINK. -/
def execRelink (x : SC) (s : State) : Out :=
  let word := encode (.relink x)
  let a := s.reg x.sa
  settle s (do
    s.hubOnly word
    need (a.toNat % 64 = 0) .align a
    s.reachPages a 64 0 false
    let (hd, s) ← s.readSpan a 1
    consumeLocal a.toNat hd
    let w (k : Nat) : Nat := (hd.getD k CW.zero).v.toNat
    let n := w 1 % 65536
    need (w 0 = 0x524C_0001 && 1 ≤ n && n ≤ 128 && w 1 / 65536 = 0 && (List.range 14).all fun k => w (k + 2) = 0) .cfgbad word
    s.reachPages (a + 64) (16 * n) 0 false
    let (ws, s) ← s.readSpan (a + 64) ((16 * n + 63) / 64)
    consumeLocal (a.toNat + 64) (ws.take (4 * n))
    let es ← s.relinkAreas word ws n
    let launch := match es with | e :: _ => e.area.seq.ctx.launch | [] => 0
    need (es.all fun e => e.area.seq.ctx.launch = launch && !(s.areaFlags e.pa).testBit 1) .cfgbad word
    match s.launch? launch with
    | none => trap .cfgbad word
    | some l =>
      match s.relinkPlace l es with
      | .error i => trap .relinkfail (w64 i)
      | .ok (k, m, ts, as) =>
        let s := s.markRelinked es as (m.frac != 0)
        let s := (s.retract l k ts).setReg x.sd 0
        pure ((s.watchAccess a 64 false).watchAccess (a + 64) (16 * n) false).retire)

/-! ### Folded plots (R334) -/

/-- The resident context is at a pre-emption point and no firing, operation or beat of it is half done (R330). -/
def State.canLeave (s : State) (c : Nat) : Bool :=
  let q := s.seqOf c
  let t := { s with cur := c }
  let atPoint := match t.fetch with
    | .ok w => (match decodeWord w with | .ok i => q.stalled && preemptible i | .error _ => false)
    | .error _ => false
  (q.run == .idle || q.run == .ended || q.run == .failed || q.run == .parked || q.run == .held ||
    (q.run == .running && q.mode = 0 && atPoint)) &&
  (s.plot c).ops.isEmpty && !s.flight.any (fun f => f.dst = c) &&
  (s.plot c).actors.all fun x => x.lane = 0 && !(isMatrixOp x.instr && (x.started || x.fired != 0) && (mmaOf x.instr).isSome)

/-- RESIDENT_SWITCH (R334): the resident context of plot a leaves into an area of the scheduler, and the b-th of those that
wait for the plot comes in its place. -/
def execResidentSwitch (s : State) : Out :=
  let c := s.evt.a
  let p := s.plot c
  match p.folded[s.evt.b]? with
  | none => .next s
  | some key =>
    match s.areas.find key with
    | none => .next s
    | some next =>
      if p.engaged || !s.canLeave c then .next s
      else
        let idle := (s.seqOf c).run == .idle
        let q := s.seqOf c
        let mine := 2 ^ 60 + q.ctx.launch * 65536 + q.ctx.strandix
        match (if idle then .ok (s, none) else (s.takeContext c).map fun r => (r.1, some r.2) : Res (State × Option Area)) with
        | .error (.stall t) => .next t
        | .error (.trap _) => .next s
        | .ok (s, out) =>
          let s := s.bumpRemnants c
          let areas := s.areas.del key
          let areas := match out with | some x => areas.set mine x | none => areas
          let folded := p.folded.filter (· != key) ++ (match out with | some _ => [mine] | none => [])
          let go := next.seq.run == .running || next.seq.run == .parked
          let s := { s with areas := areas }.putContext c next go
          .next (s.modPlot c fun p => { p with folded := folded })

end Sys2Proof.Machine
end

