-- ==== Sys2Proof/Machine/Upkeep.lean ====
section
/-! DEFINITION. What the module does beside its strands' instructions: publications, WINDOW fills, the charging of energy
and its quotas (R84, R85, R97, R99, R320 to R322). -/

namespace Sys2Proof.Machine

/-- PUBLICATION (R99): the publication that agent a has begun, if there is one; each pair lets what stands in memory enter the
snapshot of an agent (R103). -/
def execPublication (s : State) : Out := .next (s.publication s.evt.a s.evt.pairs)

/-! ### WINDOW fills (R84) -/

/-- WINDOW_FILL (R84): touch i of a sector that is not in its owner's stash. -/
def execWindowFill (s : State) : Out :=
  match s.winMisses[s.evt.a]? with
  | none => .next s
  | some m =>
    match s.windows.find? fun w => w.owner = m.owner && w.vbase = m.vbase with
    | none => .next { s with winMisses := s.winMisses.eraseIdx s.evt.a }
    | some w =>
      if !s.linkOk m.owner m.pa then .next s
      else
        let here := (w.sector (w.vbase + m.offset)).isSome
        let s := { s with winMisses := s.winMisses.eraseIdx s.evt.a }
        .next (if here then s else s.fillWindow w m.ctx m.pa (w.vbase + m.offset))

/-! ### Energy and quotas (R320 to R322) -/

/-- The effective EQUOTA of a launch (R296). -/
def State.quotaOf (s : State) (l : Launch) : Nat := s.rcb (s.eff l.rcb 8) 0x2C 4

/-- A sample of an acre's counter is due: 100 µs have passed, and a launch with a nonzero effective EQUOTA stands there (R321). -/
def State.sampleDue (s : State) (k : Nat) : Bool :=
  (s.acre k).lastSampleAt.toNat + 100_000 ≤ s.tempo.toNat && (s.launchesOn k).any fun l => s.quotaOf l != 0

/-- The samples that are due. -/
def State.samplesDue (s : State) : State := s.acres.foldl (fun s ka => if s.sampleDue ka.1 then s.sampleAcre ka.1 else s) s

/-- ENERGY_SAMPLE (R321): acre a has used b microjoules more; its counter is sampled where that is due. -/
def execEnergySample (s : State) : Out :=
  let k := s.evt.a
  let s := s.modAcre k fun x => { x with energy := x.energy + s.evt.b, meter := x.meter + s.evt.b }
  .next (if s.sampleDue k then s.sampleAcre k else s)

/-- The node starts the quota periods that have begun since it was last looked at: in each its overdraft is deducted (R322). -/
def State.newPeriods (s : State) (r : Nat) (last : Word) : State :=
  let g := s.eff r 8
  let period := s.rcb g 0x30 4 * 1_000_000
  let m := if period = 0 then 0 else s.tempo.toNat / period - last.toNat / period
  if m = 0 then s
  else
    let nj := s.sched.contexts.get 0 r - m * (s.rcb g 0x2C 4 * 1_000_000)
    let s := s.modSched fun c => { c with contexts := c.contexts.set r nj }
    (s.setRcb r 0xD4 4 (nj / 1_000_000)).setRcb r 0xD8 4 (nj / 1_000_000)

/-- A request for EQUOTA whose node is exhausted no more is withdrawn. -/
def State.forgiveQuota (s : State) : State :=
  (s.agentsWith fun _ => true).foldl (fun s a =>
    let q := s.seqOf a
    match q.req.quota with
    | some n => if s.exhaustedNode n then s else s.setSeqOf a { q with req := { q.req with quota := none } }
    | none => s) s

/-- A node is in another quota period than when it was last looked at. -/
def State.periodOver (s : State) (r : Nat) (last : Word) : Bool :=
  let period := s.rcb (s.eff r 8) 0x30 4 * 1_000_000
  period != 0 && s.tempo.toNat / period != last.toNat / period

/-- At a boundary of a quota period every acre is sampled, then every node whose period it is starts anew (R321, R322). -/
def State.quotaBoundary (s : State) : State :=
  let t :=
    if s.sched.nodes.any fun kw => s.periodOver kw.1 kw.2 then
      let s := s.acres.foldl (fun s ka => s.sampleAcre ka.1) s
      (s.sched.nodes.foldl (fun s kw => s.newPeriods kw.1 kw.2) s).forgiveQuota
    else s
  t.modSched fun c => { c with nodes := c.nodes.map fun kw => (kw.1, s.tempo) }

/-- QUOTA_PERIOD_BOUNDARY (R322): every node whose period has ended starts a new one. -/
def execQuotaPeriodBoundary (s : State) : Out := .next s.quotaBoundary

end Sys2Proof.Machine
end

