-- ==== Sys2Proof/Machine/Collective.lean ====
section
/-! DEFINITION. CPY and COLL; how the copy engine performs them, how collectives are reduced, flip, fail and time out
(R192, R194 to R197, R343, R364, R365, R397). -/

namespace Sys2Proof.Machine

/-! ### CPY (R192) -/

/-- The checks of one range of a copy: its translations, or the stash's orders. -/
def State.copyRange (s : State) (loc : Bool) (a : Word) (n kind : Nat) : Res (List Tlb) :=
  if n = 0 then .ok []
  else if loc then do
    s.localCheck a.toNat n
    pure []
  else s.tilePages (pagesOf a n) kind

/-- CPY. -/
def execCpy (x : D) (s : State) : Out :=
  let word := encode (.cpy x)
  let dst := s.reg (r5 x.a)
  let src := s.reg (r5 x.b)
  let len := (s.reg (r5 x.d)).toNat
  settle s (do
    s.datapath word
    need (dst.toNat % 4 = 0) .align dst
    need (src.toNat % 4 = 0) .align src
    need (len % 4 = 0 && len ≤ 0xFFFF_FFFF) .cpysize word
    let ts ← s.copyRange (x.e.getLsbD 1) src len 0
    let td ← s.copyRange (x.e.getLsbD 0) dst len 1
    s.sources word [r5 x.a, r5 x.b, r5 x.d]
    s.granules word (x.e.getLsbD 1 && (s.plot s.cur).anyStale src.toNat len)
    if len = 0 then
      let p ← (s.plot s.cur).issueTag word (tagOf x.c) 0
      pure (s.setPlot s.cur p).retire
    else
      let o : EngOp := { id := 0, instr := .cpy x, pc := s.seq.pc, sv := [dst, src, w64 len], tag := tagOf x.c, bytes := len, pages := ts ++ td }
      pure (← s.issueOp word o (s.plot s.cur)).retire)

/-- The sectors of an operation's GLOBAL range. -/
def EngOp.accesses (o : EngOp) (a : Word) (n : Nat) : List Access := (sectorsOf a n).map o.access

/-- The frames of a range. -/
def EngOp.framesOf (o : EngOp) (a : Word) (n : Nat) : List Nat := (pagesOf a n).map fun va => frameOf ((o.tlb va).pa va)

/-- The two ranges of a copy may share bytes: each word written is then the source as it stood before any was. -/
def EngOp.overlaps (o : EngOp) (d s : Bool) : Bool :=
  let dst := o.sv.getD 0 0
  let src := o.sv.getD 1 0
  if d != s then false
  else if d then dst.toNat < src.toNat + o.bytes && src.toNat < dst.toNat + o.bytes
  else (o.framesOf dst o.bytes).any (o.framesOf src o.bytes).contains

/-- The engine reads n words from an address. -/
def State.copyRead (s : State) (c : Nat) (o : EngOp) (loc : Bool) (a : Word) (n : Nat) : Except State (State × List CW × List (Nat × Raise)) :=
  let ws (rd : Word → CW) : List CW := (List.range n).map fun k => rd (a + w64 (4 * k))
  if loc then .ok (s, ws (fun v => (s.plot c).word v.toNat), [])
  else
    let l := o.accesses a (4 * n)
    match s.engineReach c l with
    | .error t => .error t
    | .ok (s, bad) =>
      let s := s.engineTouch c l
      .ok (s.engineRefused c l, ws (s.engineRead c o bad), bad)

/-- The engine writes the parts of a range of n bytes from an address; into a failed strand's stash it drops them (R327). -/
def State.copyWrite (s : State) (c : Nat) (o : EngOp) (loc : Bool) (a : Word) (n : Nat) (ps : List Piece) :
    Except State (State × List (Nat × Raise)) :=
  if loc then .ok (if s.stashGone c then s else s.modPlot c fun p => ps.foldl Plot.putPiece p, [])
  else
    match s.engineWrite c o o.writer (sectorsOf a n) ps with
    | .error t => .error t
    | .ok (s, bad) => .ok (s.engineRefused c (o.accesses a n), bad)

/-- Words for an address, the last one cut to the bytes of the range. -/
def wordPieces (a : Word) (bytes : Nat) (ws : List CW) : List Piece :=
  (numbered ws).map fun (kw : Nat × CW) =>
    { va := a + w64 (4 * kw.1), mask := if 4 * kw.1 + 4 ≤ bytes then 15 else BitVec.ofNat 4 (2 ^ (bytes - 4 * kw.1) - 1), w := kw.2 }

/-- Words of a copy have landed, on its tag too (R159). -/
def Plot.copied (p : Plot) (o : EngOp) (m : Nat) (now : Word) : Plot :=
  { p.land o.tag (4 * m) with
    ops := p.ops.map fun y => if y.id = o.id then { y with pos := o.pos + m } else y, lastAct := now }

/-- The next n words of a copy (all that are left for n = 0, and where the ranges overlap), in rising order. -/
def State.performCopy (s : State) (c : Nat) (o : EngOp) (x : D) (n : Nat) : State :=
  let left := o.bytes / 4 - o.pos
  let m := if n = 0 || left < n || o.overlaps (x.e.getLsbD 0) (x.e.getLsbD 1) then left else n
  let at_ (k : Nat) : Word := o.sv.getD k 0 + w64 (4 * o.pos)
  match s.copyRead c o (x.e.getLsbD 1) (at_ 1) m with
  | .error t => t
  | .ok (s1, ws, bad) =>
    match s1.copyWrite c o (x.e.getLsbD 0) (at_ 0) (4 * m) (wordPieces (at_ 0) (4 * m) ws) with
    | .error t => t
    | .ok (s2, bad2) =>
      let s3 := if m = left then s2.finishOp c { o with bytes := 4 * left } else s2.modPlot c fun p => p.copied o m s.tempo
      s3.raiseReplies c (bad ++ bad2)

/-! ### The collective block (R194, R195) -/

/-- The fields of a block. -/
structure CollBlk where
  op : Nat
  mode : Nat
  sfmt : Nat
  dfmt : Nat
  cid : Nat
  n : Nat
  me : Nat
  root : Nat
  local_ : Bool
  src : Word
  dst : Word
  dscale : Word
  nelem : Nat
  tmo : Nat
  zeros : Bool

def collBlk (ws : List (BitVec 32)) : CollBlk :=
  let n := recNum ws
  { op := n 0 1 % 16, mode := n 0 1 / 16, sfmt := n 1 1 % 32, dfmt := n 2 1 % 32, cid := n 4 4, n := n 8 2 + 1, me := n 0xA 2, root := n 0xC 2,
    local_ := n 0xE 1 % 2 = 1, src := w64 (n 0x10 8), dst := w64 (n 0x18 8), dscale := w64 (n 0x20 8), nelem := n 0x28 4,
    tmo := if n 0x38 4 = 0 then 100000 else n 0x38 4,
    zeros := n 1 1 / 32 = 0 && n 2 1 / 32 = 0 && n 3 1 = 0 && n 0xE 1 / 2 = 0 && n 0xF 1 = 0 && n 0x2C 8 = 0 && n 0x34 4 = 0 && n 0x3C 4 = 0 }

/-- Participant i's range. -/
def collRange (nelem n i : Nat) : Nat × Nat := (i * nelem / n, (i + 1) * nelem / n)

/-- The elements that participant i supplies, and those it receives, as first and end. -/
def collSrc (op nelem n root i : Nat) : Nat × Nat :=
  match op with
  | 0 | 1 => (0, nelem)
  | 2 => collRange nelem n i
  | _ => if i = root then (0, nelem) else (0, 0)

def collDst (op nelem n root i : Nat) : Nat × Nat :=
  match op with
  | 0 => if i = root then (0, nelem) else (0, 0)
  | 1 => collRange nelem n i
  | _ => (0, nelem)

def rangeLen (r : Nat × Nat) : Nat := r.2 - r.1

def CollBlk.supplies (b : CollBlk) : Nat × Nat := collSrc b.op b.nelem b.n b.root b.me
def CollBlk.receives (b : CollBlk) : Nat × Nat := collDst b.op b.nelem b.n b.root b.me
def CollBlk.hasSrc (b : CollBlk) : Bool := b.op != 3 || b.me = b.root
def CollBlk.hasDst (b : CollBlk) : Bool := b.op != 0 || b.me = b.root
def CollBlk.srcBytes (b : CollBlk) : Nat := rangeLen b.supplies * fmtWidth b.sfmt / 8
def CollBlk.dstBytes (b : CollBlk) : Nat := rangeLen b.receives * fmtWidth b.dfmt / 8
def CollBlk.scaleBytes (b : CollBlk) : Nat := if mxCode b.dfmt then rangeLen b.receives / 32 else 0

/-- Order 3 of R195. -/
def CollBlk.valuesOk (b : CollBlk) : Bool :=
  b.zeros && b.op ≤ 3 && b.mode ≤ 1 && b.me < b.n && b.root < b.n && !(mxCode b.dfmt && rangeLen b.receives % 32 != 0)

/-- Order 4. -/
def CollBlk.formatsOk (b : CollBlk) : Bool :=
  (b.sfmt ≤ 2 || b.sfmt = 0xA) && (b.dfmt = b.sfmt || (mxCode b.dfmt && b.op ≤ 1 && b.sfmt ≤ 1))

/-- The pages of one of a collective's ranges. -/
def State.collPages (s : State) (a : Word) (n kind : Nat) : Res (List (Word × Tlb)) :=
  if n = 0 then .ok []
  else (pagesOf a n).mapM fun va => do
    let t ← s.translate s.cur 0 va kind
    need (s.popKind (t.pa va) != 0 && s.popKind (t.pa va) != 3) (noAccess kind) va
    pure (va, t)

/-- A page of a publishable buffer on this module (R110, R111). -/
def State.pubPage (s : State) (y : Word × Tlb) : Bool :=
  ptePub y.2.pte && !(ptePodc y.2.pte && s.podHome (y.2.pa y.1) != s.fabric.podIndex)

/-- A participant joins its collective; the first one on this module sets its parameters. -/
def State.joinColl (s : State) (b : CollBlk) (p : CollPart) : State :=
  let c : Coll := (s.fabric.colls.find b.cid).getD
    { cid := b.cid, op := b.op, mode := b.mode, sfmt := b.sfmt, dfmt := b.dfmt, n := b.n, root := b.root, local_ := b.local_,
      nelem := b.nelem, tmo := b.tmo }
  s.modFabric fun f => { f with colls := f.colls.set b.cid { c with parts := c.parts ++ [p] } }

/-- COLL. -/
def execColl (x : D) (s : State) : Out :=
  let word := encode (.coll x)
  let a := s.reg (r5 x.a)
  settle s (do
    s.datapath word
    need (a.toNat % 64 = 0) .align a
    let t ← s.translate s.cur 0 a 0
    need (s.popKind (t.pa a) != 0 && s.popKind (t.pa a) != 3) .protr a
    let (ws, s) ← s.readWords t a 64 true
    s.consume t a (t.pa a) ws
    let b := collBlk (ws.map (·.v))
    need b.valuesOk .cfgbad word
    need b.formatsOk .fmtbad word
    need (!b.hasDst || b.dst.toNat % 65536 = 0) .align b.dst
    need (!(b.hasDst && mxCode b.dfmt) || b.dscale.toNat % 65536 = 0) .align b.dscale
    need (!b.hasSrc || b.src.toNat % (fmtWidth b.sfmt / 8) = 0) .align b.src
    let ts ← s.collPages b.src b.srcBytes 0
    let td ← s.collPages b.dst b.dstBytes 1
    let tc ← s.collPages b.dscale b.scaleBytes 1
    match (td ++ tc).find? fun y => !s.pubPage y with
    | some y => trap .pubbad y.1
    | none =>
      need (b.mode = 0 || (s.fabric.collPath.getLsbD 0 && (b.local_ || s.fabric.collPath.getLsbD 1))) .collbad word
      need (!s.fabric.expired.contains b.cid) .colltmo (w64 b.cid)
      need (!(s.fabric.colls.get default b.cid).parts.any (fun p => p.agent = s.cur)) .cfgbad word
      s.sources word [r5 x.a]
      let o : EngOp := { id := 0, instr := .coll x, pc := s.seq.pc,
                         sv := [a, b.dst, w64 b.dstBytes, b.src, b.dscale, w64 b.cid, w64 b.scaleBytes],
                         tag := tagOf x.c, bytes := b.dstBytes + b.scaleBytes + 1, pages := (ts ++ td ++ tc).map (·.2) }
      let id := (s.plot s.cur).nextId
      let s ← s.issueOp word o (s.plot s.cur)
      let frames := ((td ++ tc).map fun y => frameOf (y.2.pa y.1)).eraseDups
      let s := s.joinColl b { agent := s.cur, op := id, index := b.me, frames := frames, pod := (td ++ tc).any fun y => ptePodc y.2.pte }
      pure (s.watchAccess a 64 false).retire)

/-! ### Contributions (R343, R364) -/

def Coll.supplies (c : Coll) (i : Nat) : Nat × Nat := collSrc c.op c.nelem c.n c.root i
def Coll.receives (c : Coll) (i : Nat) : Nat × Nat := collDst c.op c.nelem c.n c.root i

/-- An addend with participant number `ix`, in format f, taken into an element's sum. A copied element stands alone. -/
def CollSum.take (a : CollSum) (c : Coll) (ix : Nat) (e : El) : CollSum :=
  let a := { a with bad := a.bad || e.2 }
  if 2 ≤ c.op then { a with sum := e.1 }
  else if c.sfmt = 0xA then { a with sum := a.sum + e.1 }
  else
    let v := (fmtOf c.sfmt).decode e.1
    let a := if c.mode = 0 then { a with leaves := a.leaves.set ix (BitVec.ofNat 32 (f32.convert 0 false v).1) } else a
    match v with
    | .nan _ _ => { a with nan := true }
    | .inf n => if n then { a with ninf := true } else { a with pinf := true }
    | .fin n m x => { a with sum := a.sum + (if m = 0 then 0 else units n m x (-149)) }

/-- Elements from number `first` on are taken in. -/
def Coll.takeAll (c : Coll) (ix first : Nat) (l : List El) : Coll :=
  { c with sums := (numbered l).foldl (fun m (ke : Nat × El) => m.set (first + ke.1) ((m.get {} (first + ke.1)).take c ix ke.2)) c.sums }

/-- Participant ix has contributed all its elements; the time-out runs from the first contribution, unless it is held. -/
def Coll.sentBy (c : Coll) (now : Word) (ix : Nat) : Coll :=
  { c with contributed := if c.contributed.contains ix then c.contributed else c.contributed ++ [ix],
           startAt := if c.startAt.isNone && c.holds.isEmpty then some now else c.startAt }

/-- Every participant that supplies elements has contributed. -/
def Coll.complete (c : Coll) : Bool :=
  (List.range c.n).all fun i => rangeLen (c.supplies i) = 0 || c.contributed.contains i

/-- The element at a byte address, and whether its word does not check. -/
def elementAt (rd : Word → CW) (w : Nat) (a : Word) : El :=
  let cw := rd (a >>> 2 <<< 2)
  (cw.v.toNat / 2 ^ (8 * (a.toNat % 4)) % 2 ^ w, (CW.check cw).isSome)

def State.setColl (s : State) (c : Coll) : State := s.modFabric fun f => { f with colls := f.colls.set c.cid c }

def Coll.modPart (c : Coll) (agent : Nat) (f : CollPart → CollPart) : Coll :=
  { c with parts := c.parts.map fun p => if p.agent = agent then f p else p }

/-- Words in flits of 31. -/
def inFlits (ws : List CW) : List (Nat × List CW) := (List.range ((ws.length + 30) / 31)).map fun k => (31 * k, (ws.drop (31 * k)).take 31)

/-- A participant's elements are read and contributed; for a collective of the pod they leave as flits too. -/
def State.contribute (s : State) (a : Nat) (o : EngOp) (c : Coll) (p : CollPart) : State :=
  let r := c.supplies p.index
  let w := fmtWidth c.sfmt
  let src := o.sv.getD 3 0
  let n := rangeLen r * w / 8
  let l := if n = 0 then [] else o.accesses src n
  match s.engineReach a l with
  | .error t => t
  | .ok (s, bad) =>
    let s := s.engineTouch a l
    let els := (List.range (rangeLen r)).map fun k => elementAt (s.engineRead a o bad) w (src + w64 (k * w / 8))
    let s := s.engineRefused a l
    let c := if c.contributed.contains p.index then c else c.takeAll p.index r.1 els
    let c := (c.sentBy s.tempo p.index).modPart a fun p => { p with sent := true }
    let s := (s.setColl c).modPlot a fun q => { q with lastAct := s.tempo }
    let fl := (inFlits (packN w ((rangeLen r * w + 31) / 32) els)).map fun (kl : Nat × List CW) =>
      s.rootFlit 4 c.cid p.index kl.1 (s.seqOf a).ctx.part kl.2
    (if c.local_ then s else s.emit fl).raiseReplies a bad

/-! ### Results (R196) -/

/-- The balanced tree over the leaves from i on, of depth d. -/
def treeNode (lv : NMap (BitVec 32)) : Nat → Nat → Option (BitVec 32)
  | 0, i => lv.find i
  | d + 1, i =>
    match treeNode lv d i, treeNode lv d (i + 2 ^ d) with
    | some a, some b => some (BitVec.ofNat 32 (f32.add 0 (f32.decode a.toNat) (f32.decode b.toNat)).1)
    | some a, none => some a
    | none, b => b

/-- P is 2 to this. -/
def treeDepth (n : Nat) : Nat := if n ≤ 1 then 0 else Nat.log2 (n - 1) + 1

/-- The exact value of a sum, special values decided over all its addends as in R70. -/
def CollSum.exact (a : CollSum) : FVal :=
  if a.nan || (a.pinf && a.ninf) then .nan false false
  else if a.pinf then .inf false
  else if a.ninf then .inf true
  else .fin (a.sum < 0) a.sum.natAbs (-149)

/-- The value before the one rounding of the result. -/
def CollSum.value (a : CollSum) (c : Coll) : FVal :=
  if c.mode = 0 then f32.decode ((treeNode a.leaves (treeDepth c.n) 0).getD 0).toNat else a.exact

/-- An element of the result in DFMT. -/
def CollSum.result (a : CollSum) (c : Coll) : El :=
  if 2 ≤ c.op then (a.sum.toNat, a.bad)
  else if c.sfmt = 0xA then ((a.sum % 2 ^ 32).toNat, a.bad)
  else (((fmtOf c.dfmt).convert 0 false (a.value c)).1, a.bad)

/-- What participant i receives: its words, and the words of its scale bytes. A block with a lost addend is lost as a whole. -/
def Coll.resultWords (c : Coll) (i : Nat) : List CW × List CW :=
  let r := c.receives i
  let sums := (List.range (rangeLen r)).map fun k => c.sums.get {} (r.1 + k)
  let w := fmtWidth c.dfmt
  let words (w : Nat) (l : List El) : List CW := packN w ((l.length * w + 31) / 32) l
  if mxCode c.dfmt then
    let q := (blocks sums).map fun b => (quantise c.dfmt (b.map fun a => a.value c), b.any (·.bad))
    (words w (q.flatMap fun y => y.1.2.1.map fun v => (v, y.2)), words 8 (q.map fun y => (y.1.1, y.2)))
  else (words w (sums.map fun a => a.result c), [])

/-- The bytes that an operation of a collective writes: at DST and at DSCALE. -/
def EngOp.collDest (o : EngOp) : (Word × Nat) × (Word × Nat) :=
  ((o.sv.getD 1 0, (o.sv.getD 2 0).toNat), (o.sv.getD 4 0, (o.sv.getD 6 0).toNat))

/-- Words land in the hidden faces of a participant's destination. -/
def State.collWrite (s : State) (a : Nat) (o : EngOp) (ws sc : List CW) : Except State State :=
  let d := o.collDest
  let ps := wordPieces d.1.1 d.1.2 ws ++ wordPieces d.2.1 d.2.2 sc
  let l := (if d.1.2 = 0 then [] else sectorsOf d.1.1 d.1.2) ++ (if d.2.2 = 0 then [] else sectorsOf d.2.1 d.2.2)
  match s.engineWrite a o o.writer l ps with
  | .error t => .error t
  | .ok (s, bad) => .ok ((s.engineRefused a (l.map o.access)).raiseReplies a bad)

/-- The next act of a participant: its contribution, then the landing of its results. -/
def State.performColl (s : State) (a : Nat) (o : EngOp) : State :=
  match s.fabric.colls.find (o.sv.getD 5 0).toNat with
  | none => s
  | some c =>
    match c.parts.find? (fun p => p.agent = a) with
    | none => s
    | some p =>
      if c.done || c.tmo = 0 then s
      else if !p.sent then s.contribute a o c p
      else if p.received || !c.complete then s
      else
        let r := c.resultWords p.index
        match s.collWrite a o r.1 r.2 with
        | .error t => t
        | .ok s => s.setColl (c.modPart a fun p => { p with received := true })

/-- COPY_PERFORM (R187, R192, R197): operation b of the engine of plot a goes on, by c words of a copy, unless a FENCE holds
it back. -/
def execCopyPerform (s : State) : Out :=
  let a := s.evt.a
  let p := s.plot a
  match p.ops.find? (·.id = s.evt.b) with
  | none => .next s
  | some o =>
    if p.opBlocked o.id || s.frozen a then .next s
    else match o.instr with
      | .cpy x => .next (s.performCopy a o x s.evt.c)
      | .coll _ => .next (s.performColl a o)
      | _ => .next s

/-! ### Success, flips, failure (R111, R197, R365) -/

/-- A participant's operation is done. -/
def State.endPart (s : State) (p : CollPart) : State :=
  match (s.plot p.agent).ops.find? (·.id = p.op) with
  | some o => s.finishOp p.agent o
  | none => s

/-- A participant on this module. -/
def CollPart.here (p : CollPart) : Bool := p.agent < 0x10000

def Coll.noDst (c : Coll) (p : CollPart) : Bool := rangeLen (c.receives p.index) = 0

/-- Participants leave; a collective without any is over. -/
def State.keepParts (s : State) (c : Coll) (l : List CollPart) : State :=
  s.modFabric fun f => { f with colls := if l.isEmpty then f.colls.del c.cid else f.colls.set c.cid { c with parts := l } }

/-- COLLECTIVE_SUCCESS (R197): every participant's results have landed; the flips are scheduled as a PUBLISH would, and the
participants without a destination are done. For a collective of the pod, the event is the root unit's word that the other
modules' results have landed. -/
def execCollectiveSuccess (s : State) : Out :=
  match s.fabric.colls.find s.evt.a with
  | none => .next s
  | some c =>
    let mine := c.parts.filter (·.here)
    let landed := mine.all fun p => p.sent && (p.received || c.noDst p)
    let all := !c.local_ || (List.range c.n).all fun i => mine.any (·.index = i)
    let busy := s.flips.any fun f => f.frames.any fun k => mine.any fun p => p.frames.contains k
    if c.done || c.tmo = 0 || !landed || !all || busy then .next s
    else
      let t := s.tempo + (if mine.any (·.pod) then 2000 else 1000)
      let off := mine.filter c.noDst
      let on := mine.filter fun p => !c.noDst p
      let fl : List Flip := on.map fun p => { frames := p.frames, tick := t, agent := p.agent, cid := some c.cid }
      let s := { s with flips := s.flips ++ fl }
      .next ((off.foldl State.endPart s).keepParts { c with done := true } on)

/-- A scheduled flip is made: the faces of its frames exchange roles; a collective's participant is done then. -/
def State.makeFlip (s : State) (i : Nat) (f : Flip) : State :=
  let s := { s with phys := f.frames.foldl Phys.flip s.phys, flips := s.flips.eraseIdx i }
  match f.cid.bind fun k => s.fabric.colls.find k with
  | none => s
  | some c =>
    match c.parts.find? (·.agent = f.agent) with
    | none => s
    | some p => (s.endPart p).keepParts c (c.parts.filter fun q => q.agent != f.agent)

/-- PUBLISH_FLIP (R111, R197): the flip with index a, at its tick. -/
def execPublishFlip (s : State) : Out :=
  match s.flips[s.evt.a]? with
  | none => .next s
  | some f => .next (if s.tempo.toNat < f.tick.toNat then s else s.makeFlip s.evt.a f)

/-- Every flip whose tick has come is made. -/
def State.flipsDue : Nat → State → State
  | 0, s => s
  | n + 1, s =>
    match (numbered s.flips).find? fun kf => kf.2.tick.toNat ≤ s.tempo.toNat with
    | none => s
    | some kf => State.flipsDue n (s.makeFlip kf.1 kf.2)

/-- n words that a failed collective leaves (free values, their codes made by the unit). -/
def State.junkWords (s : State) (n : Nat) : List CW × State :=
  ((List.range n).map fun k => CW.mk' (Config.junk (s.fresh + k)), { s with fresh := s.fresh + n })

/-- A participant of a failed collective: its destination's hidden faces hold unspecified bytes, its operation is done, its
strand traps COLLINC. -/
def State.failPart (s : State) (cid : Nat) (p : CollPart) : State :=
  match (s.plot p.agent).ops.find? (·.id = p.op) with
  | none => s
  | some o =>
    let d := o.collDest
    let (ws, s) := s.junkWords ((d.1.2 + 3) / 4)
    let (sc, s) := s.junkWords ((d.2.2 + 3) / 4)
    let ps := wordPieces d.1.1 d.1.2 ws ++ wordPieces d.2.1 d.2.2 sc
    let s := ps.foldl (fun s x => s.enginePiece p.agent o o.writer [] x) s
    (s.finishOp p.agent o).raiseAt p.agent { cause := .collinc, unit := 8, t0 := w64 cid }

/-- The module keeps the last 256 CIDs that timed out. -/
def State.expire (s : State) (cid : Nat) : State :=
  s.modFabric fun f => let l := f.expired ++ [cid]; { f with expired := l.drop (l.length - 256) }

/-- COLLECTIVE_TIMEOUT (R197, R365): a collective whose time-out has run off, or of which a participant has failed, fails. -/
def execCollectiveTimeout (s : State) : Out :=
  match s.fabric.colls.find s.evt.a with
  | none => .next s
  | some c =>
    let late : Bool := match c.startAt with | some t => 1000 * c.tmo ≤ c.used + (s.tempo - t).toNat | none => false
    if c.done || !(c.tmo = 0 || late) then .next s
    else
      let s := (c.parts.filter (·.here)).foldl (fun s p => s.failPart c.cid p) s
      let s := if c.tmo = 0 then s else s.expire c.cid
      .next (s.modFabric fun f => { f with colls := f.colls.del c.cid })

/-! ### Flits of collectives (R343, R360, R364, R365) -/

/-- The Knabry port's link carries flits. -/
def State.portUp (s : State) (port : Nat) : Bool := (s.link (knabryLink port)).st = 0 && (s.link (knabryLink port)).quiesceAt.isNone

/-- A flit arrives at a port (R360): one of a type that is not used is dropped and journalled; its ACK empties the replay
buffer. What else it does is `act`. -/
def State.flitIn (s : State) (typ : Nat) (act : State → Flit → State) : Out :=
  let f := s.evt.flit
  let l := knabryLink s.evt.a
  if 16 ≤ s.evt.a || !s.portUp s.evt.a then .next s
  else if 9 ≤ f.typ then .next (s.report (0x3000 + l % 4096) 0x0C 0 0 0 (w64 f.typ))
  else if f.typ != typ then .next s
  else
    let k := s.link l
    let left := (k.sent - f.ack).toNat
    let k := if left < k.replay then { k with replay := left, kept := k.kept.drop (k.kept.length - left), flitFails := 0 } else k
    .next (act (s.setLink l k) f)

/-- The participant of another module that a flit comes from. -/
def remoteAgent (f : Flit) : Nat := 0x10000 + f.src * 0x10000 + f.index

/-- Words of a contribution of another module. One whose code fails is asked for once more; a second failure, or code 15,
makes a lost addend. -/
def State.takeContribution (s : State) (c : Coll) (f : Flit) : State :=
  let a := remoteAgent f
  let c := if c.parts.any (·.agent = a) then c else { c with parts := c.parts ++ [{ agent := a, op := 0, index := f.index }] }
  match c.parts.find? (·.agent = a) with
  | none => s
  | some p =>
    let r := c.supplies f.index
    let w := fmtWidth c.sfmt
    let per := 32 / w
    if p.got != f.req || p.sent then s
    else if f.payload.any (fun x => CW.check x == some .lccmis) && !p.asked.contains f.req then
      (s.setColl (c.modPart a fun p => { p with asked := p.asked ++ [f.req] })).emit
        [{ dst := f.src, src := s.fabric.podIndex, typ := 1, seq := 0, ack := 0, target := f.target, index := f.index, req := f.req,
           part := f.part, status := 1, payload := [] }]
    else
      let els : List El := f.payload.flatMap fun x => (List.range per).map fun k => (x.v.toNat / 2 ^ (w * k) % 2 ^ w, (CW.check x).isSome)
      let els := els.take (rangeLen r - f.req * per)
      let got := f.req + f.payload.length
      let full := (rangeLen r * w + 31) / 32 ≤ got
      let c := (c.takeAll f.index (r.1 + f.req * per) els).modPart a fun p => { p with got := got, sent := full }
      let c := if full then c.sentBy s.tempo f.index else { c with startAt := if c.startAt.isNone && c.holds.isEmpty then some s.tempo else c.startAt }
      s.setColl c

/-- FLIT_CONTRIBUTION (R343, R364): taken in once the collective is known here; one with LOCAL = 1 never meets it (R397). -/
def execFlitContribution (s : State) : Out :=
  s.flitIn 4 fun s f =>
    match s.fabric.colls.find f.target with
    | none => s
    | some c =>
      if c.local_ || c.done || c.n ≤ f.index || c.parts.any (fun p => p.here && p.index = f.index) then s
      else s.takeContribution c f

/-- The part of a result that a flit brings: words at DST (status 0) or DSCALE (status 1) from word number `req` on. -/
def resultPieces (o : EngOp) (f : Flit) : List Piece :=
  let d := o.collDest
  let r := if f.status = 0 then d.1 else d.2
  (wordPieces r.1 r.2 (List.replicate f.req CW.zero ++ f.payload)).drop f.req

/-- Results that the root unit made land in the hidden faces of a participant. -/
def State.takeResult (s : State) (c : Coll) (f : Flit) : State :=
  match c.parts.find? (fun p => p.here && p.index = f.index) with
  | none => s
  | some p =>
    match (s.plot p.agent).ops.find? (·.id = p.op) with
    | none => s
    | some o =>
      let d := o.collDest
      let got := p.got + f.payload.length
      let s := (resultPieces o f).foldl (fun s x => s.enginePiece p.agent o o.writer [] x) s
      s.setColl (c.modPart p.agent fun p => { p with got := got, received := (d.1.2 + 3) / 4 + (d.2.2 + 3) / 4 ≤ got })

/-- FLIT_RESULT (R197, R364): status 2 says that the collective has failed, 3 that it has timed out. -/
def execFlitResult (s : State) : Out :=
  s.flitIn 5 fun s f =>
    match s.fabric.colls.find f.target with
    | none => s
    | some c =>
      if c.local_ || c.done then s
      else if 2 ≤ f.status then
        let s := s.setColl { c with tmo := 0 }
        if f.status = 3 then s.expire c.cid else s
      else s.takeResult c f

/-- FLIT_HOLD (R365): a participant of another module holds the time-out. -/
def execFlitHold (s : State) : Out :=
  s.flitIn 6 fun s f =>
    match s.fabric.colls.find f.target with
    | some c => if c.local_ then s else s.setColl (c.hold s.tempo f.index)
    | none => s

/-- FLIT_RELEASE (R365). -/
def execFlitRelease (s : State) : Out :=
  s.flitIn 7 fun s f =>
    match s.fabric.colls.find f.target with
    | some c => if c.local_ then s else s.setColl (c.letGo s.tempo f.index)
    | none => s

end Sys2Proof.Machine
end

