-- ==== Sys2Proof/Machine/Port.lean ====
section
/-! DEFINITION. The host port: Ethernet, Gyord sessions and messages, host copies (R356 to R359). -/

namespace Sys2Proof.Machine

/-! ### Ethernet (R356) -/

/-- ETHERNET_LINK_UP: port a at 8 lanes (800GBASE-R) or 4 (400GBASE-R). -/
def execEthernetLinkUp (s : State) : Out :=
  let l := etherLink s.evt.a
  if 2 ≤ s.evt.a || !(s.evt.b = 8 || s.evt.b = 4) then .next s
  else .next (s.setLink l { s.link l with st := 0, width := s.evt.b, fecFails := 0, winAt := s.tempo, raised := false })

/-- A codeword that failed correction is counted in the current window of 1 ms; the sixteenth raises NETERR. -/
def State.fecFailure (s : State) (port : Nat) : State :=
  let l := etherLink port
  let k := s.linkNow l
  let k := { k with fecFails := k.fecFails + 1 }
  if 16 ≤ k.fecFails && !k.raised then (s.setLink l { k with raised := true }).raiseSup .neterr (w64 port) 2
  else s.setLink l k

/-- NETERR: the link of port a goes down (b = 1), or a codeword fails correction there (b = 2). -/
def execNeterr (s : State) : Out :=
  let port := s.evt.a
  let l := etherLink port
  if 2 ≤ port || (s.link l).st = 3 then .next s
  else match s.evt.b with
    | 1 => .next ((s.setLink l { s.link l with st := 3 }).raiseSup .neterr (w64 port) 1)
    | 2 => .next (s.fecFailure port)
    | _ => .next s

/-! ### Messages (R357) -/

def statusCode (c : Cause) : BitVec 16 := c.code.setWidth 16

/-- A reply to the message in hand, unless it asks for none. -/
def State.reply (s : State) (c : Option Cause) (body : List (BitVec 32)) : State :=
  let x := s.evt
  if x.hdr.flags.getLsbD 1 then s
  else
    let r : GyordReply := { session := x.a, kind := x.hdr.kind ||| 0x80, status := (c.map statusCode).getD 0, cookie := x.hdr.cookie, body := body }
    { s with host := { s.host with replies := s.host.replies ++ [r] } }

/-- The header and the length of a message of a kind. -/
def messageOk (x : EvArgs) (kind : Nat) (lens : List Nat) : Bool :=
  x.hdr.magic = 0x4759_0001 && x.hdr.kind.toNat = kind && bits x.hdr.flags 2 6 = 0 && x.hdr.zero = 0 &&
    x.hdr.len.toNat = 4 * x.body.length && lens.contains x.hdr.len.toNat

/-- A message of a session starts: with FENCE only once its waits are answered; a bad one is answered HOSTMSG. -/
def State.message (s : State) (kind : Nat) (lens : List Nat) (act : Session → State) : Out :=
  match s.host.sessions.find s.evt.a with
  | none => .next (s.reply (some .hostmsg) [])
  | some q =>
    if s.evt.hdr.flags.getLsbD 0 && !q.waits.isEmpty then .next s
    else if !messageOk s.evt kind lens then .next (s.reply (some .hostmsg) [])
    else .next (act q)

/-- Word k of the body as a number, and the doubleword at words k and k + 1. -/
def bodyWord (x : EvArgs) (k : Nat) : Nat := (x.body.getD k 0).toNat
def bodyDword (x : EvArgs) (k : Nat) : Word := x.body.getD (k + 1) 0 ++ x.body.getD k 0

/-- GYORD_HELLO: the body is the version mask, bit i for version i; firmware binds the session to the partition whose RCB is
b, or to the root's (`ok`). -/
def execGyordHello (s : State) : Out :=
  let x := s.evt
  if !messageOk x 6 [4] || !s.power.ready || 512 ≤ x.a then .next (s.reply (some .hostmsg) [])
  else if !(x.body.getD 0 0).getLsbD 1 then
    .next ((s.raiseSup .verneg (w64 x.a) (w64 (bodyWord x 0))).reply (some .verneg) [])
  else
    let q : Session := { part := x.b, isRoot := x.ok }
    .next ({ s with host := { s.host with sessions := s.host.sessions.set x.a q } }.reply none [1])

/-! ### Launch, event, query, management (R358) -/

/-- The words of a launch record that firmware keeps for the host. -/
def State.putRecord (s : State) (pa : Nat) (ws : List (BitVec 32)) : State :=
  { s with phys := (numbered ws).foldl (fun p (kw : Nat × BitVec 32) => p.put false (pa + 4 * kw.1) (CW.mk' kw.2)) s.phys }

/-- The launch of a Gyord message, logged or forced as the start of a host message (R369, R371). -/
def State.hostLaunch (s : State) (q : Session) : State :=
  let x := s.evt
  let pa := Config.recordBase + 128 * (s.sched.nextLaunch % 0x10_0000)
  let s := s.meet (recNum x.body 0x18 8)
  if !s.contextRoom then s.reply (some .budget) []
  else match s.checkLaunch (if q.isRoot then 0 else q.part) pa x.body false with
  | .error c => s.reply (some c) []
  | .ok l =>
    match (s.putRecord pa x.body).enqueue l with
    | none => s.reply (some .budget) []
    | some (t, id) =>
      let done (t : State) : State := t.reply none [BitVec.ofNat 32 id]
      match t.decide id 1 0xFFFF (w64 x.a) x.hdr.cookie with
      | .free t => done t
      | .forced t e => if e.value = x.hdr.cookie && e.key = x.a then done (t.tookEntry id 1 0xFFFF (w64 x.a)) else s
      | .full _ => s.recFull (match t.launch? id with | some l => l.rcb | none => 0)
      | .diverged t => done t

/-- GYORD_LAUNCH: the body is a launch record. -/
def execGyordLaunch (s : State) : Out := s.message 1 [128] s.hostLaunch

/-- The slot that an event message names. -/
def State.hostSlot (s : State) (q : Session) (name : Nat) : Option EvSlot :=
  match s.sched.events.find name with
  | some e => if q.isRoot || e.part = q.part then some e else none
  | none => none

/-- A signal from the host is a decision of the slot's launch (R369). -/
def State.hostSignal (s : State) (e : EvSlot) (inc : Nat) : Except State State := s.signalFor (e.launch.getD 0) e inc

/-- An event message: the body is the operation, the name, the value. -/
def State.hostEvent (s : State) (op : Nat) (act : Session → EvSlot → Nat → State) : Out :=
  s.message 3 [12] fun q =>
    if bodyWord s.evt 0 != op then s.reply (some .hostmsg) []
    else match s.hostSlot q (bodyWord s.evt 1) with
      | none => s.reply (some .evname) []
      | some e => act q e (bodyWord s.evt 2)

/-- GYORD_EVENT_SIG. -/
def execGyordEventSig (s : State) : Out :=
  s.hostEvent 0 fun _ e v =>
    match s.hostSignal e v with
    | .ok t => t.reply none [BitVec.ofNat 32 ((e.count + v) % 2 ^ 32)]
    | .error t => t

/-- GYORD_EVENT_WAIT: answered once the count is at least the value; a session holds 1,024 waits. -/
def execGyordEventWait (s : State) : Out :=
  s.hostEvent 1 fun q e v =>
    if v ≤ e.count then s.reply none [BitVec.ofNat 32 e.count]
    else if 1024 ≤ q.waits.length then s.reply (some .evfull) []
    else if s.evt.hdr.flags.getLsbD 1 then s
    else { s with host := { s.host with sessions := s.host.sessions.set s.evt.a { q with waits := q.waits ++ [(e.name, v, s.evt.hdr.cookie)] } } }

/-- GYORD_EVENT_READ. -/
def execGyordEventRead (s : State) : Out := s.hostEvent 2 fun _ e _ => s.reply none [BitVec.ofNat 32 e.count]

/-- Words that leave for a host are checked at the port (R344): a failing one withholds the message that would hold them. -/
def State.replyWords (s : State) (pa n : Nat) : State :=
  let ws := (List.range n).map fun k => s.homeWord 65536 0 (pa + 4 * k)
  match firstBad 0 ws with
  | some (k, c) => (s.report 0x2000 0x06 1 c.code (w64 (pa + 4 * k))).reply (some .poison) []
  | none => s.reply none (ws.map CW.v)

/-- A query: the body is the item, zero, and a doubleword. -/
def State.hostQuery (s : State) (item : Nat) (act : Session → Nat → State) : Out :=
  s.message 4 [16] fun q =>
    if bodyWord s.evt 0 != item || bodyWord s.evt 1 != 0 then s.reply (some .hostmsg) [] else act q (bodyDword s.evt 2).toNat

/-- GYORD_QUERY_LAUNCH: STATUS of the launch's record. -/
def execGyordQueryLaunch (s : State) : Out :=
  s.hostQuery 0 fun q id =>
    match s.sched.records.find id with
    | none => s.reply (some .hostmsg) []
    | some (pa, part) => if q.isRoot || part = q.part then s.replyWords (pa + 0x60) 2 else s.reply (some .priv) []

/-- GYORD_QUERY_RCB: the 256 bytes of a queue's RCB. -/
def execGyordQueryRcb (s : State) : Out :=
  s.hostQuery 1 fun q r =>
    if !(s.queueOk r) then s.reply (some .hostmsg) []
    else if q.isRoot || s.partitionOf r = q.part then s.replyWords r 64
    else s.reply (some .priv) []

/-- GYORD_MANAGEMENT: on a root session it raises HOSTMSG, and the answer is firmware's; elsewhere it is answered PRIV. -/
def execGyordManagement (s : State) : Out :=
  s.message 5 [s.evt.hdr.len.toNat] fun q =>
    if q.isRoot then s.raiseSup .hostmsg (w64 s.evt.a) 5 else s.reply (some .priv) []

/-! ### Copies (R359) -/

/-- Every page of a copy's module range is translated as a user access; A and D are set. -/
def State.hostPages (s : State) (part : Nat) (va : Word) (n kind : Nat) : Except Cause (List (Word × Tlb) × State) :=
  (pagesOf va n).foldlM (fun (r : List (Word × Tlb) × State) v =>
    let p := r.2.phys
    if !canonical v then .error (noTrans kind)
    else match r.2.walk (p.num (part + 0x40) 2) (p.num (part + 0x48) 8) (p.num (part + 0x50) 8) (p.num (part + 0x58) 8) (vpnOf v) kind true with
      | (.leaf t _, s) => .ok (r.1 ++ [(v, t)], s)
      | (.fail c _ _, _) => .error c) ([], s)

/-- How a write of a copy reaches a page: the hidden face of a publishable one, else its serialisation point. -/
def State.hostKind (s : State) (t : Tlb) (pa : Nat) : Nat := if ptePub t.pte then s.writeKind t pa else 2

/-- The accesses of a copy with the parts that it writes, none for a read. A request to another module carries its words. -/
def State.hostAccesses (s : State) (l : List (Word × Tlb)) (va : Word) (n : Nat) (ps : Option (List Piece)) : List Access :=
  (sectorsOf va n).map fun v =>
    let t := tlbFor l v
    let pa := t.pa v
    match ps with
    | none => { t := t, va := v, pa := pa, kind := 4 }
    | some ps =>
      let k := s.hostKind t pa
      let d := if k != 9 && s.elsewhere (ptePodc t.pte) pa then
        sectorParts (ps.map fun x => ((tlbFor l x.va).pa x.va, x.mask, x.w)) (pa / 64) else ([], [])
      { t := t, va := v, pa := pa, kind := k, ws := d.1, mask := d.2 }

/-- The word that a copy reads: the visible face of a publishable page, else what stands at its serialisation point. -/
def State.hostRead (s : State) (t : Tlb) (va : Word) : CW :=
  if ptePub t.pte then s.visible (t.pa va) (ptePodc t.pte) else s.homeWord t.asid (vaNum va) (t.pa va)

/-- A part of a write of a copy is performed, unless its request has been at another module; the port makes the codes. -/
def State.hostWrite (s : State) (l : List (Word × Tlb)) (x : Piece) : State :=
  let t := tlbFor l x.va
  let pa := t.pa x.va
  let pod := ptePodc t.pte
  if ptePub t.pte then
    if pod && !s.homedHere pa then s else { s with phys := s.phys.put true pa (mergeWord (s.phys.word true pa) x.w.v x.w.c x.mask).1 }
  else if s.elsewhere pod pa then s.overrides none pa x.mask
  else
    let r := mergeWord (s.homeWord t.asid (vaNum x.va) pa) x.w.v x.w.c x.mask
    let s := (s.homePut 0 t.asid (vaNum x.va) pa r.1).overrides none pa x.mask
    let s := if (s.winOf t.asid (vaNum x.va)).isSome then s else s.touch (hubAgent 0) pa pod (pteMt t.pte = 1) true
    let s := s.tagSector (hubAgent 0) pa 3
    if r.2 then s.report (0x4000 + homeSlice pa) 0x13 1 0 (w64 pa) else s

/-- Host to module: the words that RDMA READ brought are written and published, then the event is signalled and the reply sent.
After an RDMA error (`ok2`) the copy ends with NETERR; the words that had come stand there unpublished. -/
def State.copyIn (s : State) (l : List (Word × Tlb)) (ps : List Piece) (e : Option EvSlot) : State :=
  let x := s.evt
  let t := ps.foldl (fun s y => s.hostWrite l y) s
  if x.ok2 then t.reply (some .neterr) []
  else match e with
    | none => t.reply none []
    | some e => match t.hostSignal e (bodyWord x 9) with
      | .ok t => t.reply none []
      | .error t => t

/-- Module to host: every word is checked at the port; a failed one withholds the data. -/
def State.copyOut (s : State) (l : List (Word × Tlb)) (va : Word) (n : Nat) (e : Option EvSlot) : State :=
  let x := s.evt
  let ws := spanWords (fun v => s.hostRead (tlbFor l v) v) va n
  match firstBad 0 ws with
  | some (k, c) =>
    let v := va + w64 (4 * k)
    (s.report 0x2000 0x06 1 c.code (w64 ((tlbFor l v).pa v))).reply (some .poison) []
  | none =>
    if x.ok2 then s.reply (some .neterr) []
    else
      let out := ((bodyDword x 4).toNat, bodyWord x 6, ws.map CW.v)
      let done (s : State) : State := ({ s with host := { s.host with rdmaOut := s.host.rdmaOut ++ [out] } } : State).reply none []
      match e with
      | none => done s
      | some e => match s.hostSignal e (bodyWord x 9) with
        | .ok t => done t
        | .error t => t

/-- The words that RDMA READ brought for a copy of n bytes: all of them, or after an error those that had come. -/
def copiedWords (x : EvArgs) (n : Nat) : List CW :=
  ((List.range (n / 4)).map fun k => CW.mk' (BitVec.ofNat 32 (x.ns.getD k 0))).take (if x.ok2 then x.ns.length else n / 4)

/-- The body of a copy: DIR, zero, module address, host address, key, length, and optionally an event name and its increment.
`ns` holds the words that RDMA READ brings, `ok2` tells an RDMA error on the host side. -/
def State.hostCopy (s : State) (q : Session) : State :=
  let x := s.evt
  let dir := bodyWord x 0
  let va := bodyDword x 2
  let n := bodyWord x 7
  let slot := if x.body.length = 8 then none else s.hostSlot q (bodyWord x 8)
  if 1 < dir || bodyWord x 1 != 0 || n % 4 != 0 || n < 4 then s.reply (some .hostmsg) []
  else match s.hostPages q.part va n (1 - dir) with
    | .error c => s.reply (some c) []
    | .ok (l, s) =>
      if x.body.length = 10 && slot.isNone then s.reply (some .evname) []
      else
        let ps := pieces va (copiedWords x n)
        match s.reachAll (hubAgent 0) 10 (s.hostAccesses l va n (if dir = 0 then some ps else none)) with
        | .error (.stall t) => t
        | .error (.trap r) => (s.dropReplies (hubAgent 0) 10).reply (some r.cause) []
        | .ok s => if dir = 0 then s.copyIn l ps slot else s.copyOut l va n slot

/-- GYORD_COPY. -/
def execGyordCopy (s : State) : Out := s.message 2 [32, 40] s.hostCopy

end Sys2Proof.Machine
end

