-- ==== Sys2Proof/Machine/Fabric.lean ====
section
/-! DEFINITION. Knabry and UCIe links, the pod's directory and its messages, and the fabric's registers (R360 to R363, R366,
R367, R397). -/

namespace Sys2Proof.Machine

/-! ### Links (R360, R367) -/

/-- KNABRY_TRAINING: port a trains with the versions of mask b (bit i for version i) at c lanes; `ok` tells a reducing
switch. Without version 1 in common, or with no lane count that trains, the port stays down. -/
def execKnabryTraining (s : State) : Out :=
  let l := knabryLink s.evt.a
  if 16 ≤ s.evt.a then .next s
  else if !s.evt.b.testBit 1 then .next ((s.setLink l { s.link l with st := 3 }).raiseSup .verneg (w64 l) (w64 s.evt.b))
  else if !(s.evt.c = 8 || s.evt.c = 4 || s.evt.c = 2) then .next (s.setLink l { s.link l with st := 3 })
  else .next (s.setLink l { s.link l with st := 0, width := s.evt.c, version := 1, reduce := s.evt.ok, flitFails := 0 })

/-- Flits leave by a port as its credits allow; they stay in its replay buffer of 512 until they are acknowledged. -/
def State.sendFlits (s : State) (port : Nat) : State :=
  let l := knabryLink port
  let k := s.link l
  let have_ := s.fabric.credits.get 0 port
  let n := Nat.min have_ (Nat.min s.fabric.out.length (512 - k.replay))
  let k := { k with replay := k.replay + n, kept := k.kept ++ s.fabric.out.take n, sent := k.sent + BitVec.ofNat 16 n }
  (s.setLink l k).modFabric fun f => { f with out := f.out.drop n, credits := f.credits.set port (have_ - n) }

/-- FLIT_CREDIT: the flit gives `req` credits. -/
def execFlitCredit (s : State) : Out :=
  let port := s.evt.a
  s.flitIn 8 fun s f =>
    (s.modFabric fun g => { g with credits := g.credits.set port (g.credits.get 0 port + f.req) }).sendFlits port

/-- FLIT_CRC_RETRY: a flit fails its CRC and is sent again; on a Knabry link the sixteenth failure of one flit takes the link
down. On a UCIe link b gives the flits that are not acknowledged. -/
def execFlitCrcRetry (s : State) : Out :=
  let l := s.evt.a
  let k := s.link l
  if (linkOf (w64 l)).isNone || isEther l || k.st != 0 then .next s
  else
    let k := s.linkNow l
    let k := { k with retries := k.retries + 1, flitFails := k.flitFails + 1, replay := if isUcie l then Nat.min s.evt.b 512 else k.replay }
    let s := s.report (0x3000 + l % 4096) 0x0A 0
    if !isUcie l && 16 ≤ k.flitFails then
      .next (((s.setLink l { k with st := 3, flitFails := 0 }).report (0x3000 + l % 4096) 0x0C 1 (Cause.flitchk).code).raiseSup .flitchk (w64 l))
    else .next (s.setLink l k)

/-- UCIE_RETRY_THRESHOLD: the retries of the window exceed the threshold; LNKRETRY is raised once a window. -/
def execUcieRetryThreshold (s : State) : Out :=
  let l := s.evt.a
  let k := s.linkNow l
  if isUcie l && s.retryLimit.1 < k.retries && !k.raised then
    .next ((s.setLink l { k with raised := true }).raiseSup .lnkretry (w64 l) (w64 k.retries))
  else .next s

/-- UCIE_FLIT_FAIL: one flit of link a fails 16 retries: FLITCHK and one retrain at the same width; where that fails (`ok`
false), the link is DOWN and LNKDOWN raised. -/
def execUcieFlitFail (s : State) : Out :=
  let l := s.evt.a
  let k := s.link l
  if (linkOf (w64 l)).isNone || !isUcie l || k.st != 0 then .next s
  else
    let s := (s.report (0x3000 + l % 4096) 0x0C 1 (Cause.flitchk).code).raiseSup .flitchk (w64 l)
    if s.evt.ok then .next (s.setLink l { k with flitFails := 0 })
    else .next ((s.setLink l { k with st := 3, flitFails := 0 }).raiseSup .lnkdown (w64 l))

/-! ### Registers (R361, R363, R367, R397) -/

/-- UCIE_RETRY_CONFIG_WRITE. -/
def execUcieRetryConfigWrite (s : State) : Out := .next (s.setRetryCfg s.evt.v)

/-- SNPTMO_WRITE. -/
def execSnptmoWrite (s : State) : Out := .next (s.setSnptmo s.evt.v)

/-- POD_RANGE_WRITE: word b of range a. -/
def execPodRangeWrite (s : State) : Out :=
  if s.evt.a < 64 && s.evt.b < 2 then .next (s.setPodRange s.evt.a s.evt.b s.evt.v) else .next s

/-- COLL_PATH_WRITE. -/
def execCollPathWrite (s : State) : Out := .next (s.setCollPath s.evt.v)

/-! ### The directory (R362) -/

/-- The request that the directory serves next for a sector. -/
def State.dirHead (s : State) (sec : Nat) : Option DirReq := s.fabric.dirQ.find? fun r => r.kind < 10 && r.sector = sec

/-- The bytes of word k that a request writes. -/
def DirReq.wordMask (r : DirReq) (k : Nat) : BitVec 4 :=
  BitVec.ofNat 4 ((List.range 4).foldl (fun n b => if r.mask.getD (4 * k + b) false then n + 2 ^ b else n) 0)

/-- A word of another module's request is performed in memory: every strand sees it (R114). -/
def State.performWord (s : State) (pa : Nat) (cw : CW) (m : BitVec 4) : State := (s.putMemory pa cw).overrides none pa m

/-- The words of another module's publication are performed in memory (R341). -/
def State.performWrh (s : State) (r : DirReq) : State :=
  (List.range 16).foldl (fun s k =>
    let m := r.wordMask k
    let pa := r.sector * 64 + 4 * k
    let w := r.words.getD k CW.zero
    let x := mergeWord (s.phys.word false pa) w.v w.c m
    if m = 0 then s
    else
      let s := s.performWord pa x.1 m
      if x.2 then s.report (0x4000 + homeSlice pa) 0x13 1 0 (w64 pa) else s) s

/-- The words that another module writes into a publishable page land on its hidden face (R110). -/
def State.performHidden (s : State) (r : DirReq) : State :=
  { s with phys := (List.range 16).foldl (fun p k =>
      let pa := r.sector * 64 + 4 * k
      let w := r.words.getD k CW.zero
      if r.wordMask k = 0 then p else p.put true pa (mergeWord (p.word true pa) w.v w.c (r.wordMask k)).1) s.phys }

/-- The elements of another module's TADD are added in memory (R190): the words from before it go back. -/
def State.performAdds (s : State) (r : DirReq) : State × List CW :=
  let isInt := (r.words.getD 16 CW.zero).v = 1
  let t := (List.range 16).foldl (fun s k =>
    let pa := r.sector * 64 + 4 * k
    if r.wordMask k = 0 then s else s.performWord pa (addElement isInt (s.phys.word false pa) (r.words.getD k CW.zero)).1 15) s
  (t, s.sectorOf r.sector)

/-- Another module's atomic is performed in memory: the old value, or what its words raise. -/
def State.performAtomic (s : State) (r : DirReq) : Except Cause (List CW) × State :=
  let n (k : Nat) : Nat := (r.words.getD k CW.zero).v.toNat
  let pa := r.sector * 64 + n 2 % 64
  let ws := (wordsOf pa (n 1)).map (s.phys.word false)
  match firstBad 0 ws with
  | some (_, c) => (.error (if c == .poison then .rempoison else c), s)
  | none =>
    let m := valueOf pa (n 1) ws
    let v := (AOp.ofNum (n 0)).apply (8 * n 1) m (n 3 + 2 ^ 32 * n 4) (n 5 + 2 ^ 32 * n 6)
    let nw := newWords (n 1) v.1
    let t := (List.range nw.length).foldl (fun s k => s.performWord (pa + 4 * k) (nw.getD k CW.zero) 15) s
    (.ok [CW.mk' (BitVec.ofNat 32 m), CW.mk' (BitVec.ofNat 32 (m / 2 ^ 32))], t)

/-- The directory acts on a request once no cache stands in its way; `dirty` is what the owner gave back. -/
def State.finishServe (s : State) (r : DirReq) (e : DirEntry) (dirty : Option (List CW)) : State :=
  let sec := r.sector
  let s := match dirty with | some ws => (if r.kind = 1 then s else s.writeSectorWords (sec * 64) ws) | none => s
  let ord := s.fabric.dirOrd
  let ord' := if e.st = 0 then ord else e.ord
  let s := s.modFabric fun f => { f with dirOrd := ord + 1 }
  match r.kind with
  | 0 =>
    let sh := if 2 ≤ e.st then [e.owner, r.modl] else e.sharers ++ [r.modl]
    (s.setDir sec { st := 1, sharers := sh.eraseDups, ord := ord' }).answerReq r none false (s.sectorOf sec)
  | 1 => (s.setDir sec { st := 2, owner := r.modl, ord := ord' }).answerReq r none dirty.isSome (dirty.getD (s.sectorOf sec))
  | 4 => (s.setDir sec { e with st := if e.st = 3 then 2 else e.st }).answerReq r none false (s.sectorOf sec)
  | 5 =>
    let x := (s.setDir sec {}).performAtomic r
    (match x.1 with | .ok ws => x.2.answerReq r none false ws | .error c => x.2.answerReq r (some c) false [])
  | 7 =>
    let x := (s.setDir sec {}).performAdds r
    x.1.answerReq r none false x.2
  | 8 => ((s.setDir sec {}).performHidden r).answerReq r none false []
  | _ =>
    let s := s.setDir sec {}
    (if r.modl = s.fabric.podIndex then s else s.performWrh r).answerReq r none false []

/-- The snoop of a request has been sent. -/
def State.markSnooped (s : State) (r : DirReq) : State :=
  s.modFabric fun f => { f with dirQ := f.dirQ.map fun q => if q.id = r.id then { q with snooped := some s.tempo } else q }

def snoopFlit (s : State) (dst sec kind req : Nat) : Flit :=
  { dst := dst, src := s.fabric.podIndex, typ := 2, seq := 0, ack := 0, target := sec, index := kind, req := req, part := 0, status := 0, payload := [] }

/-- What a cached copy gives back and becomes under a request of a kind: a read leaves a copy, an uncached read leaves the
owner its sector, everything else takes it. -/
def State.snoopLine (s : State) (sec kind : Nat) : Option (List CW) × State :=
  match s.fabric.lines.find sec with
  | none => (none, s)
  | some l =>
    let back := if l.st = 3 then some l.words else none
    (back, match kind with
      | 0 => s.setLine sec (some { l with st := 1 })
      | 4 => s.setLine sec (some { l with st := Nat.min l.st 2 })
      | _ => s.setLine sec none)

/-- The entries of the set that a sector belongs to (R362). -/
def State.dirWays (s : State) (sec : Nat) : List (Nat × DirEntry) :=
  s.fabric.dir.filter fun ke => ke.1 % 65536 = sec % 65536 && ke.2.st != 0

/-- The least recently allocated entry in state S, E or M. -/
def dirVictim (ways : List (Nat × DirEntry)) : Option Nat :=
  let better (m : Option (Nat × DirEntry)) (x : Nat × DirEntry) : Option (Nat × DirEntry) :=
    if x.2.st = 4 then m else match m with
      | some y => if x.2.ord < y.2.ord then some x else m
      | none => some x
  (ways.foldl better none).map (·.1)

/-- The directory recalls an entry: a request of its own for the sector, which takes it from the caches (R362). -/
def State.recall (s : State) (sec : Nat) : State :=
  let f := s.fabric
  if f.dirQ.any (fun r => r.kind = 9 && r.sector = sec) then s
  else
    let r : DirReq := { id := f.nextReq, kind := 9, sector := sec, modl := f.podIndex, agent := hubAgent 0, unit := 11 }
    s.modFabric fun f => { f with dirQ := f.dirQ ++ [r], nextReq := f.nextReq + 1 }

/-- A request that needs a way of a full set: an entry is recalled, or where all of them are lost DIRFULL is raised. -/
def State.needWay (s : State) (r : DirReq) (ways : List (Nat × DirEntry)) : State :=
  match dirVictim ways with
  | some v => s.recall v
  | none => if r.snooped.isSome then s else (s.markSnooped r).raiseSup .dirfull (w64 (r.sector * 64))

/-- A permission that an agent of this module no longer waits for. -/
def State.grantLive (s : State) (g : Nat × Nat × Nat) : Bool :=
  let a := g.1 / 16
  match g.1 % 16 with
  | 0 => (s.seqOf a).stalled
  | 9 => (s.view a).rel.isSome || (s.seqOf a).stalled
  | 10 => true
  | _ => !((s.plot a).actors.isEmpty && (s.plot a).ops.isEmpty)

/-- A write that was admitted here has still to be performed. -/
def State.grantBusy (s : State) (sec : Nat) : Bool := s.fabric.granted.any fun g => g.2.1 = 2 && g.2.2 = sec && s.grantLive g

/-- The head of a sector's queue is served, if it is of these kinds. -/
def State.serve (s : State) (sec : Nat) (kinds : List Nat) : State :=
  match s.dirHead sec with
  | none => s
  | some r =>
    let e := s.fabric.dir.get {} sec
    let me := s.fabric.podIndex
    if !kinds.contains r.kind || s.grantBusy sec then s
    else match e.st with
      | 4 => s.answerReq r (some .ownlost) false []
      | 0 =>
        let ways := s.dirWays sec
        if r.kind ≤ 1 && 16 ≤ ways.length then s.needWay r ways else s.finishServe r e none
      | 1 =>
        if r.kind = 0 || r.kind = 4 then s.finishServe r e none
        else
          let others := e.sharers.filter fun m => m != r.modl && m != me
          let s := if r.kind = 1 && r.modl = me then s else s.setLine sec none
          if others.isEmpty then s.finishServe r e none
          else if r.snooped.isSome then s
          else (s.markSnooped r).emit (others.map fun m => snoopFlit s m sec r.kind r.id)
      | _ =>
        if e.owner = me then
          let x := s.snoopLine sec r.kind
          x.2.finishServe r e x.1
        else if r.snooped.isSome then s
        else (s.markSnooped r).emit [snoopFlit s e.owner sec r.kind r.id]

/-- DIRECTORY_RDS: fills and the reads that fill no cache. -/
def execDirectoryRds (s : State) : Out := .next (s.serve s.evt.a [0, 4])

/-- DIRECTORY_RDX. -/
def execDirectoryRdx (s : State) : Out := .next (s.serve s.evt.a [1])

/-- DIRECTORY_WRH: publications, and the atomics, additions and writes to hidden faces that are performed at the home; and the
directory's recalls. -/
def execDirectoryWrh (s : State) : Out := .next (s.serve s.evt.a [2, 5, 7, 8, 9])

/-- DIRECTORY_EVICT: the head of the queue is an owner's release, late ones dropped; or this module releases a sector that it
owns. -/
def execDirectoryEvict (s : State) : Out :=
  let sec := s.evt.a
  let e := s.fabric.dir.get {} sec
  match s.dirHead sec with
  | some r =>
    if r.kind != 3 then .next s
    else
      let s := s.modFabric fun f => { f with dirQ := f.dirQ.filter (·.id != r.id) }
      if (e.st = 2 || e.st = 3) && e.owner = r.modl then
        .next ((if r.words.isEmpty then s else s.writeSectorWords (sec * 64) r.words).setDir sec {})
      else .next s
  | none =>
    match s.fabric.lines.find sec with
    | none => .next s
    | some l =>
      if l.st < 2 then .next s
      else
        let ws := if l.st = 3 then l.words else []
        let t := s.setLine sec none
        if s.homedHere (sec * 64) then .next ((if ws.isEmpty then t else t.writeSectorWords (sec * 64) ws).setDir sec {})
        else .next (t.emit [{ dst := s.podHome (sec * 64), src := s.fabric.podIndex, typ := 0, seq := 0, ack := 0, target := sec, index := 3,
                              req := 0, part := 0, status := 0, payload := ws }])

/-- DIRTY_NOTICE: the owner's first write to a sector in state E makes it M; a remote home learns of it by a flit. -/
def execDirtyNotice (s : State) : Out :=
  let sec := s.evt.a
  let e := s.fabric.dir.get {} sec
  let mine : Bool := match s.fabric.lines.find sec with | some l => l.st = 3 | none => false
  if s.homedHere (sec * 64) then
    if e.st = 2 && (e.owner != s.fabric.podIndex || mine) then .next (s.setDir sec { e with st := 3 }) else .next s
  else if mine then
    .next (s.emit [{ dst := s.podHome (sec * 64), src := s.fabric.podIndex, typ := 0, seq := 0, ack := 0, target := sec, index := 6,
                     req := 0, part := 0, status := 0, payload := [] }])
  else .next s

/-- SNPTMO in ticks. -/
def State.snoopTicks (s : State) : Nat := 1000 * s.fabric.snptmo

/-- INVALIDATION_TIMEOUT: sharer b of sector a has not acknowledged within SNPTMO; it leaves the mask. -/
def execInvalidationTimeout (s : State) : Out :=
  let sec := s.evt.a
  let e := s.fabric.dir.get {} sec
  match (s.dirHead sec).bind (·.snooped) with
  | none => .next s
  | some t =>
    if e.st = 1 && e.sharers.contains s.evt.b && t.toNat + s.snoopTicks ≤ s.tempo.toNat then
      .next ((s.setDir sec { e with sharers := e.sharers.filter (· != s.evt.b) }).raiseSup .podpart (w64 s.evt.b))
    else .next s

/-- SNOOP_TIMEOUT (R363): the owner is lost, as one action. -/
def execSnoopTimeout (s : State) : Out :=
  let sec := s.evt.a
  let e := s.fabric.dir.get {} sec
  match (s.dirHead sec).bind (·.snooped) with
  | none => .next s
  | some t =>
    if (e.st = 2 || e.st = 3) && t.toNat + s.snoopTicks ≤ s.tempo.toNat then
      let s := (s.setDir sec { e with st := 4, poison := true }).refuseWaiting sec
      let s := s.modFabric fun f => { f with ownersLost := f.ownersLost ++ [(e.owner, sec)] }
      let s := s.raiseSup .snooptmo (w64 (sec * 64)) (w64 e.owner)
      .next (s.report (0x4000 + homeSlice (sec * 64)) 0x0E 1 (Cause.ownlost).code (w64 (sec * 64)))
    else .next s

/-- OWNER_REACHABLE (R363): module a answers again; its copies of the sectors that it lost are invalidated. -/
def execOwnerReachable (s : State) : Out :=
  let mine := s.fabric.ownersLost.filter fun x => x.1 = s.evt.a
  let s := s.emit (mine.map fun x => snoopFlit s x.1 x.2 7 0)
  .next (s.modFabric fun f => { f with ownersLost := f.ownersLost.filter fun x => x.1 != s.evt.a })

/-! ### Flits of the directory -/

/-- The sector of a request lies in the range of the partition that it names (R316); 0 stands for firmware. -/
def State.remoteOk (s : State) (part sec : Nat) : Bool :=
  let pa := sec * 64
  s.homedHere pa && (s.popKind pa = 1 || s.popKind pa = 2) &&
    (part = 0 || inRange (s.phys.num (part + 0x50) 8) (s.phys.num (part + 0x58) 8) pa 64)

/-- The mask in the two words behind the first n. -/
def flitMask (n : Nat) (l : List CW) : List Bool :=
  (List.range 64).map fun b => (l.getD (n + b / 32) CW.zero).v.getLsbD (b % 32)

/-- How many words stand before the mask of a request that writes; none has a mask in the others. -/
def maskedWords (kind : Nat) : Option Nat := match kind with | 2 => some 16 | 8 => some 16 | 7 => some 17 | _ => none

/-- FLIT_REQUEST: a request of another module joins the directory's queue; a dirty notice takes effect. -/
def execFlitRequest (s : State) : Out :=
  s.flitIn 0 fun s f =>
    let e := s.fabric.dir.get {} f.target
    if f.index = 6 then (if e.st = 2 && e.owner = f.src then s.setDir f.target { e with st := 3 } else s)
    else if 8 < f.index then s
    else
      let r : DirReq := { id := s.fabric.nextReq, kind := f.index, sector := f.target, modl := f.src, agent := f.req, unit := 0,
                          words := match maskedWords f.index with | some n => f.payload.take n | none => f.payload,
                          mask := match maskedWords f.index with | some n => flitMask n f.payload | none => [] }
      let s := s.modFabric fun g => { g with dirQ := g.dirQ ++ [r], nextReq := g.nextReq + 1 }
      if f.index = 3 || s.remoteOk f.part f.target then s else s.answerReq r (some .remprot) false []

/-- The cause of a response's status. -/
def replyCause (n : Nat) : Cause :=
  if n = (Cause.remprot).code.toNat then .remprot
  else if n = (Cause.rempoison).code.toNat then .rempoison
  else if n = (Cause.lccmis).code.toNat then .lccmis
  else .ownlost

/-- Words that a reducing unit asks for once more are read and sent again (R343). -/
def State.resend (s : State) (f : Flit) : State :=
  match s.fabric.colls.find f.target with
  | none => s
  | some c =>
    match c.parts.find? fun p => p.here && p.index = f.index && p.sent with
    | none => s
    | some p =>
      match (s.plot p.agent).ops.find? (·.id = p.op) with
      | none => s
      | some o =>
        let w := fmtWidth c.sfmt
        let n := rangeLen (c.supplies p.index)
        let els := (List.range n).map fun k => elementAt (s.engineRead p.agent o []) w (o.sv.getD 3 0 + w64 (k * w / 8))
        let ws := ((packN w ((n * w + 31) / 32) els).drop f.req).take 31
        s.emit [s.rootFlit 4 c.cid p.index f.req (s.seqOf p.agent).ctx.part ws]

/-- A copy that this module shares is gone once a request of its own has been performed at the home; the words that a reply
brings stand there for the requester, cached by nobody. -/
def State.replyLine (s : State) (sec : Nat) (ws : Option (List CW)) : State :=
  if 2 ≤ s.lineSt (sec * 64) then s else s.setLine sec (ws.map fun l => { st := 0, words := l })

/-- FLIT_RESPONSE: the answer to a request of this module. -/
def execFlitResponse (s : State) : Out :=
  s.flitIn 1 fun s f =>
    match s.fabric.dirQ.find? fun r => 10 ≤ r.kind && r.id = f.req && r.sector = f.target with
    | none => if f.status = 1 then s.resend f else s
    | some r =>
      let s := s.modFabric fun g => { g with dirQ := g.dirQ.filter (·.id != r.id) }
      let grant (s : State) (k : Nat) : State := s.modFabric fun g => { g with granted := g.granted ++ [(r.agent * 16 + r.unit, k, r.sector)] }
      if f.status != 0 then
        s.modSeqOf r.agent fun q => { q with replies := q.replies ++ [{ unit := r.unit, sector := r.sector, cause := replyCause f.status }] }
      else match r.kind - 10 with
        | 0 => s.setLine r.sector (some { st := 1, words := f.payload })
        | 1 => s.setLine r.sector (some { st := if f.part = 1 then 3 else 2, words := f.payload })
        | 4 => grant (if (s.fabric.lines.find r.sector).any (1 ≤ ·.st) then s else s.setLine r.sector (some { st := 0, words := f.payload })) 4
        | 7 => grant (s.replyLine r.sector (some f.payload)) 7
        | 5 => (s.replyLine r.sector none).modSeqOf r.agent fun q => { q with answer := some ((f.payload.getD 1 CW.zero).v ++ (f.payload.getD 0 CW.zero).v) }
        | k => grant (s.replyLine r.sector none) k

/-- FLIT_SNOOP: the home of a sector asks for this module's copy. After an owner was lost (7) it takes the copy, and the
strands of this module trap OWNLOST at their next access to the sector. -/
def execFlitSnoop (s : State) : Out :=
  s.flitIn 2 fun s f =>
    if f.index = 7 then
      let on := s.agentsWith fun _ => true
      (s.setLine f.target none).modFabric fun g => { g with lostTo := (g.lostTo ++ on.map fun a => (a, f.target)).eraseDups }
    else
      let x := s.snoopLine f.target f.index
      x.2.emit [{ dst := f.src, src := s.fabric.podIndex, typ := 3, seq := 0, ack := 0, target := f.target, index := f.index, req := f.req,
                  part := 0, status := if x.1.isSome then 0 else 1, payload := x.1.getD [] }]

/-- An owner that was releasing its sector when the snoop came has sent its data in that release, which waits behind. -/
def State.lateEvict (s : State) (sec owner : Nat) : Option (List CW) × State :=
  match s.fabric.dirQ.find? fun r => r.kind = 3 && r.sector = sec && r.modl = owner with
  | none => (none, s)
  | some r => (if r.words.isEmpty then none else some r.words, s.modFabric fun f => { f with dirQ := f.dirQ.filter (·.id != r.id) })

/-- FLIT_SNOOP_REPLY: the owner's data (status 0) or acknowledgement (1), or a sharer's acknowledgement, for the request that
sent the snoop; any other is dropped. -/
def execFlitSnoopReply (s : State) : Out :=
  s.flitIn 3 fun s f =>
    let e := s.fabric.dir.get {} f.target
    match s.dirHead f.target with
    | none => s
    | some r =>
      if r.id != f.req || r.snooped.isNone then s
      else if e.st = 2 || e.st = 3 then
        if f.src = e.owner then
          let x := s.lateEvict f.target e.owner
          x.2.finishServe r e (if f.status = 0 then some f.payload else x.1)
        else s
      else if e.st = 1 then
        let e := { e with sharers := e.sharers.filter (· != f.src) }
        let s := s.setDir f.target e
        if e.sharers.any (fun m => m != r.modl && m != s.fabric.podIndex) then s else s.finishServe r e none
      else s

end Sys2Proof.Machine
end

