-- ==== Sys2Proof/Machine/Observe.lean ====
section
/-! DEFINITION. The error journal and the dumps, gambit trials, the scope checker's and the trace ring's registers, the stop
and the alignment of the tempo (R351 to R355, R374 to R379). -/

namespace Sys2Proof.Machine

/-! ### The journal (R351, R352) -/

/-- One byte of CRC-32C, least significant bit first. -/
def crcByte (c : BitVec 32) (b : Byte) : BitVec 32 :=
  (List.range 8).foldl (fun (c : BitVec 32) _ => if c.getLsbD 0 then (c >>> 1) ^^^ 0x82F6_3B78#32 else c >>> 1) (c ^^^ b.setWidth 32)

/-- CRC-32C of bytes. -/
def crc32c (l : List Byte) : BitVec 32 := ~~~(l.foldl crcByte (BitVec.allOnes 32))

/-- The address of slot i. -/
def journalSlot (i : Nat) : Nat := Config.journalBase + 64 * (i % Config.journalSlots)

/-- CHAIN of entry i: of the bytes of entry i − 1, 0 where there is none. -/
def Phys.chain (p : Phys) (i : Nat) : BitVec 32 :=
  if i = 0 then 0
  else crc32c ((List.range 64).map fun k => byteOf (p.word false (journalSlot (i - 1) + k / 4 * 4)).v (k % 4))

/-- The eight doublewords of entry i made from a report. -/
def Report.dwords (r : Report) (i count : Nat) (chain : BitVec 32) : List Word :=
  [w64 i, r.tempo, packed [(r.unit.toNat, 0), (r.kind.toNat, 16), (r.sev.toNat, 24), (r.cause.toNat, 32)], r.addr, r.syn0, r.syn1,
   packed [(r.launch.toNat, 0), (count % 2 ^ 32, 32)], packed [(chain.toNat, 32)]]

/-- Doublewords written one after the other. -/
def Phys.putDwords (p : Phys) (a : Nat) (l : List Word) : Phys :=
  (List.range l.length).foldl (fun p k => p.putDword (a + 8 * k) (l.getD k 0)) p

/-- A report becomes entry W. -/
def State.appendEntry (s : State) (r : Report) (count : Nat) : State :=
  let i := s.obs.journal.w
  let t := { s with phys := s.phys.putDwords (journalSlot i) (r.dwords i count (s.phys.chain i)) }
  t.modObs fun o => { o with journal := { o.journal with w := i + 1 } }

/-- The entry that tells of dropped reports. -/
def State.overflowReport (s : State) : Report :=
  { tempo := s.tempo, unit := 0x2000, kind := 0x11, sev := 0, cause := 0, addr := 0, syn0 := 0, syn1 := 0, launch := 0 }

/-- The engine takes the oldest report: appended where a slot is free, after the entry that tells of those dropped before;
else dropped, the first of them raising JRNLOVF. -/
def State.takeReport (s : State) : State :=
  let j := s.obs.journal
  match j.queue with
  | [] => s
  | r :: l =>
    let free := Config.journalSlots - (j.w - j.b)
    if free != 0 && j.dropped != 0 then
      (s.appendEntry s.overflowReport j.dropped).modObs fun o => { o with journal := { o.journal with dropped := 0 } }
    else
      let s := s.modObs fun o => { o with journal := { o.journal with queue := l } }
      if free != 0 then s.appendEntry r 0
      else
        let s := s.modObs fun o => { o with journal := { o.journal with dropped := j.dropped + 1 } }
        if j.dropped = 0 then s.raiseSup .jrnlovf 1 else s

/-- JOURNAL_APPEND. Nothing is appended before firmware has loaded W and B (R351). -/
def execJournalAppend (s : State) : Out := .next (if s.power.ready then s.takeReport else s)

/-- JOURNAL_SUBMIT (R354): core a stores v at offset 0x38 of its own window. -/
def execJournalSubmit (s : State) : Out :=
  if 32 ≤ s.evt.a then .next s
  else .next ((s.journalStore (hubAgent s.evt.a) (regJournal + 0x40 * s.evt.a + 0x38) s.evt.v).getD s)

/-! ### Registers of hub space (R78, R378, R379) -/

/-- HUB_REGISTER_WRITE: a store by hub core 0; one that the register's own rule refuses changes nothing. -/
def execHubRegisterWrite (s : State) : Out :=
  let pa := s.evt.a
  if hubSpace ≤ pa && pa < 0x1_0000_0000_0000 && pa % 8 = 0 then .next ((s.hubStore (hubAgent 0) pa s.evt.v).getD s) else .next s

/-- SCOPE_CHECK_CONTROL_WRITE: control word a. -/
def execScopeCheckControlWrite (s : State) : Out := .next (if s.evt.a < 64 then s.setScopeCtl s.evt.a s.evt.v else s)

/-- TRACE_RING_WRITE: the ring's base (0), size (1) or overflow count (2). -/
def execTraceRingWrite (s : State) : Out := .next (if s.evt.a < 3 then s.setRing s.evt.a s.evt.v else s)

/-! ### Fatal-error dumps (R355) -/

def fatalCause (c : Nat) : Bool := c = 0x38 || c = 0x5B || c = 0x5C || c = 0x5D

/-- What the sections of a dump hold. -/
def State.dumpOf (s : State) (pa cause : Nat) : Dump :=
  { pa := pa, tempo := s.tempo, cause := w64 cause, index := s.obs.journal.w + s.obs.journal.queue.length,
    plots := (s.agentsWith fun _ => true).map fun a => (a, { seq := s.seqOf a, plot := s.plot a }),
    hubs := s.seqs.filter fun kq => isHub kq.1,
    dir := s.fabric.dir.filter fun kd => 2 ≤ kd.2.st,
    links := s.fabric.links.map fun kl => (kl.1, kl.2.item kl.1 2) }

/-- The header: MAGIC, tempo, cause; the length and the offsets of the sections are firmware's (free values). -/
def State.dumpHeader (s : State) (d : Dump) : State :=
  let p := s.phys.putDwords d.pa ([0x4455_4D31, d.tempo, d.cause] ++ (List.range 5).map fun k => Config.freeWord (s.fresh + k))
  { s with phys := p, fresh := s.fresh + 5 }

/-- FATAL_DUMP: firmware writes a dump for the fatal cause a, in a place of its own, and a DUMP entry. -/
def execFatalDump (s : State) : Out :=
  if !fatalCause s.evt.a || s.power.recovery then .next s
  else
    let pa := Config.dumpBase + 0x100_0000 * s.obs.dumps.length
    let d := s.dumpOf pa s.evt.a
    let s := s.dumpHeader d
    let s := s.report 0x2000 0x12 2 (BitVec.ofNat 7 s.evt.a) (w64 pa) s.tempo
    .next (s.modObs fun o => { o with dumps := o.dumps ++ [d] })

/-! ### Gambit trials (R375, R376) -/

/-- The doublewords of a block, read one after the other and consumed. -/
def State.readBlock (s : State) (a : Word) : Nat → Res (List Word × State)
  | 0 => .ok ([], s)
  | n + 1 => do
    let (l, s) ← s.readBlock a n
    let va := a + w64 (8 * n)
    let t ← s.translate s.cur 0 va 0
    let (ws, s) ← s.readWords t va 8 false
    s.consume t va (t.pa va) ws
    pure (l ++ [(ws.getD 1 CW.zero).v ++ (ws.getD 0 CW.zero).v], s)

/-- A trial as its block describes it; none where a value is out of range or a reserved byte set. -/
def trialOf (l : List Word) : Option Trial :=
  let f (k lo n : Nat) : Nat := bits (l.getD k 0) lo n
  let t : Trial :=
    { id := 0, core := 0, launch := f 0 32 32, lo := f 1 0 16, hi := f 1 16 16, pct := f 1 32 8, win := f 1 40 8, codeLo := f 2 0 32,
      codeHi := f 2 32 32, winUs := f 3 0 32, pp := (List.range 4).map fun k => f 4 (16 * k) 16, result := f 5 0 64 }
  let ok := f 0 0 32 = 0x4742_0001 && 1 ≤ t.pct && t.pct ≤ 100 && 1 ≤ t.win && f 1 48 16 = 0 && 10 ≤ t.winUs && t.winUs ≤ 100_000 &&
    f 3 32 32 = 0 && t.result % 64 = 0 && l.getD 6 0 = 0 && l.getD 7 0 = 0
  if ok then some t else none

/-- A launch runs: placed, and not all its strands are done. -/
def State.runs (s : State) (launch : Nat) : Bool :=
  match s.launch? launch with
  | some l => l.placedAt.isSome && !s.finished l
  | none => false

/-- GAMBIT: a trial starts with a baseline window. -/
def execGambit (x : SC) (s : State) : Out :=
  let word := encode (.gambit x)
  let a := s.reg x.sa
  settle s (do
    s.hubOnly word
    need (a.toNat % 8 = 0) .align a
    s.reachPages a 64 0 false
    let (l, s) ← s.readBlock a 8
    match trialOf l with
    | none => trap .cfgbad word
    | some t =>
      need (s.runs t.launch) .cfgbad word
      need (s.obs.trials.length < 4) .cfgbad word
      let id := s.obs.nextTrial
      let t := { t with id := id, core := s.cur - 0x1000, winAt := s.tempo }
      let s := s.modObs fun o => { o with trials := o.trials ++ [t], nextTrial := id + 1 }
      pure ((s.setReg x.sd (w64 id)).watchAccess a 64 false).retire)

/-- The window in progress is closed at the current tick. -/
def Trial.close (t : Trial) (now : Word) : Trial :=
  let n := (now - t.winAt).toNat
  if t.exper then { t with expTicks := t.expTicks + n, winAt := now } else { t with baseTicks := t.baseTicks + n, winAt := now }

/-- The result area (R376). -/
def Trial.results (t : Trial) (status : Nat) : List Word :=
  let cnt (m : NMap Nat) (k : Nat) : Word := packed [(m.get 0 k, 0), (m.get 0 (k + 1), 32)]
  [w64 t.baseTicks, w64 t.expTicks, cnt t.baseCnt 0, cnt t.baseCnt 2, cnt t.expCnt 0, cnt t.expCnt 2, w64 t.inside, w64 status]

/-- Where a trial's result area stands: its issuer's address, through the core's own tables where it translates (R375); the trial's
end writes nothing where that leads to no memory (log entry 82). -/
def State.resultPa (s : State) (t : Trial) : Option Nat × State :=
  let c := (s.seqOf (hubAgent t.core)).ctx
  let va := w64 t.result
  let memory (s : State) (pa : Nat) : Option Nat := if s.popKind pa = 1 || s.popKind pa = 2 then some pa else none
  if !c.translate then (memory s t.result, s)
  else if !canonical va then (none, s)
  else match s.walk c.asid c.ptroot 0 (2 ^ 52 - 1) (vpnOf va) 1 false with
    | (.leaf x _, s) => (memory s (x.pa va), s)
    | (.fail _ _ _, s) => (none, s)

/-- The engine writes doublewords at a physical address. -/
def State.enginePuts (s : State) (a : Nat) (l : List Word) : State :=
  (List.range l.length).foldl (fun s k =>
    let v := l.getD k 0
    s.putNow (hubAgent 0) (w64 (a + 8 * k)) (a + 8 * k) false false [CW.mk' (v.extractLsb' 0 32), CW.mk' (v.extractLsb' 32 32)]) s

/-- A trial ends: its results are written, and GAMBITEND raised on its core. -/
def State.endTrial (s : State) (t : Trial) (status : Nat) : State :=
  let t := t.close s.tempo
  let r := s.resultPa t
  let s := match r.1 with | some pa => r.2.enginePuts pa (t.results status) | none => r.2
  let s := s.modObs fun o => { o with trials := o.trials.filter (·.id != t.id) }
  s.raiseHub t.core { cause := .gambitend, t0 := w64 t.id }

/-- GAMBIT with STOP: the trial named ends; one that is not there traps CFGBAD. -/
def execGambitStop (x : SC) (s : State) : Out :=
  let word := encode (.gambitStop x)
  settle s (do
    s.hubOnly word
    match s.obs.trials.find? (·.id = bits (s.reg x.sa) 0 16) with
    | none => trap .cfgbad word
    | some t => pure ((s.endTrial t 1).setReg x.sd (w64 t.id)).retire)

/-- The window in progress has lasted its time. -/
def Trial.due (t : Trial) (now : Word) : Bool := t.winAt.toNat + 1000 * t.winUs ≤ now.toNat

/-- The last experiment window is in progress. -/
def Trial.last (t : Trial) : Bool := t.exper && t.win ≤ t.window + 1

/-- GAMBIT_WINDOW_SWITCH: trial a goes from its baseline window to the experiment window, or to the next pair. -/
def execGambitWindowSwitch (s : State) : Out :=
  match s.obs.trials.find? (·.id = s.evt.a) with
  | none => .next s
  | some t =>
    if !t.due s.tempo || t.last then .next s
    else
      let u := t.close s.tempo
      let u := { u with exper := !t.exper, window := if t.exper then t.window + 1 else t.window }
      .next (s.modObs fun o => { o with trials := o.trials.map fun (y : Trial) => if y.id = t.id then u else y })

/-- GAMBIT_TRIAL_END: trial a has had all its windows (0), or its launch has retired (2). -/
def execGambitTrialEnd (s : State) : Out :=
  match s.obs.trials.find? (·.id = s.evt.a) with
  | none => .next s
  | some t =>
    if (s.launch? t.launch).isNone then .next (s.endTrial t 2)
    else if t.due s.tempo && t.last then .next (s.endTrial t 0)
    else .next s

/-! ### The tempo (R323, R374) -/

/-- TEMPOSTOP_WARNING: 1,000 ticks before the stop, on every hub core. -/
def State.warnStop (s : State) : State :=
  match s.power.stopAt with
  | none => s
  | some t =>
    if s.power.warned || s.tempo.toNat + 1000 < t.toNat then s
    else
      let s := (List.range 32).foldl (fun (s : State) c => s.raiseHub c { cause := .tempostop, t0 := t }) s
      { s with power := { s.power with warned := true } }

def execTempostopWarning (s : State) : Out := .next s.warnStop

/-- TEMPO_STOP: the stop tick has come, and every clock is gated. -/
def State.stopTempo (s : State) : State :=
  match s.power.stopAt with
  | none => s
  | some t => if s.tempo.toNat < t.toNat then s else { s with power := { s.power with gated := true } }

def execTempoStop (s : State) : Out := .next s.stopTempo

/-- CYCLE of every agent goes on from where it stands, whatever becomes of the tempo or of the operating point. -/
def State.rebase (s : State) (f : Nat → Bool) (now : Word) : State :=
  let seqs := s.seqs.map fun kq => (kq.1, if f kq.1 then { kq.2 with cycle := s.cycleOf kq.1, cycleAt := now } else kq.2)
  { s with seqs := seqs }

/-- POD_TEMPO_ALIGN: the count goes to the pod master's, which is not below it; no interval that is being measured jumps. -/
def execPodTempoAlign (s : State) : Out :=
  let v := s.evt.v
  if v.toNat < s.tempo.toNat then .next s
  else
    let d := v - s.tempo
    let s := s.rebase (fun _ => true) v
    let s := s.modSched fun c => { c with launches := c.launches.map fun (kl : Nat × Launch) =>
      (kl.1, { kl.2 with wdogAt := kl.2.wdogAt + d, wdogHeld := kl.2.wdogHeld.map fun t => t + d }) }
    .next { s with tempo := v }

end Sys2Proof.Machine
end

