-- ==== Sys2Proof/Machine/Manage.lean ====
section
/-! DEFINITION. Bring-up, operating points, temperature and power, debug mode, the management port, board signals (R284, R319,
R323, R390 to R396). -/

namespace Sys2Proof.Machine

def State.modPower (s : State) (f : Power → Power) : State := { s with power := f s.power }

/-! ### Bring-up (R390 to R392) -/

/-- POWER_ON_RESET: the state after reset, memory as it stands, its poison bits with it, and seen so by every hub core (the
model's choice, log entry 63); core 0 checks the image's signature (ok) and its entries
(ok2) and measures it into the digest `ds`. A failure leaves the management port alone, in recovery mode. -/
def execPowerOnReset (s : State) : Out :=
  let x := s.evt
  let t := { State.reset with phys := s.phys, poisoned := s.poisoned, agenda := s.agenda, fresh := s.fresh, evt := x,
                              views := (List.range 32).map fun c => (hubAgent c, { snap := s.phys }) }
  if x.ok && x.ok2 then .next (t.modPower fun p => { p with stage := 2, digest := x.ds })
  else .next ((t.modPower fun p => { p with recovery := true }).modSeqOf (hubAgent 0) fun q => { q with run := .held })

/-- An EXCLUDED entry (R392): the unit is a die, a stack or a link. -/
def State.exclude (s : State) (unit : Nat) : State := s.report unit 0x83 1

/-- The cores that were held leave reset (R390). -/
def State.freeCores (s : State) : State :=
  ((List.range 32).filter (· != 0)).foldl (fun s c => s.modSeqOf (hubAgent c) fun q => { q with run := .running }) s

/-- The plots of an acre are scrubbed as they power up (R391). -/
def State.scrubAcre (s : State) (k : Nat) : State :=
  { s with plots := s.plots.filter fun kp => acreOf kp.1 != k, seqs := s.seqs.filter fun kq => isHub kq.1 || acreOf kq.1 != k }

/-- ACRE_POWER_UP: the acres power up in order, at most one every 2 ms; one that does not reach its voltage is left off. -/
def execAcrePowerUp (s : State) : Out :=
  let k := s.evt.a
  let p := s.power
  let late : Bool := match p.lastAcreAt with | some t => t.toNat + 2_000_000 ≤ s.tempo.toNat | none => true
  if !(p.stage = 2 || p.stage = 3) || k != p.acresUp || 12 ≤ k || !late then .next s
  else
    let s := if p.stage = 2 then s.freeCores else s
    let s := s.modPower fun p => { p with stage := 3, acresUp := k + 1, lastAcreAt := some s.tempo }
    .next (if s.evt.ok then (s.scrubAcre k).setAcre k { powered := true } else (s.setAcre k {}).exclude (0x1000 + k))

/-- The widest segment of logical lanes that trains: x64, x32 or x16; 0 where none does (R291, R392). -/
def Link.trains (k : Link) : Nat :=
  let any (w : Nat) : Bool := (List.range (64 / w)).any fun i => !k.segmentBad w i
  if any 64 then 64 else if any 32 then 32 else if any 16 then 16 else 0

/-- The UCIe links of the acres that are up train at the widest segment that does; those named, and those of which none does, stay
down. -/
def State.trainUcie (s : State) : State :=
  (List.range 12).foldl (fun s k =>
    if !(s.acre k).powered then s
    else (List.range 8).foldl (fun s i =>
      let l := ucieLink k i
      let bad := match s.evt.pairs.find? (·.1 = l) with | some y => y.2 | none => 0
      let x := { s.link l with badLanes := w64 bad }
      let w := if s.evt.ns.contains l then 0 else x.trains
      s.setLink l { x with st := if w = 0 then 3 else 0, width := w }) s) s

/-- An acre is usable with power, its links to the hubs and its stack; else it is turned off and excluded (R392). -/
def State.settleAcre (s : State) (k : Nat) : State :=
  if !(s.acre k).powered then s
  else
    let down := (List.range 4).find? fun i => (s.link (ucieLink k i)).st = 3
    let off (unit : Nat) : State := (s.setAcre k {}).exclude unit
    match down with
    | some i => off (0x3000 + ucieLink k i)
    | none =>
      if s.evt.ns.contains k then off (0x4000 + k)
      else s.setAcre k { s.acre k with usable := true }

/-- What a group of links or memories comes to: UCIe links, tier-1 stacks, tier-2 modules, Knabry ports, Ethernet ports. -/
def State.trainGroup (s : State) : State :=
  match s.evt.a with
  | 0 => s.trainUcie
  | 1 => (List.range 12).foldl State.settleAcre s
  | 2 => (s.evt.ns.foldl (fun s m => s.exclude (0x4010 + m)) s).modPower fun p => { p with absent2 := s.evt.ns }
  | 3 => s.modPower fun p => { p with portsDown := p.portsDown ++ s.evt.ns.map knabryLink }
  | _ => s.modPower fun p => { p with portsDown := p.portsDown ++ s.evt.ns.map etherLink }

/-- LINK_MEMORY_TRAINING: group a, in the order of R390 stage 4. -/
def execLinkMemoryTraining (s : State) : Out :=
  if s.power.acresUp != 12 || s.power.ready || s.evt.a != s.power.trained || 5 ≤ s.evt.a then .next s
  else .next (s.trainGroup.modPower fun p => { p with stage := 4, trained := s.evt.a + 1 })

/-- Reports that firmware makes at stage 6: POWERON, then the four parts of the digest (R353, R390). -/
def State.bootReports (s : State) : List Report :=
  let r (kind : BitVec 8) (addr a b : Word) : Report :=
    { tempo := s.tempo, unit := 0x2000, kind := kind, sev := 0, cause := 0, addr := addr, syn0 := a, syn1 := b, launch := 0 }
  r 0x10 0 0 0 :: (List.range 4).map fun k => r 0x85 (w64 k) (s.power.digest.getD (2 * k) 0) (s.power.digest.getD (2 * k + 1) 0)

/-- The root RCB that firmware builds: every group overridden, the usable acres, limits that restrict nothing. -/
def State.buildRoot (s : State) : State :=
  let acres := (List.range 12).foldl (fun n k => if (s.acre k).usable then n + 2 ^ k else n) 0
  let f : List (Nat × Nat × Nat) :=
    [(0, 4, 0x5243_0001), (4, 4, 0), (8, 8, 0x1FFF), (0x10, 8, 0), (0x18, 4, 1536), (0x1C, 1, 16), (0x1D, 1, 8), (0x1E, 2, acres),
     (0x20, 8, 2 ^ 63), (0x28, 2, 0xFFFF), (0x2A, 2, 0xFFFF), (0x2C, 4, 0), (0x30, 4, 1), (0x34, 4, 0), (0x38, 4, 1), (0x3C, 4, 0)]
  let s := (List.range 24).foldl (fun (s : State) k => s.setRcb Config.rootRcb (0x40 + 8 * k) 8 0) s
  let s := f.foldl (fun (s : State) y => s.setRcb Config.rootRcb y.1 y.2.1 y.2.2) s
  s.modSched fun c => { c with nodes := c.nodes.set Config.rootRcb s.tempo }

/-- MODULE_READY: firmware loads the indices of the logs, writes the entries, builds the root RCB and declares the module
ready; ports that failed to train are told now. -/
def execModuleReady (s : State) : Out :=
  let x := s.evt
  if s.power.trained != 5 || s.power.ready || s.power.recovery || !(List.range 12).any (fun k => (s.acre k).usable) then .next s
  else
    let s := s.modObs fun o => { o with journal := { o.journal with w := x.a, b := x.b, queue := s.bootReports ++ o.journal.queue },
                                        seedW := x.c, seedB := x.d }
    let s := s.buildRoot
    let s := s.modFabric fun f => { f with podIndex := (Config.firmware 0).toNat % 16 }
    let s := s.modPower fun p => { p with stage := 6, ready := true }
    .next (s.power.portsDown.foldl (fun (s : State) l =>
      if isEther l then s.raiseSup .neterr (w64 (l - 0x2000)) 1 else s.raiseSup .lnkdown (w64 l)) s)

/-! ### Operating points, temperature, power (R394, R395) -/

def isDie (d : Nat) : Bool := d < 12 || (0x10 ≤ d && d < 0x14)

/-- An acre goes to another point; CYCLE goes on from where it stands. -/
def State.setPoint (s : State) (k pt : Nat) : State :=
  let s := s.rebase (fun a => !isHub a && acreOf a = k) s.tempo
  s.setAcre k { s.acre k with point := pt }

/-- OPERATING_POINT_CHANGE: acre a to 1.0, 0.8 or 0.6 GHz (b = 10, 8, 6). -/
def execOperatingPointChange (s : State) : Out :=
  let k := s.evt.a
  if (s.acre k).powered && k < 12 && (s.evt.b = 10 || s.evt.b = 8 || s.evt.b = 6) then .next (s.setPoint k s.evt.b) else .next s

/-- DIE_WARM: a die passes 95 °C. -/
def execDieWarm (s : State) : Out :=
  .next (if isDie s.evt.a && 95 * 16 < s.evt.b then s.raiseSup .therm (w64 s.evt.a) (w64 s.evt.b) else s)

/-- ACRE_HOT: an acre passes 105 °C and moves to 0.6 GHz on its own. -/
def execAcreHot (s : State) : Out :=
  if s.evt.a < 12 && 105 * 16 < s.evt.b then .next ((s.setPoint s.evt.a 6).raiseSup .therm (w64 s.evt.a) (w64 s.evt.b)) else .next s

/-- The engine appends what has been reported, as far as it goes. -/
def State.flushJournal (s : State) : State := s.obs.journal.queue.foldl (fun (s : State) _ => s.takeReport) s

/-- DIE_OVERTEMP: every clock is gated, the OVERTEMP entry written, and the module powers off. -/
def execDieOvertemp (s : State) : Out :=
  let d := s.evt.a
  if !isDie d then .next s
  else
    let s := s.report (if d < 12 then 0x1000 + d else 0x2000 + (d - 0x10)) 0x84 2
    .next (s.flushJournal.modPower fun p => { p with gated := true, off := true })

/-- A root session asks, and the port is not in recovery mode. -/
def State.rootAsks (s : State) : Bool := !s.power.recovery && s.evt.ns.isEmpty

/-- POWER_CAP_SET: the module's new cap in watts, from a root session. -/
def execPowerCapSet (s : State) : Out :=
  if !s.rootAsks then .next s
  else .next ((s.modPower fun p => { p with cap := s.evt.a }).raiseSup .pwrcap (w64 s.evt.a))

/-! ### Debug mode (R284, R319) -/

/-- Whether a session may look at what belongs to a partition: the root's may look at all. -/
def sessionSees (ns : List Nat) (part : Nat) : Bool :=
  match ns with
  | [] => true
  | p :: _ => p = part

/-- A session acts on an agent: not in recovery mode, and of another partition than the root's only on that partition's (R396). -/
def State.sessionActs (s : State) (a : Nat) : Bool := !s.power.recovery && sessionSees s.evt.ns (s.seqOf a).ctx.part

/-- DBGHALT: agent a enters debug mode at its next boundary. -/
def execDbghalt (s : State) : Out :=
  let q := s.seqOf s.evt.a
  if !s.sessionActs s.evt.a || q.run == .idle || q.run == .ended || q.run == .failed || q.mode = 2 || q.pend.any (·.cause == .dbghalt) then .next s
  else .next (s.raiseAt s.evt.a { cause := .dbghalt })

/-- DEBUG_RESUME: the resume command acts as TRET; the launch's watchdog and the collectives go on. -/
def execDebugResume (s : State) : Out :=
  let a := s.evt.a
  if !s.sessionActs a || (s.seqOf a).mode != 2 then .next s
  else .next (((s.returnFrom a).resumeWdog (s.seqOf a).ctx.launch).letGoColls a)

/-- The sector of a WINDOW range that stands in a granule of the stash of plot a, and its range (R84). -/
def State.granuleSector (s : State) (a k : Nat) : Option (Window × WinSector) :=
  (s.windows.find? fun w => w.owner = a && w.base ≤ 64 * k && 64 * k < w.base + w.size).bind fun w =>
    (w.sectors.find (k - w.base / 64)).map fun x => (w, x)

/-- A granule of stash as it stands, with its tag: what a WINDOW range serves there was written in the current generation
(R41). -/
def State.granule (s : State) (a k : Nat) : Granule :=
  match s.granuleSector a k with
  | some y => { tag := s.genOf a, ws := (List.range 16).map fun i => (i, y.2.words.getD i CW.zero) }
  | none => (s.plot a).stash.get {} k

/-- Raw state of an agent with its tag (R38, R319): 0 a register, 1 a doubleword of stash, 2 an accumulator's element, 3 a word
of a weight slot, 4 an integrator, 5 a carry entry, 6 a special register, 7 a word of a vector accumulator, 8 a byte of a weight
slot's scale side store. -/
def State.raw (s : State) (a item i : Nat) : Option (Word × BitVec 16) :=
  let q := s.seqOf a
  let p := s.plot a
  if isHub a && item != 0 && item != 6 then none
  else match item with
    | 0 => let r := q.regs.get {} i; if i < 32 then some (r.val, r.tag) else none
    | 1 =>
      let g := s.granule a (i / 8)
      some ((g.ws.get CW.zero (i % 8 * 2 + 1)).v ++ (g.ws.get CW.zero (i % 8 * 2)).v, g.tag)
    | 2 => let x := p.accs.get {} (i / 16384); some ((x.els.get {} (i % 16384)).v.setWidth 64, x.tag)
    | 3 => let x := p.wslots.get {} (i / 65536); some ((x.ws.get CW.zero (i % 65536)).v.setWidth 64, x.tag)
    | 4 =>
      let g := p.ints.get {} (i / 8)
      some (match i % 8 with
        | 0 => BitVec.ofInt 64 g.y
        | 1 => BitVec.ofInt 64 g.res
        | 2 => BitVec.ofInt 64 g.dz
        | 3 => g.cfg
        | _ => w64 (b2n g.iovf + 2 * b2n g.ysat), g.tag)
    | 5 => let r := p.carry.get {} i; some (r.val, r.tag)
    | 6 => (s.special a i).map fun v => (v, p.gen)
    | 7 => let x := p.va.get {} (i / 64); some ((x.ws.get CW.zero (i % 64)).v.setWidth 64, x.tag)
    | 8 => let x := p.wslots.get {} (i / 4096); some ((x.scales.get 0 (i % 4096)).setWidth 64, x.tag)
    | _ => none

/-- An integrator with one of its fields written. -/
def Integ.put (g : Integ) (field : Nat) (v : Word) : Integ :=
  match field with
  | 0 => { g with y := v.toInt }
  | 1 => { g with res := v.toInt }
  | 2 => { g with dz := v.toInt }
  | 3 => { g with cfg := v }
  | _ => { g with iovf := v.getLsbD 0, ysat := v.getLsbD 1 }

/-- A debugger's write: the tag becomes the current GEN, and what was stale beside it reads as zero (R39, R41). -/
def State.putRaw (s : State) (a item i : Nat) (v : Word) : State :=
  let lo := CW.mk' (v.extractLsb' 0 32)
  match item with
  | 0 => if i = 0 then s else s.modSeqOf a fun q => { q with regs := q.regs.set i { val := v, tag := s.genOf a } }
  | 1 =>
    let hi := CW.mk' (v.extractLsb' 32 32)
    match s.granuleSector a (i / 8) with
    | some (w, x) =>
      let x := { x with words := (x.words.set (i % 8 * 2) lo).set (i % 8 * 2 + 1) hi, dirty := true }
      s.setWindow { w with sectors := w.sectors.set (i / 8 - w.base / 64) x }
    | none => s.modPlot a fun p => (p.put (8 * i) lo).put (8 * i + 4) hi
  | 2 => s.modPlot a fun p => p.modAcc (i / 16384) fun x =>
      let x := if x.tag = p.gen then x else { tag := p.gen }
      { x with els := x.els.set (i % 16384) { v := lo.v } }
  | 3 => s.modPlot a fun p =>
      let x := p.wslots.get {} (i / 65536)
      let x : WSlot := if x.tag = p.gen then x else { tag := p.gen }
      { p with wslots := p.wslots.set (i / 65536) { x with ws := x.ws.set (i % 65536) lo } }
  | 4 => s.modPlot a fun p => p.modInt (i / 8) fun g => g.put (i % 8) v
  | 5 => s.modPlot a fun p => { p with carry := p.carry.set i { val := v, tag := p.gen } }
  | 6 => (s.putSpecial a i v).getD s
  | 8 => s.modPlot a fun p =>
      let x := p.wslots.get {} (i / 4096)
      let x : WSlot := if x.tag = p.gen then x else { tag := p.gen }
      { p with wslots := p.wslots.set (i / 4096) { x with scales := x.scales.set (i % 4096) (v.setWidth 8), scaleBad := x.scaleBad.del (i % 4096) } }
  | _ => s.modPlot a fun p =>
      let x := p.va.get {} (i / 64)
      let x : VAcc := if x.tag = p.gen then x else { tag := p.gen }
      { p with va := p.va.set (i / 64) { x with ws := x.ws.set (i % 64) lo } }

/-- What the management port answers. -/
def State.answerPort (s : State) (l : List Word) : State := s.modObs fun o => { o with readOut := l }

/-- DEBUGGER_ACCESS: raw state of agent b read with its tag, or written while the agent is in debug mode. Stale data is shown
to the forensic right alone, and DBGCTL.FORENSIC follows the session. -/
def execDebuggerAccess (s : State) : Out :=
  let x := s.evt
  let q := s.seqOf x.b
  let forensic := x.ok2 && x.ns.isEmpty
  if !s.sessionActs x.b then .next (s.answerPort [])
  else match s.raw x.b x.c x.d with
    | none => .next (s.answerPort [])
    | some (v, g) =>
      let s := s.modSeqOf x.b fun q => { q with forensic := forensic }
      if x.ok then .next (if q.mode = 2 then (s.putRaw x.b x.c x.d x.v).answerPort [] else s.answerPort [])
      else .next (s.answerPort [if isHub x.b || g = s.genOf x.b || forensic then v else 0, g.setWidth 64])

/-! ### The management port (R396) -/

/-- CTXRST: management asks for the reset of launch a. -/
def execCtxrst (s : State) : Out := .next (if !s.rootAsks then s else s.raiseSup .ctxrst (w64 s.evt.a))

/-- DUMPREQ, with management's reason. -/
def execDumpreq (s : State) : Out := .next (if !s.rootAsks then s else s.raiseSup .dumpreq s.evt.v)

/-- Current reads (R105, R396). -/
def State.dwords (s : State) (a n : Nat) : List Word := (List.range n).map fun k => s.currentDword (a + 8 * k)

/-- What a session reads: 0 entry c of the journal, 1 of the seed log, 2 an acre's energy counter, 3 EUSED of an RCB, 4 a dump's
header, 5 a link's status word, 6 an RCB. A session of another partition reads RCBs and their counters, of its own. -/
def State.portRead (s : State) (ns : List Nat) (what c : Nat) : List Word :=
  let root := ns.isEmpty
  let mine := root || sessionSees ns (s.partitionOf c)
  match what with
  | 0 => if root && c < s.obs.journal.w && s.obs.journal.w ≤ c + Config.journalSlots then s.dwords (journalSlot c) 8 else []
  | 1 =>
    if root && c < s.obs.seedW && s.obs.seedW ≤ c + Config.seedSlots then s.dwords (Config.seedBase + 32 * (c % Config.seedSlots)) 4 else []
  | 2 => if root && c < 12 then [w64 (s.acre c).energy] else []
  | 3 => if mine then [(s.currentDword (c + 0xD0)).extractLsb' 32 32 |>.setWidth 64] else []
  | 4 => (match s.obs.dumps[c]? with | some d => if root then s.dwords d.pa 8 else [] | none => [])
  | 5 => if root then [(s.link c).item c 2] else []
  | 6 => if mine then s.dwords c 32 else []
  | _ => []

/-- MANAGEMENT_READ: nothing changes but the port's answer. -/
def execManagementRead (s : State) : Out :=
  if s.power.recovery then .next s else .next (s.answerPort (s.portRead s.evt.ns s.evt.b s.evt.c))

/-- MANAGEMENT_ACKNOWLEDGE: a root session moves the archive base of the journal (0) or of the seed log (1) up to c. -/
def execManagementAcknowledge (s : State) : Out :=
  let x := s.evt
  let o := s.obs
  if !s.rootAsks then .next s
  else if x.b = 0 && o.journal.b ≤ x.c && x.c ≤ o.journal.w then
    .next (s.modObs fun o => { o with journal := { o.journal with b := x.c } })
  else if x.b = 1 && o.seedB ≤ x.c && x.c ≤ o.seedW then .next (s.modObs fun o => { o with seedB := x.c })
  else .next s

/-- RECOVERY_FLASH_IMAGE: in recovery mode a signed image is kept for the next power-on. -/
def execRecoveryFlashImage (s : State) : Out :=
  .next (if s.power.recovery && s.evt.ok then s.modPower fun p => { p with flashPending := true } else s)

/-- EXTINT: a board signal, on every hub core. -/
def execExtint (s : State) : Out :=
  .next ((List.range 32).foldl (fun (s : State) c => s.raiseHub c { cause := .extint, t0 := w64 s.evt.a }) s)

end Sys2Proof.Machine
end

