-- ==== Sys2Proof/Machine/Undefined.lean ====
section
/-! DEFINITION. A word that is no instruction (R131, R132). -/

namespace Sys2Proof.Machine

/-- Privileged instructions (R279, R130) that the current sequencer may not execute. -/
def State.mayRun (s : State) (i : Instr) : Bool :=
  match i with
  | .tret | .srdp _ | .swrp _ | .tmask _ | .tlbinv _ | .mbox _ => isHub s.cur || s.seq.mode = 1
  | .genbump _ | .scrub _ | .drainmk _ | .ctxsave _ | .ctxload _ | .relink _ | .lnkctlQuiesce _ | .lnkctlRemap _ | .lnkctlRetrain _
  | .lnkctlResume _ | .lnkctlMargin _ | .lnkst _ | .dirq _ | .dirreclaim _ | .jrnlrd _ | .tempostop _ | .gambit _ | .gambitStop _ =>
    isHub s.cur
  | _ => true

/-- Order 6: a privileged instruction in user mode (R130). Where an instruction runs in the hub only is checked after R131
(R285). -/
def State.userPriv (s : State) (i : Instr) : Bool := !s.mayRun i && !isHub s.cur && s.seq.mode = 0

/-- The first cause of orders 3 to 9 of R131 that applies to a word; none for a valid instruction that may run here. -/
def State.wordFault (s : State) (w : Word) : Option Cause :=
  let cls := (fieldAt 60 4 w).toNat
  if cls = 7 then some .illop
  else if 8 ≤ cls && isHub s.cur then some .nodp
  else if 8 ≤ cls && s.seq.mode != 0 then some .portprot
  else
    match decodeWord w with
    | .error .unassigned => some .illop
    | .error (.form c) =>
      let i := match fixedWord w with | some (_, i) => some i | none => opcodeOf w
      if (match i with | some i => s.userPriv i | none => false) then some .priv else some c
    | .ok i => if !s.mayRun i then some .priv else none

/-- A word that is no instruction traps with its first cause and has no effect; any other word leaves the machine as it is. -/
def execUndefinedWord (w : BitVec 64) (s : State) : Out :=
  match s.wordFault w with
  | some c => .next (s.takeFault { cause := c, t0 := w })
  | none => .next s

end Sys2Proof.Machine
end

