-- ==== Sys2Proof/Machine/Dispatch.lean ====
section
/-! DEFINITION. One arm for each constructor of Instr: its meaning, or its refusal by name. -/

namespace Sys2Proof.Machine

def exec (i : Instr) (s : State) : Host.Outcome State Fault Refusal :=
  match i with
  | .add x => Sys2Proof.Machine.execAdd x s
  | .sub x => Sys2Proof.Machine.execSub x s
  | .mul x => Sys2Proof.Machine.execMul x s
  | .mulh x => Sys2Proof.Machine.execMulh x s
  | .mulhu x => Sys2Proof.Machine.execMulhu x s
  | .div x => Sys2Proof.Machine.execDiv x s
  | .divu x => Sys2Proof.Machine.execDivu x s
  | .mod x => Sys2Proof.Machine.execMod x s
  | .modu x => Sys2Proof.Machine.execModu x s
  | .and x => Sys2Proof.Machine.execAnd x s
  | .or x => Sys2Proof.Machine.execOr x s
  | .xor x => Sys2Proof.Machine.execXor x s
  | .andn x => Sys2Proof.Machine.execAndn x s
  | .shl x => Sys2Proof.Machine.execShl x s
  | .shr x => Sys2Proof.Machine.execShr x s
  | .sra x => Sys2Proof.Machine.execSra x s
  | .rol x => Sys2Proof.Machine.execRol x s
  | .min x => Sys2Proof.Machine.execMin x s
  | .max x => Sys2Proof.Machine.execMax x s
  | .minu x => Sys2Proof.Machine.execMinu x s
  | .maxu x => Sys2Proof.Machine.execMaxu x s
  | .slt x => Sys2Proof.Machine.execSlt x s
  | .sltu x => Sys2Proof.Machine.execSltu x s
  | .seq x => Sys2Proof.Machine.execSeq x s
  | .sel x => Sys2Proof.Machine.execSel x s
  | .madd x => Sys2Proof.Machine.execMadd x s
  | .addsh x => Sys2Proof.Machine.execAddsh x s
  | .clz x => Sys2Proof.Machine.execClz x s
  | .ctz x => Sys2Proof.Machine.execCtz x s
  | .popc x => Sys2Proof.Machine.execPopc x s
  | .brev x => Sys2Proof.Machine.execBrev x s
  | .sext x => Sys2Proof.Machine.execSext x s
  | .zext x => Sys2Proof.Machine.execZext x s
  | .bfx x => Sys2Proof.Machine.execBfx x s
  | .bfi x => Sys2Proof.Machine.execBfi x s
  | .movm x => Sys2Proof.Machine.execMovm x s
  | .addi x => Sys2Proof.Machine.execAddi x s
  | .muli x => Sys2Proof.Machine.execMuli x s
  | .andi x => Sys2Proof.Machine.execAndi x s
  | .ori x => Sys2Proof.Machine.execOri x s
  | .xori x => Sys2Proof.Machine.execXori x s
  | .shli x => Sys2Proof.Machine.execShli x s
  | .shri x => Sys2Proof.Machine.execShri x s
  | .srai x => Sys2Proof.Machine.execSrai x s
  | .slti x => Sys2Proof.Machine.execSlti x s
  | .sltiu x => Sys2Proof.Machine.execSltiu x s
  | .seqi x => Sys2Proof.Machine.execSeqi x s
  | .li x => Sys2Proof.Machine.execLi x s
  | .lih x => Sys2Proof.Machine.execLih x s
  | .lea x => Sys2Proof.Machine.execLea x s
  | .ldb x => Sys2Proof.Machine.execLdb x s
  | .ldbu x => Sys2Proof.Machine.execLdbu x s
  | .ldh x => Sys2Proof.Machine.execLdh x s
  | .ldhu x => Sys2Proof.Machine.execLdhu x s
  | .ldw x => Sys2Proof.Machine.execLdw x s
  | .ldwu x => Sys2Proof.Machine.execLdwu x s
  | .ldd x => Sys2Proof.Machine.execLdd x s
  | .stb x => Sys2Proof.Machine.execStb x s
  | .sth x => Sys2Proof.Machine.execSth x s
  | .stw x => Sys2Proof.Machine.execStw x s
  | .std x => Sys2Proof.Machine.execStd x s
  | .ldm x => Sys2Proof.Machine.execLdm x s
  | .stm x => Sys2Proof.Machine.execStm x s
  | .pref x => Sys2Proof.Machine.execPref x s
  | .clean x => Sys2Proof.Machine.execClean x s
  | .aadd x => Sys2Proof.Machine.execAadd x s
  | .aand x => Sys2Proof.Machine.execAand x s
  | .aor x => Sys2Proof.Machine.execAor x s
  | .axor x => Sys2Proof.Machine.execAxor x s
  | .amin x => Sys2Proof.Machine.execAmin x s
  | .amax x => Sys2Proof.Machine.execAmax x s
  | .aminu x => Sys2Proof.Machine.execAminu x s
  | .amaxu x => Sys2Proof.Machine.execAmaxu x s
  | .aswp x => Sys2Proof.Machine.execAswp x s
  | .acas x => Sys2Proof.Machine.execAcas x s
  | .afadd x => Sys2Proof.Machine.execAfadd x s
  | .fence x => Sys2Proof.Machine.execFence x s
  | .phaseAcq x => Sys2Proof.Machine.execPhaseAcq x s
  | .phaseRel x => Sys2Proof.Machine.execPhaseRel x s
  | .phaseAr x => Sys2Proof.Machine.execPhaseAr x s
  | .publish x => Sys2Proof.Machine.execPublish x s
  | .beq x => Sys2Proof.Machine.execBeq x s
  | .bne x => Sys2Proof.Machine.execBne x s
  | .blt x => Sys2Proof.Machine.execBlt x s
  | .bge x => Sys2Proof.Machine.execBge x s
  | .bltu x => Sys2Proof.Machine.execBltu x s
  | .bgeu x => Sys2Proof.Machine.execBgeu x s
  | .j x => Sys2Proof.Machine.execJ x s
  | .jal x => Sys2Proof.Machine.execJal x s
  | .jalr x => Sys2Proof.Machine.execJalr x s
  | .loop x => Sys2Proof.Machine.execLoop x s
  | .halt => Sys2Proof.Machine.execHalt s
  | .nop => Sys2Proof.Machine.execNop s
  | .yield => Sys2Proof.Machine.execYield s
  | .progress x => Sys2Proof.Machine.execProgress x s
  | .srd x => Sys2Proof.Machine.execSrd x s
  | .swr x => Sys2Proof.Machine.execSwr x s
  | .tagwaitany x => Sys2Proof.Machine.execTagwaitany x s
  | .tagwaitall x => Sys2Proof.Machine.execTagwaitall x s
  | .tagff x => Sys2Proof.Machine.execTagff x s
  | .tagclr x => Sys2Proof.Machine.execTagclr x s
  | .cbclose => Sys2Proof.Machine.execCbclose s
  | .cbwait x => Sys2Proof.Machine.execCbwait x s
  | .bararv x => Sys2Proof.Machine.execBararv x s
  | .barwait x => Sys2Proof.Machine.execBarwait x s
  | .bar x => Sys2Proof.Machine.execBar x s
  | .evsig x => Sys2Proof.Machine.execEvsig x s
  | .evwait x => Sys2Proof.Machine.execEvwait x s
  | .evrst x => Sys2Proof.Machine.execEvrst x s
  | .evalloc x => Sys2Proof.Machine.execEvalloc x s
  | .launch x => Sys2Proof.Machine.execLaunch x s
  | .seed x => Sys2Proof.Machine.execSeed x s
  | .stashdecl x => Sys2Proof.Machine.execStashdecl x s
  | .carryx x => Sys2Proof.Machine.execCarryx x s
  | .carryi x => Sys2Proof.Machine.execCarryi x s
  | .trap x => Sys2Proof.Machine.execTrap x s
  | .trapBrkpt x => Sys2Proof.Machine.execTrapBrkpt x s
  | .tret => Sys2Proof.Machine.execTret s
  | .srdp x => Sys2Proof.Machine.execSrdp x s
  | .swrp x => Sys2Proof.Machine.execSwrp x s
  | .genbump x => Sys2Proof.Machine.execGenbump x s
  | .scrub x => Sys2Proof.Machine.execScrub x s
  | .tmask x => Sys2Proof.Machine.execTmask x s
  | .drainmk x => Sys2Proof.Machine.execDrainmk x s
  | .ctxsave x => Sys2Proof.Machine.execCtxsave x s
  | .ctxload x => Sys2Proof.Machine.execCtxload x s
  | .relink x => Sys2Proof.Machine.execRelink x s
  | .lnkctlQuiesce x => Sys2Proof.Machine.execLnkctlQuiesce x s
  | .lnkctlRemap x => Sys2Proof.Machine.execLnkctlRemap x s
  | .lnkctlRetrain x => Sys2Proof.Machine.execLnkctlRetrain x s
  | .lnkctlResume x => Sys2Proof.Machine.execLnkctlResume x s
  | .lnkctlMargin x => Sys2Proof.Machine.execLnkctlMargin x s
  | .lnkst x => Sys2Proof.Machine.execLnkst x s
  | .dirq x => Sys2Proof.Machine.execDirq x s
  | .dirreclaim x => Sys2Proof.Machine.execDirreclaim x s
  | .jrnlrd x => Sys2Proof.Machine.execJrnlrd x s
  | .tlbinv x => Sys2Proof.Machine.execTlbinv x s
  | .tempostop x => Sys2Proof.Machine.execTempostop x s
  | .gambit x => Sys2Proof.Machine.execGambit x s
  | .gambitStop x => Sys2Proof.Machine.execGambitStop x s
  | .mbox x => Sys2Proof.Machine.execMbox x s
  | .vadd x => Sys2Proof.Machine.execVadd x s
  | .vsub x => Sys2Proof.Machine.execVsub x s
  | .vmul x => Sys2Proof.Machine.execVmul x s
  | .vfma x => Sys2Proof.Machine.execVfma x s
  | .vfms x => Sys2Proof.Machine.execVfms x s
  | .vfnma x => Sys2Proof.Machine.execVfnma x s
  | .vdiv x => Sys2Proof.Machine.execVdiv x s
  | .vsqrt x => Sys2Proof.Machine.execVsqrt x s
  | .vrcp x => Sys2Proof.Machine.execVrcp x s
  | .vrsq x => Sys2Proof.Machine.execVrsq x s
  | .vexp2 x => Sys2Proof.Machine.execVexp2 x s
  | .vlog2 x => Sys2Proof.Machine.execVlog2 x s
  | .vmin x => Sys2Proof.Machine.execVmin x s
  | .vmax x => Sys2Proof.Machine.execVmax x s
  | .vabs x => Sys2Proof.Machine.execVabs x s
  | .vneg x => Sys2Proof.Machine.execVneg x s
  | .vclamp x => Sys2Proof.Machine.execVclamp x s
  | .vand x => Sys2Proof.Machine.execVand x s
  | .vor x => Sys2Proof.Machine.execVor x s
  | .vxor x => Sys2Proof.Machine.execVxor x s
  | .vshl x => Sys2Proof.Machine.execVshl x s
  | .vshr x => Sys2Proof.Machine.execVshr x s
  | .vsra x => Sys2Proof.Machine.execVsra x s
  | .vcmpeq x => Sys2Proof.Machine.execVcmpeq x s
  | .vcmplt x => Sys2Proof.Machine.execVcmplt x s
  | .vcmple x => Sys2Proof.Machine.execVcmple x s
  | .vsel x => Sys2Proof.Machine.execVsel x s
  | .vmov x => Sys2Proof.Machine.execVmov x s
  | .viota x => Sys2Proof.Machine.execViota x s
  | .vrng x => Sys2Proof.Machine.execVrng x s
  | .vscale x => Sys2Proof.Machine.execVscale x s
  | .vcvt x => Sys2Proof.Machine.execVcvt x s
  | .vqmx x => Sys2Proof.Machine.execVqmx x s
  | .vdqmx x => Sys2Proof.Machine.execVdqmx x s
  | .vpack x => Sys2Proof.Machine.execVpack x s
  | .vunpack x => Sys2Proof.Machine.execVunpack x s
  | .vshuf x => Sys2Proof.Machine.execVshuf x s
  | .vbcast x => Sys2Proof.Machine.execVbcast x s
  | .vredadd x => Sys2Proof.Machine.execVredadd x s
  | .vredmax x => Sys2Proof.Machine.execVredmax x s
  | .vredmin x => Sys2Proof.Machine.execVredmin x s
  | .vacc x => Sys2Proof.Machine.execVacc x s
  | .varst x => Sys2Proof.Machine.execVarst x s
  | .vaout x => Sys2Proof.Machine.execVaout x s
  | .vscan x => Sys2Proof.Machine.execVscan x s
  | .vtos x => Sys2Proof.Machine.execVtos x s
  | .vsteer x => Sys2Proof.Machine.execVsteer x s
  | .vmerge x => Sys2Proof.Machine.execVmerge x s
  | .pand x => Sys2Proof.Machine.execPand x s
  | .por x => Sys2Proof.Machine.execPor x s
  | .pnot x => Sys2Proof.Machine.execPnot x s
  | .pgen x => Sys2Proof.Machine.execPgen x s
  | .pfrom x => Sys2Proof.Machine.execPfrom x s
  | .pdrop x => Sys2Proof.Machine.execPdrop x s
  | .agbase x => Sys2Proof.Machine.execAgbase x s
  | .agloop x => Sys2Proof.Machine.execAgloop x s
  | .sloop x => Sys2Proof.Machine.execSloop x s
  | .agidx x => Sys2Proof.Machine.execAgidx x s
  | .srst x => Sys2Proof.Machine.execSrst x s
  | .sld x => Sys2Proof.Machine.execSld x s
  | .sst x => Sys2Proof.Machine.execSst x s
  | .sgath x => Sys2Proof.Machine.execSgath x s
  | .sscat x => Sys2Proof.Machine.execSscat x s
  | .sfill x => Sys2Proof.Machine.execSfill x s
  | .sbar x => Sys2Proof.Machine.execSbar x s
  | .btgive x => Sys2Proof.Machine.execBtgive x s
  | .bttake x => Sys2Proof.Machine.execBttake x s
  | .tdset x => Sys2Proof.Machine.execTdset x s
  | .tld x => Sys2Proof.Machine.execTld x s
  | .tlda x => Sys2Proof.Machine.execTlda x s
  | .tst x => Sys2Proof.Machine.execTst x s
  | .tadd x => Sys2Proof.Machine.execTadd x s
  | .tcpy x => Sys2Proof.Machine.execTcpy x s
  | .cpy x => Sys2Proof.Machine.execCpy x s
  | .cpymm x => Sys2Proof.Machine.execCpymm x s
  | .coll x => Sys2Proof.Machine.execColl x s
  | .mma x => Sys2Proof.Machine.execMma x s
  | .mmaz x => Sys2Proof.Machine.execMmaz x s
  | .azero x => Sys2Proof.Machine.execAzero x s
  | .adrain x => Sys2Proof.Machine.execAdrain x s
  | .arel x => Sys2Proof.Machine.execArel x s
  | .wld x => Sys2Proof.Machine.execWld x s
  | .wrel x => Sys2Proof.Machine.execWrel x s
  | .cbld x => Sys2Proof.Machine.execCbld x s
  | .amirror x => Sys2Proof.Machine.execAmirror x s
  | .aspill x => Sys2Proof.Machine.execAspill x s
  | .icfg x => Sys2Proof.Machine.execIcfg x s
  | .iset x => Sys2Proof.Machine.execIset x s
  | .iwire x => Sys2Proof.Machine.execIwire x s
  | .iunwire x => Sys2Proof.Machine.execIunwire x s
  | .istep x => Sys2Proof.Machine.execIstep x s
  | .isample x => Sys2Proof.Machine.execIsample x s
  | .istream x => Sys2Proof.Machine.execIstream x s
  | .istreamOff => Sys2Proof.Machine.execIstreamOff s
  | .iinject x => Sys2Proof.Machine.execIinject x s
  | .iinjectPort x => Sys2Proof.Machine.execIinjectPort x s
  | .iflags x => Sys2Proof.Machine.execIflags x s
  | .isave x => Sys2Proof.Machine.execIsave x s
  | .iload x => Sys2Proof.Machine.execIload x s
  | .iloadImage x => Sys2Proof.Machine.execIloadImage x s
  | .routeLocal x => Sys2Proof.Machine.execRouteLocal x s
  | .routeRemote x => Sys2Proof.Machine.execRouteRemote x s
  | .routeRank x => Sys2Proof.Machine.execRouteRank x s
  | .routeFile x => Sys2Proof.Machine.execRouteFile x s
  | .routeHold x => Sys2Proof.Machine.execRouteHold x s
  | .routeExpect x => Sys2Proof.Machine.execRouteExpect x s
  | .rtab x => Sys2Proof.Machine.execRtab x s
  | .cfgblk x => Sys2Proof.Machine.execCfgblk x s
  | .actrate x => Sys2Proof.Machine.execActrate x s
  | .undefinedWord w => Sys2Proof.Machine.execUndefinedWord w s
  | .actorFiring => Sys2Proof.Machine.execActorFiring s
  | .streamBeat => Sys2Proof.Machine.execStreamBeat s
  | .beatReplay => Sys2Proof.Machine.execBeatReplay s
  | .matrixStep => Sys2Proof.Machine.execMatrixStep s
  | .drainFiring => Sys2Proof.Machine.execDrainFiring s
  | .accumulatorSpill => Sys2Proof.Machine.execAccumulatorSpill s
  | .matrixMarkerEffect => Sys2Proof.Machine.execMatrixMarkerEffect s
  | .weightFillComplete => Sys2Proof.Machine.execWeightFillComplete s
  | .istepFiring => Sys2Proof.Machine.execIstepFiring s
  | .bankMarkerEffect => Sys2Proof.Machine.execBankMarkerEffect s
  | .tokenSend => Sys2Proof.Machine.execTokenSend s
  | .tokenDelivery => Sys2Proof.Machine.execTokenDelivery s
  | .tilePerform => Sys2Proof.Machine.execTilePerform s
  | .copyPerform => Sys2Proof.Machine.execCopyPerform s
  | .followOnMmaStart => Sys2Proof.Machine.execFollowOnMmaStart s
  | .publication => Sys2Proof.Machine.execPublication s
  | .publishFlip => Sys2Proof.Machine.execPublishFlip s
  | .windowFill => Sys2Proof.Machine.execWindowFill s
  | .bankTokenSend => Sys2Proof.Machine.execBankTokenSend s
  | .bankTokenArrival => Sys2Proof.Machine.execBankTokenArrival s
  | .pageWalk => Sys2Proof.Machine.execPageWalk s
  | .backgroundScrub => Sys2Proof.Machine.execBackgroundScrub s
  | .barrierCompletion => Sys2Proof.Machine.execBarrierCompletion s
  | .supervisorResume => Sys2Proof.Machine.execSupervisorResume s
  | .schedulerDecision => Sys2Proof.Machine.execSchedulerDecision s
  | .agingStep => Sys2Proof.Machine.execAgingStep s
  | .strandRelease => Sys2Proof.Machine.execStrandRelease s
  | .rankStart => Sys2Proof.Machine.execRankStart s
  | .launchRetirement => Sys2Proof.Machine.execLaunchRetirement s
  | .headlandScrub => Sys2Proof.Machine.execHeadlandScrub s
  | .boundaryException => Sys2Proof.Machine.execBoundaryException s
  | .timer => Sys2Proof.Machine.execTimer s
  | .timecmpWrite => Sys2Proof.Machine.execTimecmpWrite s
  | .formatWindowWrite => Sys2Proof.Machine.execFormatWindowWrite s
  | .agRecordWrite => Sys2Proof.Machine.execAgRecordWrite s
  | .watchdogExpiry => Sys2Proof.Machine.execWatchdogExpiry s
  | .preemptionEscalation => Sys2Proof.Machine.execPreemptionEscalation s
  | .actorPark => Sys2Proof.Machine.execActorPark s
  | .drainComplete => Sys2Proof.Machine.execDrainComplete s
  | .residentSwitch => Sys2Proof.Machine.execResidentSwitch s
  | .energySample => Sys2Proof.Machine.execEnergySample s
  | .quotaPeriodBoundary => Sys2Proof.Machine.execQuotaPeriodBoundary s
  | .gyordHello => Sys2Proof.Machine.execGyordHello s
  | .gyordLaunch => Sys2Proof.Machine.execGyordLaunch s
  | .gyordCopy => Sys2Proof.Machine.execGyordCopy s
  | .gyordEventSig => Sys2Proof.Machine.execGyordEventSig s
  | .gyordEventWait => Sys2Proof.Machine.execGyordEventWait s
  | .gyordEventRead => Sys2Proof.Machine.execGyordEventRead s
  | .gyordQueryLaunch => Sys2Proof.Machine.execGyordQueryLaunch s
  | .gyordQueryRcb => Sys2Proof.Machine.execGyordQueryRcb s
  | .gyordManagement => Sys2Proof.Machine.execGyordManagement s
  | .neterr => Sys2Proof.Machine.execNeterr s
  | .knabryTraining => Sys2Proof.Machine.execKnabryTraining s
  | .flitRequest => Sys2Proof.Machine.execFlitRequest s
  | .flitResponse => Sys2Proof.Machine.execFlitResponse s
  | .flitSnoop => Sys2Proof.Machine.execFlitSnoop s
  | .flitSnoopReply => Sys2Proof.Machine.execFlitSnoopReply s
  | .flitContribution => Sys2Proof.Machine.execFlitContribution s
  | .flitResult => Sys2Proof.Machine.execFlitResult s
  | .flitHold => Sys2Proof.Machine.execFlitHold s
  | .flitRelease => Sys2Proof.Machine.execFlitRelease s
  | .flitCredit => Sys2Proof.Machine.execFlitCredit s
  | .flitCrcRetry => Sys2Proof.Machine.execFlitCrcRetry s
  | .directoryRds => Sys2Proof.Machine.execDirectoryRds s
  | .directoryRdx => Sys2Proof.Machine.execDirectoryRdx s
  | .directoryWrh => Sys2Proof.Machine.execDirectoryWrh s
  | .directoryEvict => Sys2Proof.Machine.execDirectoryEvict s
  | .dirtyNotice => Sys2Proof.Machine.execDirtyNotice s
  | .invalidationTimeout => Sys2Proof.Machine.execInvalidationTimeout s
  | .snoopTimeout => Sys2Proof.Machine.execSnoopTimeout s
  | .ownerReachable => Sys2Proof.Machine.execOwnerReachable s
  | .snptmoWrite => Sys2Proof.Machine.execSnptmoWrite s
  | .podRangeWrite => Sys2Proof.Machine.execPodRangeWrite s
  | .collPathWrite => Sys2Proof.Machine.execCollPathWrite s
  | .collectiveSuccess => Sys2Proof.Machine.execCollectiveSuccess s
  | .collectiveTimeout => Sys2Proof.Machine.execCollectiveTimeout s
  | .ucieRetryThreshold => Sys2Proof.Machine.execUcieRetryThreshold s
  | .ucieFlitFail => Sys2Proof.Machine.execUcieFlitFail s
  | .quiesceTimeout => Sys2Proof.Machine.execQuiesceTimeout s
  | .ucieRetryConfigWrite => Sys2Proof.Machine.execUcieRetryConfigWrite s
  | .scopeCheckControlWrite => Sys2Proof.Machine.execScopeCheckControlWrite s
  | .traceRingWrite => Sys2Proof.Machine.execTraceRingWrite s
  | .journalSubmit => Sys2Proof.Machine.execJournalSubmit s
  | .journalAppend => Sys2Proof.Machine.execJournalAppend s
  | .hubRegisterWrite => Sys2Proof.Machine.execHubRegisterWrite s
  | .fatalDump => Sys2Proof.Machine.execFatalDump s
  | .gambitWindowSwitch => Sys2Proof.Machine.execGambitWindowSwitch s
  | .gambitTrialEnd => Sys2Proof.Machine.execGambitTrialEnd s
  | .tempostopWarning => Sys2Proof.Machine.execTempostopWarning s
  | .tempoStop => Sys2Proof.Machine.execTempoStop s
  | .podTempoAlign => Sys2Proof.Machine.execPodTempoAlign s
  | .powerOnReset => Sys2Proof.Machine.execPowerOnReset s
  | .acrePowerUp => Sys2Proof.Machine.execAcrePowerUp s
  | .linkMemoryTraining => Sys2Proof.Machine.execLinkMemoryTraining s
  | .moduleReady => Sys2Proof.Machine.execModuleReady s
  | .dieWarm => Sys2Proof.Machine.execDieWarm s
  | .acreHot => Sys2Proof.Machine.execAcreHot s
  | .dieOvertemp => Sys2Proof.Machine.execDieOvertemp s
  | .powerCapSet => Sys2Proof.Machine.execPowerCapSet s
  | .operatingPointChange => Sys2Proof.Machine.execOperatingPointChange s
  | .dbghalt => Sys2Proof.Machine.execDbghalt s
  | .debugResume => Sys2Proof.Machine.execDebugResume s
  | .debuggerAccess => Sys2Proof.Machine.execDebuggerAccess s
  | .ctxrst => Sys2Proof.Machine.execCtxrst s
  | .dumpreq => Sys2Proof.Machine.execDumpreq s
  | .managementRead => Sys2Proof.Machine.execManagementRead s
  | .recoveryFlashImage => Sys2Proof.Machine.execRecoveryFlashImage s
  | .extint => Sys2Proof.Machine.execExtint s
  | .entropyBitsReady => Sys2Proof.Machine.execEntropyBitsReady s
  | .managementAcknowledge => Sys2Proof.Machine.execManagementAcknowledge s
  | .holdchildRelease => Sys2Proof.Machine.execHoldchildRelease s
  | .ethernetLinkUp => Sys2Proof.Machine.execEthernetLinkUp s

end Sys2Proof.Machine
end

