-- ==== Sys2Proof/Machine/Upset.lean ====
section
/-! DEFINITION. What physical faults of the storage leave behind (R95, R97, R350), and a stop that another module of the pod
makes (R293). They come from outside, as moves of the schedule. -/

namespace Sys2Proof.Machine

/-- The memory device that holds a frame, as a journal entry names it (R352): a tier-1 stack, or a tier-2 module. -/
def State.stackUnit (s : State) (pa : Nat) : Nat :=
  if s.popKind pa = 2 then 0x4010 + tier2Module pa else 0x4000 + homeAcre pa

/-- A sector of memory is lost (R97, R350): its poison bit is set, and what no cache holds has code 15 in every word; `alt` picks
the face. -/
def State.loseSector (s : State) (alt : Bool) (pa : Nat) : State :=
  let s := if alt then s else { s with poisoned := s.poisoned.set (pa / 64) () }
  if !alt && (s.cache.find (pa / 64)).isSome then s
  else { s with phys := (List.range 16).foldl (fun p k =>
      let a := pa / 64 * 64 + 4 * k
      p.put alt a (CW.poison (p.word alt a).v)) s.phys }

/-- Word `a` of stash, changed by `f`; a stale granule has nothing to lose. -/
def Plot.strike (p : Plot) (a : Nat) (f : CW → CW) : Plot :=
  if p.staleAt a then p else p.put (a / 4 * 4) (f (p.word (a / 4 * 4)))

/-- Word k of a weight slot takes code 15. -/
def Plot.strikeSlot (p : Plot) (j k : Nat) : Plot :=
  let w := p.wslots.get {} j
  { p with wslots := p.wslots.set j { w with ws := w.ws.set k (CW.poison (w.ws.get CW.zero k).v) } }

/-- Word k of the token at the head of a port changes its bits, its code left as it is (R95). -/
def Plot.strikeToken (p : Plot) (port k : Nat) (v : BitVec 32) : Plot :=
  match p.port port with
  | { k := .data b, by_, feeder } :: rest =>
    let ws := (List.range 64).map fun n => if n = k then { b.word n with v := (b.word n).v ^^^ v } else b.word n
    { p with ports := p.ports.set port ({ k := .data { b with ws := ws }, by_ := by_, feeder := feeder } :: rest) }
  | _ => p

/-- A fault of the storage at the place that the event record gives. `c` says what fails:
0 and 1 a sector of memory at physical address b, corrected or lost (`ok` picks the second face of a publishable frame);
2 and 3 the word at b of the stash of plot a; 4 and 5 the word at b of its code store; 6 and 7 a word of a home slice's cache at
physical address b; 8 and 9 word d of weight slot b of plot a: corrected, or lost;
10 word d of the token at the head of port b of plot a, 11 the word of memory at b, 12 the word at b of the stash of plot a:
bits `v` change and the code does not.
13 is no fault, but the stop at tick `v` that another module's TEMPOSTOP with POD brings (R293); nor is 14, by which the
firmware of hub core a turns its translation on (`ok`), with root table `v` and ASID b, or off (R278). -/
def State.upset (s : State) : State :=
  let x := s.evt
  let b := x.b
  let pa := b / 4 * 4
  let launch := (s.seqOf x.a).ctx.launch
  let memory := s.popKind b = 1 || s.popKind b = 2
  let plot := namesPlot x.a
  let flip (w : CW) : CW := { w with v := w.v ^^^ x.v.setWidth 32 }
  let lose (w : CW) : CW := CW.poison w.v
  let sram (lost : Bool) (s : State) : State := s.report x.a (if lost then 4 else 3) (if lost then 1 else 0) 0 0 0 launch
  match x.c with
  | 0 => if memory then s.report (s.stackUnit b) 0x01 0 0 (w64 b) else s
  | 1 => if memory then (s.loseSector x.ok b).report (s.stackUnit b) 0x02 1 0 (w64 b) else s
  | 2 => if plot && b < 0x20_0000 then sram false s else s
  | 3 => if plot && b < 0x20_0000 then sram true (s.modPlot x.a fun p => p.strike b lose) else s
  | 4 => if plot then sram false s else s
  | 5 => if plot then sram true (s.modPlot x.a fun p => { p with codeBad := p.codeBad ++ [b / 8] }) else s
  | 6 => if memory then s.report (0x1000 + homeSlice b) 0x03 0 0 (w64 b) else s
  | 7 =>
    if memory then ({ s with phys := s.phys.put x.ok pa (lose (s.phys.word x.ok pa)) } : State).report (0x1000 + homeSlice b) 0x04 1 0 (w64 b)
    else s
  | 8 => if plot then sram false s else s
  | 9 => if plot && b < 4 && x.d < 8192 then sram true (s.modPlot x.a fun p => p.strikeSlot b x.d) else s
  | 10 => if plot && x.d < 64 then s.modPlot x.a fun p => p.strikeToken b x.d (x.v.setWidth 32) else s
  | 11 => if memory then { s with phys := s.phys.put x.ok pa (flip (s.phys.word x.ok pa)) } else s
  | 12 => if plot && b < 0x20_0000 then s.modPlot x.a fun p => p.strike b flip else s
  | 13 => s.stopBy x.v
  | 14 =>
    if x.a < 32 then s.modSeqOf (hubAgent x.a) fun q => { q with ctx := { q.ctx with translate := x.ok, ptroot := x.v.toNat, asid := b % 65536 } }
    else s
  | _ => s

end Sys2Proof.Machine
end

