-- ==== Sys2Proof/Machine/Schedule.lean ====
section
/-! DEFINITION. One move of the schedule: an agent's sequencer runs, an event happens, ticks pass, the hardware fails. -/

namespace Sys2Proof.Machine

/-- The instruction at the PC is fetched, decoded and executed (R115, R131). -/
def State.execute (s : State) : Out :=
  match s.fetch with
  | .error e => settle s (.error e)
  | .ok w =>
    match decodeWord w with
    | .ok i => if s.mayRun i then exec i s else execUndefinedWord w s
    | .error _ => execUndefinedWord w s

/-- An agent's sequencer runs: a request is honoured, or a boundary exception delivered, or an instruction executed. A
sequencer that is not running executes nothing; in debug mode it only takes an EQUOTA request (R329). -/
def State.runAgent (s : State) : Out :=
  let q := s.seq
  if q.run != .running || (q.mode = 2 && q.req.quota.isNone) then .next s
  else if q.mode = 2 then .next s.honour
  else if !q.req.pending && !(q.delivers && q.hasPending) then s.execute
  else
    let i := s.atPc
    if s.mayHonour i then .next s.honour
    else if q.delivers && q.hasPending && s.atBoundary i then exec .boundaryException { s with evt := { a := s.cur } }
    else s.execute

/-- Events of the machine and of its surroundings: the constructors that are no instruction. -/
def isEvent (i : Instr) : Bool := encode i = 0 && (match i with | .undefinedWord _ => false | _ => true)

/-- A sector leaves this module's caches by itself: written back if dirty, a shared copy of a pod sector dropped. What an owner
gives up goes through the directory (R362). -/
def State.evict (s : State) (sec : Nat) : State :=
  if 2 ≤ s.lineSt (sec * 64) then s
  else (s.dropSector (sec * 64)).modFabric fun f => { f with lines := f.lines.del sec }

/-- The energy counters and quotas as the tempo comes to a tick (R321, R322): periods are whole milliseconds. -/
def State.quotasDue (s : State) (before : Word) : State :=
  let s := if before.toNat / 1_000_000 != s.tempo.toNat / 1_000_000 then s.quotaBoundary else s
  s.samplesDue

/-- A tick of the tempo: flips that are due are made (R111), samples and quota periods follow (R321, R322), the stop is told and
made (R323, R374). -/
def State.tick (s : State) (n : Nat) : State :=
  let t := { s with tempo := s.tempo + w64 n }
  ((State.flipsDue t.flips.length t).quotasDue s.tempo).warnStop.stopTempo

/-- The module's clocks are gated, or it has powered off (R293, R390, R395). -/
def State.stopped (s : State) : Bool := s.power.gated || s.power.off

def isReset : Move → Bool
  | .event .powerOnReset _ => true
  | _ => false

/-- A read through the management port, which scans a stopped module out (R293, R319, R396). -/
def isScan : Move → Bool
  | .event .debuggerAccess x => !x.ok
  | .event .managementRead _ => true
  | _ => false

/-- A stopped module takes no move but a reset, and while it has power the reads that scan it out. -/
def State.takes (s : State) (m : Move) : Bool := !s.stopped || isReset m || (isScan m && !s.power.off)

/-- What a move does once its tick has come. -/
def State.act (s : State) (m : Move) : Out :=
  match m with
  | .run a => ({ s with cur := a }).runAgent
  | .event i x => if isEvent i then exec i { s with evt := x } else .next s
  | .elapse n => .next (s.tick n)
  | .upset x => .next (({ s with evt := x } : State).upset)
  | .evict sec => .next (s.evict sec)

/-- One move; it takes one tick of the tempo, unless the clocks are gated. -/
def State.move (s : State) (m : Move) : Out :=
  let t := if s.stopped then s else s.tick 1
  if t.takes m then t.act m else .next t

/-! ### The move that comes when the schedule names none -/

/-- What the units of a plot may do of themselves. -/
def State.plotEvents (s : State) (c : Nat) : List (Instr × EvArgs) :=
  let p := s.plot c
  let one (i : Instr) : Instr × EvArgs := (i, { a := c })
  let many (i : Instr) (n : Nat) : List (Instr × EvArgs) := (List.range n).map fun k => (i, { a := c, b := k })
  [one .actorFiring, one .matrixStep, one .drainFiring, one .accumulatorSpill, one .matrixMarkerEffect, one .followOnMmaStart,
   one .istepFiring, one .bankMarkerEffect] ++ many .streamBeat 4 ++ many .weightFillComplete 16 ++ many .tokenSend 24 ++
  many .bankTokenSend 16 ++ (p.ops.map fun o => (.tilePerform, { a := c, b := o.id })) ++
  (p.ops.map fun o => (.copyPerform, { a := c, b := o.id, c := 2 ^ 30 })) ++ (p.actors.map fun x => (.actorPark, { a := c, b := x.id }))

/-- What the module may do of itself. -/
def State.ownEvents (s : State) : List (Instr × EvArgs) :=
  let ix (i : Instr) (n : Nat) : List (Instr × EvArgs) := (List.range n).map fun k => (i, { a := k })
  let agents (i : Instr) : List (Instr × EvArgs) := s.seqs.map fun kq => (i, { a := kq.1 })
  let launches (i : Instr) : List (Instr × EvArgs) := s.sched.launches.map fun kl => (i, { a := kl.1 })
  let tracts (i : Instr) : List (Instr × EvArgs) :=
    s.sched.launches.flatMap fun kl => (List.range kl.2.tracts.length).map fun t => (i, { a := kl.1, b := t })
  let sectors (i : Instr) : List (Instr × EvArgs) := s.fabric.dirQ.map fun r => (i, { a := r.sector })
  ix .pageWalk s.misses.length ++ ix .tokenDelivery s.flight.length ++ ix .bankTokenArrival s.flight.length ++
  ix .windowFill s.winMisses.length ++ ix .barrierCompletion s.sched.episodes.length ++ agents .publication ++ agents .boundaryException ++
  agents .timer ++ agents .preemptionEscalation ++ tracts .strandRelease ++ tracts .rankStart ++ launches .launchRetirement ++
  launches .watchdogExpiry ++ (s.sched.launches.map fun kl => (.schedulerDecision, { a := kl.2.part })) ++ [(.agingStep, { a := 0 })] ++
  (s.sched.drains.map fun d => (.drainComplete, { a := d.id })) ++ sectors .directoryRds ++ sectors .directoryRdx ++ sectors .directoryWrh ++
  sectors .directoryEvict ++ (s.fabric.colls.map fun kc => (.collectiveSuccess, { a := kc.1 })) ++
  (s.fabric.colls.map fun kc => (.collectiveTimeout, { a := kc.1 })) ++ (s.fabric.links.map fun kl => (.quiesceTimeout, { a := kl.1 })) ++
  (s.obs.trials.map fun t => (.gambitWindowSwitch, { a := t.id })) ++ (s.obs.trials.map fun t => (.gambitTrialEnd, { a := t.id })) ++
  [(.journalAppend, { a := 0 })] ++ s.plots.flatMap fun kp => s.plotEvents kp.1

/-- An event that would change the state beyond the record of it. -/
def State.enabled (s : State) (e : Instr × EvArgs) : Bool :=
  let t := { s with evt := e.2 }
  match exec e.1 t with
  | .next u => u != t
  | _ => false

/-- The agents whose sequencers run, those after the current one first. -/
def State.runners (s : State) : List Nat :=
  let l := (s.seqs.filter fun kq => kq.2.run == .running && (kq.2.mode != 2 || kq.2.req.quota.isSome)).map (·.1)
  l.filter (s.cur < ·) ++ l.filter (· ≤ s.cur)

/-- The move that comes when the schedule names none: by turns the next sequencer, and the first event of the machine's own that
would change something; where nothing can be done, time passes. -/
def State.nextMove (s : State) : Move :=
  let ev : Option Move := (s.ownEvents.find? s.enabled).map fun e => .event e.1 e.2
  let ag : Option Move := s.runners.head?.map .run
  let pick : Option Move := if s.tempo.getLsbD 0 then ev.or ag else ag.or ev
  pick.getD (.elapse 1)

end Sys2Proof.Machine
end

