-- ==== Sys2Proof/Machine/Step.lean ====
section
/-! DEFINITION. The step: the head of the schedule, or the move that comes when the schedule names none. -/

namespace Sys2Proof.Machine

/-- One step of the module. One whose clocks are gated or that has powered off takes few moves (`State.takes`). -/
def step (s : State) : Host.Outcome State Fault Refusal :=
  match s.agenda with
  | [] => if s.stopped then .fault .clocksGated else s.move s.nextMove
  | m :: ms => if s.takes m then ({ s with agenda := ms }).move m else .fault .clocksGated

/-- The sequencer of plot 0 with a strand in user mode at offset 0, as a launch would have released it (R35, R44). -/
def probeSeq : Seq := { run := .running }

/-- `s` with the instruction word stored in the code store of plot 0 at offset 0, a strand released there, and the schedule
naming its sequencer as the next to run. Log entry 9. -/
def State.withFetchWord (s : State) (nbits w : Nat) : State :=
  let word : Word := bytesWord (wordBytes (BitVec.ofNat 64 (w % 2 ^ nbits)))
  { s with
    agenda := [.run 0],
    seqs := s.seqs.set 0 probeSeq,
    plots := s.plots.set 0 { s.plot 0 with code := [(0, word)], codeLen := 8, codeBad := [] } }

end Sys2Proof.Machine
end

