-- ==== Sys2Proof/Safety.lean ====
section
/-! DEFINITION. What a safe run is, and the terms in which claims are made. -/

namespace Sys2Proof

open Machine

/-- Physical memory has its canonical form. -/
def MemCanonical (s : State) : Prop := s.phys.wf = true

/-- The instruction has a word of its own: it is no event and no undefined word (R129, R131). -/
def hasWord : Instr → Bool
  | .undefinedWord _ => false
  | i => encode i != 0

/-- A step goes on: it ends in a next state. -/
def GoesOn (s : State) : Prop := ∃ t, step s = .next t

/-- No cause is taken after the instruction in hand: neither WATCHPT, nor STEP in user mode (R280, R339). -/
def Quiet (s : State) : Prop := s.seq.watch = false ∧ (s.seq.mode = 0 → s.seq.sstep = false)

/-- The registers may be read as sources: in strict mode none is stale (R40, R133). -/
def Readable (s : State) (rs : List (BitVec 5)) : Prop := s.seq.gstrict = true → ∀ r ∈ rs, s.stale r = false

/-- The instruction completes with `v` written to register `r`, and with no other effect. -/
def Writes (o : Out) (s : State) (r : BitVec 5) (v : Word) : Prop := o = .next (s.setReg r v).retire

/-- The instruction takes the fault with the cause and the value of TVAL0, and has no other effect (R3, R282). -/
def Traps (o : Out) (s : State) (c : Cause) (t0 : Word) : Prop := o = .next (s.takeFault { cause := c, t0 := t0 })

/-- One byte of physical memory on the visible face, and of a plot's stash, as reads find them. -/
def Machine.State.physByte (s : State) (a : Nat) : Byte := byteOf (s.phys.word false a).v (a % 4)
def Machine.State.stashByte (s : State) (c a : Nat) : Byte := byteOf ((s.plot c).word a).v (a % 4)

/-- Every special register of a sequencer but PC, CYCLE's last completion and STAT.ISAT: flags, modes, exception registers, traps
pending, loop levels, debug and identity (R43, R280). -/
def SpecialsKept (p q : Seq) : Prop :=
  q.run = p.run ∧ q.mode = p.mode ∧ q.pmode = p.pmode ∧ q.inh = p.inh ∧ q.gstrict = p.gstrict ∧ q.fpflags = p.fpflags ∧ q.ten = p.ten ∧
  q.rm = p.rm ∧ q.uscratch = p.uscratch ∧ q.lenmis = p.lenmis ∧ q.spilled = p.spilled ∧ q.phaseRel = p.phaseRel ∧
  q.phaseAcq = p.phaseAcq ∧ q.cycle = p.cycle ∧ q.tvec = p.tvec ∧ q.epc = p.epc ∧ q.tcause = p.tcause ∧ q.tval0 = p.tval0 ∧
  q.tval1 = p.tval1 ∧ q.tval2 = p.tval2 ∧ q.tval3 = p.tval3 ∧ q.sscratch = p.sscratch ∧ q.freeze = p.freeze ∧
  q.holdchild = p.holdchild ∧ q.sstep = p.sstep ∧ q.dbgen = p.dbgen ∧ q.timecmp = p.timecmp ∧ q.waddr = p.waddr ∧ q.wctl = p.wctl ∧
  q.fwsel = p.fwsel ∧ q.pend = p.pend ∧ q.mail = p.mail ∧ q.ctx = p.ctx ∧ q.codeBase = p.codeBase ∧ q.req = p.req

/-- Every byte of memory reads as before: physical memory, every stash, and what every agent sees through its own view. -/
def MemoryKept (s t : State) : Prop :=
  (∀ a, t.physByte a = s.physByte a) ∧ (∀ c a, t.stashByte c a = s.stashByte c a) ∧ ∀ a, t.view a = s.view a

/-- Everything else of the module is as before: the other agents, the plots with their accumulators, ports and integrators, the
acres, the tables of the hubs, the fabric. -/
def ModuleKept (s t : State) : Prop :=
  (∀ b, b ≠ s.cur → t.seqOf b = s.seqOf b) ∧ t.plots = s.plots ∧ t.acres = s.acres ∧ t.sched = s.sched ∧ t.fabric = s.fabric ∧
  t.windows = s.windows ∧ t.fwins = s.fwins ∧ t.cache = s.cache ∧ t.poisoned = s.poisoned ∧ t.tiles = s.tiles ∧ t.flips = s.flips ∧ t.flight = s.flight ∧ t.areas = s.areas ∧
  t.host = s.host ∧ t.power = s.power ∧ t.hubRegs = s.hubRegs ∧ t.tempo = s.tempo ∧ t.fresh = s.fresh ∧ t.cur = s.cur ∧
  t.misses = s.misses ∧ t.det = s.det ∧ t.epBytes = s.epBytes ∧ t.obs = { s.obs with trials := t.obs.trials }

/-- Trap entry (R282): from `s` the current agent has entered its handler in `t`, for the raise `r`; its scalar registers, the other
agents, the plots and every byte of memory are as they were. -/
def Entered (s t : State) (r : Raise) (boundary : Bool) (epc : Word) : Prop :=
  t.seq.mode = 1 ∧ t.seq.inh = true ∧ t.seq.pmode = (if s.seq.mode = 2 then s.seq.pmode else s.seq.mode) ∧ t.seq.epc = epc ∧
  t.seq.tcause.toNat = r.cause.code.toNat + (if boundary then 128 else 0) + 256 * (r.unit % 16) ∧
  t.seq.tval0 = r.t0 ∧ t.seq.tval1 = r.t1 ∧ t.seq.tval2 = r.t2 ∧ t.seq.tval3 = r.t3 ∧ t.seq.pc = s.seq.tvec &&& ~~~7#64 ∧
  t.seq.regs = s.seq.regs ∧ t.cur = s.cur ∧ (∀ b, b ≠ s.cur → t.seqOf b = s.seqOf b) ∧ t.plots = s.plots ∧ MemoryKept s t

/-- The agent has a handler, none is active, and the cause does not enter debug mode (R282, R283, R284). -/
def Handles (q : Seq) (c : Cause) : Prop := q.tvec.getLsbD 0 = true ∧ q.inh = false ∧ q.intoDebug c = false ∧ c ≠ .ownlost

/-- The scalar instructions of classes 0x0 and 0x1 but MOVM: the registers read and the register written (R136, R137, R139, R140). -/
def scalarForm : Instr → Option (List (BitVec 5) × BitVec 5)
  | .add x => some ([x.sa, x.sb], x.sd)
  | .sub x => some ([x.sa, x.sb], x.sd)
  | .mul x => some ([x.sa, x.sb], x.sd)
  | .mulh x => some ([x.sa, x.sb], x.sd)
  | .mulhu x => some ([x.sa, x.sb], x.sd)
  | .div x => some ([x.sa, x.sb], x.sd)
  | .divu x => some ([x.sa, x.sb], x.sd)
  | .mod x => some ([x.sa, x.sb], x.sd)
  | .modu x => some ([x.sa, x.sb], x.sd)
  | .and x => some ([x.sa, x.sb], x.sd)
  | .or x => some ([x.sa, x.sb], x.sd)
  | .xor x => some ([x.sa, x.sb], x.sd)
  | .andn x => some ([x.sa, x.sb], x.sd)
  | .shl x => some ([x.sa, x.sb], x.sd)
  | .shr x => some ([x.sa, x.sb], x.sd)
  | .sra x => some ([x.sa, x.sb], x.sd)
  | .rol x => some ([x.sa, x.sb], x.sd)
  | .min x => some ([x.sa, x.sb], x.sd)
  | .max x => some ([x.sa, x.sb], x.sd)
  | .minu x => some ([x.sa, x.sb], x.sd)
  | .maxu x => some ([x.sa, x.sb], x.sd)
  | .slt x => some ([x.sa, x.sb], x.sd)
  | .sltu x => some ([x.sa, x.sb], x.sd)
  | .seq x => some ([x.sa, x.sb], x.sd)
  | .addsh x => some ([x.sa, x.sb], x.sd)
  | .sel x => some ([x.sa, x.sb, x.sc], x.sd)
  | .madd x => some ([x.sa, x.sb, x.sc], x.sd)
  | .clz x => some ([x.sa], x.sd)
  | .ctz x => some ([x.sa], x.sd)
  | .popc x => some ([x.sa], x.sd)
  | .brev x => some ([x.sa], x.sd)
  | .sext x => some ([x.sa], x.sd)
  | .zext x => some ([x.sa], x.sd)
  | .bfx x => some ([x.sa], x.sd)
  | .bfi x => some ([x.sd, x.sa], x.sd)
  | .addi x => some ([x.sa], x.sd)
  | .muli x => some ([x.sa], x.sd)
  | .andi x => some ([x.sa], x.sd)
  | .ori x => some ([x.sa], x.sd)
  | .xori x => some ([x.sa], x.sd)
  | .shli x => some ([x.sa], x.sd)
  | .shri x => some ([x.sa], x.sd)
  | .srai x => some ([x.sa], x.sd)
  | .slti x => some ([x.sa], x.sd)
  | .sltiu x => some ([x.sa], x.sd)
  | .seqi x => some ([x.sa], x.sd)
  | .li x => some ([], x.sd)
  | .lea x => some ([], x.sd)
  | .lih x => some ([x.sd], x.sd)
  | _ => none

/-- The little-endian number that n bytes make up (R2). -/
def leNum (f : Nat → Byte) : Nat → Nat
  | 0 => 0
  | n + 1 => leNum f n + (f n).toNat * 256 ^ n

/-- Byte k of a value, lowest first (R2). -/
def leByte (v k : Nat) : Byte := BitVec.ofNat 8 (v / 256 ^ k)

/-- The word, and the byte, that the current agent's plain load (or current load, R105) finds at a physical address. -/
def Machine.State.loadWord (s : State) (cur : Bool) (t : Tlb) (va : Word) (pa : Nat) : CW :=
  if cur then s.currentWord s.cur t va (pa / 4 * 4) false else s.seenWord s.cur t (pa / 4 * 4)
def Machine.State.loadByte (s : State) (cur : Bool) (t : Tlb) (va : Word) (pa : Nat) : Byte := byteOf (s.loadWord cur t va pa).v (pa % 4)

/-- The scalar loads and stores: their fields, bytes, and whether a load extends the sign (R147). -/
def loadForm : Instr → Option (SM × Nat × Bool)
  | .ldb x => some (x, 1, true)
  | .ldbu x => some (x, 1, false)
  | .ldh x => some (x, 2, true)
  | .ldhu x => some (x, 2, false)
  | .ldw x => some (x, 4, true)
  | .ldwu x => some (x, 4, false)
  | .ldd x => some (x, 8, false)
  | _ => none
def storeForm : Instr → Option (SM × Nat)
  | .stb x => some (x, 1)
  | .sth x => some (x, 2)
  | .stw x => some (x, 4)
  | .std x => some (x, 8)
  | _ => none

/-- A loaded value of n bytes as its register receives it. -/
def extended (sign : Bool) (n v : Nat) : Word :=
  if sign then (BitVec.ofNat (8 * n) v).signExtend 64 else BitVec.ofNat 64 v

/-- Bytes [a, a + n) of the current plot's stash may be accessed (R148 orders 7 to 9), and in strict mode none is stale. -/
def LocalOk (s : State) (a n : Nat) : Prop :=
  isHub s.cur = false ∧ (s.plot s.cur).localFault (s.plot s.cur).nextId a n = none ∧
  (s.seq.gstrict = true → (s.plot s.cur).anyStale a n = false)

/-- The words that hold those bytes are neither poisoned nor bad (R148 order 10). -/
def LocalClean (s : State) (a n : Nat) : Prop := ∀ k, k < n → CW.check ((s.plot s.cur).word (a + k)) = none

/-- A GLOBAL access to ordinary memory goes through at once: translated by `t`, populated, its links up, in no WINDOW range and on no
pod-coherent page, inside the partition, cached or uncacheable, and the scope checker off. -/
def PlainAccess (s : State) (t : Tlb) (va : Word) (kind : Nat) : Prop :=
  s.translate s.cur 0 va kind = .ok t ∧ (s.popKind (t.pa va) = 1 ∨ s.popKind (t.pa va) = 2) ∧ s.linkOk s.cur (t.pa va) = true ∧
  s.winOf (s.asidOf s.cur) (vaNum va) = none ∧ ptePodc t.pte = false ∧ s.homeRangeOk s.cur (t.pa va) = true ∧
  (pteMt t.pte = 1 ∨ (s.cache.find (t.pa va / 64)).isSome = true) ∧ s.obs.scopeCtl = []

/-- The agent's launch is neither recorded nor replayed (R369, R371). -/
def Unlogged (s : State) (a : Nat) : Prop :=
  ∀ l, s.launch? (s.seqOf a).ctx.launch = some l → s.effRep l.rcb = false ∧ s.effRec l.rcb = false

/-- The atomics of class 0x3: their fields and their operation (R152). -/
def atomForm : Instr → Option (SM × AOp)
  | .aadd x => some (x, .add)
  | .aand x => some (x, .and)
  | .aor x => some (x, .or)
  | .axor x => some (x, .xor)
  | .amin x => some (x, .min)
  | .amax x => some (x, .max)
  | .aminu x => some (x, .minu)
  | .amaxu x => some (x, .maxu)
  | .aswp x => some (x, .swp)
  | .acas x => some (x, .cas)
  | .afadd x => some (x, .fadd)
  | _ => none

/-- The bytes, the sources and the operands of an atomic (R152). -/
def SM.atomBytes (x : SM) : Nat := if x.zz = 1 then 8 else 4
def atomSources (x : SM) (o : AOp) : List (BitVec 5) := if o = .cas then [x.sa, x.rd, x.rd + 1] else [x.sa, x.rd]

/-- How an atomic ends in state `z`, where its memory has been written: the old value reaches its register, then the acquire of its
ordering, the flags of AFADD, and FPTRAP after the instruction if one of them is enabled (R106, R152). -/
def atomEnds (z : State) (x : SM) (o : AOp) (m : Nat) (fl : BitVec 5) (a : Word) : Out :=
  let n := x.atomBytes
  let y := z.setReg x.rd (o.ext (8 * n) m)
  let y := if x.order.getLsbD 0 then (y.acquire z.cur).countAcquire else y
  let y := if x.s = 1 then y else y.watchAccess a n true
  let y := y.modSeq fun q => { q with fpflags := q.fpflags ||| fl }
  let on := fl &&& y.seq.ten
  .next (if on = 0 then y.retire else y.retireWith { cause := .fptrap, t0 := on.setWidth 64 })

end Sys2Proof
end

