-- ==== Sys2Proof/Certificates/Slice0/Obligations.lean ====
section
/-! DEFINITION. The statements for the provers. -/

open Sys2Proof Sys2Proof.Machine

set_option linter.unusedVariables false

/-- For every well-formed instruction that has a word, whatever its operands, the decoder reads from its word, and from
the eight bytes that hold the word in memory, exactly that instruction. (R115, R117, R118, R119, R120, R121, R122,
R124, R129) -/
def Obligations.DecodeInvertsEncode : Prop :=
  ∀ i : Instr, WellFormed i = true → hasWord i = true →
    decodeWord (encode i) = .ok i ∧ decodeTableWord 64 (encode i).toNat = some i

/-- If the decoder accepts a word as an instruction, that instruction is well-formed and its word is exactly the word
decoded. So no bit of an accepted word is dropped, and no two words decode to one instruction. (R125, R129, R131) -/
def Obligations.EncodeInvertsDecode : Prop :=
  ∀ (w : BitVec 64) (i : Instr), decodeWord w = .ok i → WellFormed i = true ∧ hasWord i = true ∧ encode i = w

/-- One word of each class, written out bit by bit from the formats and the opcode table, decodes to the instruction that
it stands for. (R117, R118, R119, R120, R121, R122, R123, R124, R129) -/
def Obligations.DecodedWords : Prop :=
  -- ADD.SAT s1, s2, s3
  decodeWord 0x0010886000010000 = .ok (.add { sd := 1, sa := 2, sb := 3, sc := 0, mod := 1, z := 0 }) ∧
  -- SRAI s31, s30, 63
  decodeWord 0x108FF8000000003F = .ok (.srai { sd := 31, sa := 30, mod := 0, imm := 63 }) ∧
  -- LDW.L s4, s5, -8
  decodeWord 0x28521400FFFFFFF8 = .ok (.ldw { s := 1, zz := 0, rd := 4, sa := 5, cnt := 0, scope := 0, order := 0, off := -8 }) ∧
  -- ACAS.D.NEAR s6, s7, 16, scope 4, order 3
  decodeWord 0x34A31C6300000010 =
    .ok (.acas { s := 0, zz := 1, rd := 6, sa := 7, cnt := 1, scope := 4, order := 3, off := 16 }) ∧
  -- BNE s9, s10, -3, hint 2
  decodeWord 0x4024AA00FFFFFFFD = .ok (.bne { sa := 9, sb := 10, hint := 2, z := 0, off := -3 }) ∧
  -- TAGWAITALL s11, mask in s12
  decodeWord 0x5045B00000000100 = .error (.form .rsvfld) ∧
  decodeWord 0x5040300000000100 = .ok (.tagwaitall { sd := 0, sa := 12, sb := 0, scope := 0, imm := 0x100 }) ∧
  -- LNKCTL operation 3
  decodeWord 0x60C6B9E000000003 = .ok (.lnkctlResume { sd := 13, sa := 14, sb := 15, scope := 0, imm := 3 }) ∧
  -- VADD vo2, vi1, s3, count s4, F32
  decodeWord 0x8010406180020400 =
    .ok (.vadd { dst := 2, a := 1, b := 0x43, c := 0, ty := 0, rnd := 1, gate := 0, ge := 0, count := 4, mod := 0 }) ∧
  -- VBCAST vo1, vi2, -1 and PNOT pq1, pq2
  decodeWord 0x907020BF80000000 =
    .ok (.vbcast { dst := 1, a := 2, b := 0x7F, c := 0, ty := 0, rnd := 0, gate := 0, ge := 0, count := 0, mod := 0 }) ∧
  decodeWord 0xA052248000000000 =
    .ok (.pnot { dst := 0x11, a := 0x12, b := 0, c := 0, ty := 0, rnd := 0, gate := 0, ge := 0, count := 0, mod := 0 }) ∧
  -- AGLOOP ag1, dimension 3, s4, s5; TST td1 with tag 3; AZERO acc5; ISET cell 63
  decodeWord 0xB020103040500006 = .ok (.agloop { a := 1, b := 3, c := 4, d := 5, e := 6 }) ∧
  decodeWord 0xC040102430000001 = .ok (.tst { a := 1, b := 2, c := 0x43, d := 0, e := 1 }) ∧
  decodeWord 0xD03050000000001F = .ok (.azero { a := 5, b := 0, c := 0, d := 0, e := 0x1F }) ∧
  decodeWord 0xE023F1F070000000 = .ok (.iset { a := 63, b := 31, c := 7, d := 0, e := 0 }) ∧
  -- HALT, and ROUTE of kind 1
  decodeWord 0x40B0000000000000 = .ok .halt ∧
  decodeWord 0xF010F0E31AB00B34 = .ok (.routeRemote { a := 15, b := 14, c := 0x31, d := 0xAB, e := 0xB34 })

/-- A class 0x7 word traps ILLOP. A datapath word on a hub core traps NODP, and on a plot outside user mode PORTPROT. Any
other word traps ILLOP when its opcode is unassigned, then PRIV when it is privileged and met in user mode, then the
first cause of its form checks; a valid word of an instruction that may not run here traps PRIV. A word that decodes
to an instruction that may run here has none of these causes. Each trap saves the word in TVAL0 and has no other
effect. (R131, R132) -/
def Obligations.InvalidWordsTrap : Prop :=
  ∀ (w : BitVec 64) (s : State), let cls := w.toNat / 2 ^ 60
    (cls = 7 → Traps (exec (.undefinedWord w) s) s .illop w) ∧
    (8 ≤ cls → isHub s.cur = true → Traps (exec (.undefinedWord w) s) s .nodp w) ∧
    (8 ≤ cls → isHub s.cur = false → s.seq.mode ≠ 0 → Traps (exec (.undefinedWord w) s) s .portprot w) ∧
    (cls ≠ 7 → (8 ≤ cls → isHub s.cur = false ∧ s.seq.mode = 0) →
      (decodeWord w = .error .unassigned → Traps (exec (.undefinedWord w) s) s .illop w) ∧
      (∀ i, decodeWord w = .ok i → s.mayRun i = false → Traps (exec (.undefinedWord w) s) s .priv w) ∧
      (∀ i, decodeWord w = .ok i → s.mayRun i = true → s.wordFault w = none) ∧
      (∀ c i, decodeWord w = .error (.form c) → ((∃ u, fixedWord w = some (u, i)) ∨ fixedWord w = none ∧ opcodeOf w = some i) →
        Traps (exec (.undefinedWord w) s) s (if s.userPriv i = true then .priv else c) w))

/-- Let the schedule name agent a, the module not be stopped before or after the step's tick, the agent's sequencer run
outside debug mode with no request and no pending exception, and let the fetch at its program counter find word w. If
w decodes to an instruction that may run here, the step is exec of that instruction in the state after the tick with a
as the current agent; otherwise it is exec of the undefined word w. On a plot a program counter that is not a multiple
of 8 traps IALIGN, one at or beyond the code's end or at a bad word traps IFETCH, and any other finds the code store's
word. (R115, R131, R283) -/
def Obligations.StepRunsDecoded : Prop :=
  ∀ (s : State) (a : Nat) (ms : List Move), s.agenda = .run a :: ms → s.stopped = false →
    let r := ({ s with agenda := ms }).tick 1
    let t := { r with cur := a }
    r.stopped = false → t.seq.run = .running → t.seq.mode ≠ 2 → t.seq.req.pending = false → t.seq.hasPending = false →
      (∀ w, t.fetch = .ok w →
        (∀ i, decodeWord w = .ok i → t.mayRun i = true → step s = exec i t) ∧
        (∀ i, decodeWord w = .ok i → t.mayRun i = false → step s = exec (.undefinedWord w) t) ∧
        (∀ e, decodeWord w = .error e → step s = exec (.undefinedWord w) t)) ∧
      (isHub a = false → let pc := t.seq.pc; let p := t.plot a
        (pc.toNat % 8 ≠ 0 → Traps (step s) t .ialign pc) ∧
        (pc.toNat % 8 = 0 → p.codeLen ≤ pc.toNat ∨ p.codeBad.contains (pc.toNat / 8) = true → Traps (step s) t .ifetch pc) ∧
        (pc.toNat % 8 = 0 → pc.toNat < p.codeLen → p.codeBad.contains (pc.toNat / 8) = false →
          t.fetch = .ok (p.code.get 0 (pc.toNat / 8))))

/-- If the schedule names an event of the opcode table with its record, and the module is not stopped before or after the
step's tick, the step is exec of that event in the state after the tick with the record in place. A move that only
lets time pass is the tick alone. A move that is a fault of the storage leaves what the fault leaves: a lost sector
that no cache holds has code 15 in every word, and its poison bit set. A sector of ordinary memory that is evicted
leaves the cache. A stopped module takes no move but a power-on reset and, while it has power, the reads that scan it
out: it stops by name. This form of the schedule is the model's own (log entry 7). (R374, R293, R350) -/
def Obligations.StepRunsEvents : Prop :=
  ∀ (s : State) (ms : List Move), let u := { s with agenda := ms }
    (∀ (i : Instr) (x : EvArgs), s.agenda = .event i x :: ms → s.stopped = false → (u.tick 1).stopped = false → isEvent i = true →
      step s = exec i { u.tick 1 with evt := x }) ∧
    (∀ n, s.agenda = .elapse n :: ms → s.stopped = false → (u.tick 1).stopped = false → step s = .next ((u.tick 1).tick n)) ∧
    (∀ x, s.agenda = .upset x :: ms → s.stopped = false → (u.tick 1).stopped = false → step s = .next ({ u.tick 1 with evt := x } : State).upset ∧
      (x.c = 1 → (u.tick 1).popKind x.b = 1 ∨ (u.tick 1).popKind x.b = 2 → x.ok = true ∨ (u.tick 1).cache.find (x.b / 64) = none →
        let v := ({ u.tick 1 with evt := x } : State).upset
        (∀ k, k < 16 → (v.phys.word x.ok (x.b / 64 * 64 + 4 * k)).c = 15) ∧ (x.ok = false → v.poisoned.find (x.b / 64) = some ()))) ∧
    (∀ sec, s.agenda = .evict sec :: ms → s.stopped = false → (u.tick 1).stopped = false → step s = .next ((u.tick 1).evict sec) ∧
      ((u.tick 1).lineSt (sec * 64) < 2 → ((u.tick 1).evict sec).cache.find sec = none)) ∧
    (∀ m, s.agenda = m :: ms → s.stopped = true → isReset m = false →
      (isScan m = true → s.power.off = false → step s = u.act m) ∧
      (isScan m = false ∨ s.power.off = true → step s = .fault .clocksGated))

/-- After reset the tempo is 0, the module is not ready, core 0 of hub 0 runs and no other agent does, the cores of hubs 1
to 3 are held, every plot starts with generation 0, SNPTMO is 50 µs, the hub exact-reduction units are in service and
no exact pod path is configured, and no launch, no store awaiting publication and no listed byte of memory exist. That
core 0 starts in supervisor mode and that cores 1 to 7 are held are the model's choices (log entry 1). (R390, R391,
R363, R374) -/
def Obligations.ResetState : Prop :=
  let s := State.reset
  s.tempo = 0 ∧ s.power.ready = false ∧ (s.seqOf (hubAgent 0)).run = .running ∧ (s.seqOf (hubAgent 0)).mode = 1 ∧
    (∀ c, 0 < c → c < 32 → (s.seqOf (hubAgent c)).run = .held) ∧ (∀ c, isHub c = false → (s.seqOf c).run = .idle) ∧
    (∀ c, (s.plot c).gen = 0) ∧ s.fabric.snptmo = 50 ∧ s.fabric.collPath = 1 ∧ s.sched.launches = [] ∧ s.flips = [] ∧
    (∀ a, (s.view a).stores = []) ∧ s.phys = {} ∧ s.power.gated = false ∧ s.power.off = false

/-- The memory of the reset state meets the invariant that StepKeepsMemCanonical says every step keeps. (R2, R96) -/
def Obligations.ResetMemCanonical : Prop :=
  MemCanonical State.reset

/-- If physical memory has its canonical form (on each face the listed bytes and codes rise strictly by address, no listed
byte of the first face is the blank byte, no listed code is its word's own residue, and the flipped frames rise) and a
step answers a next state, memory has the canonical form there too, whatever instruction or event the step runs. So
equal contents of memory are equal data in every reachable state. (R2, R96, R110, R111) -/
def Obligations.StepKeepsMemCanonical : Prop :=
  ∀ s t : State, MemCanonical s → step s = .next t → MemCanonical t

/-- s0 reads zero and discards what is written to it. A register that was written reads back its value and is not stale.
Every other register reads as before. On a plot, a register whose tag is not the plot's generation reads zero, and one
with that tag reads its value. In the model a hub core has no generation and none of its registers is stale. (R38,
R40, R41) -/
def Obligations.RegisterReadRules : Prop :=
  ∀ (s : State) (r q : BitVec 5) (v : Word),
    s.reg 0 = 0 ∧ s.setReg 0 v = s ∧
    (r ≠ 0 → (s.setReg r v).reg r = v ∧ (s.setReg r v).stale r = false) ∧
    (q ≠ r → (s.setReg r v).reg q = s.reg q ∧ (s.setReg r v).stale q = s.stale q) ∧
    (isHub s.cur = false → r ≠ 0 →
      ((s.seq.regs.get {} r.toNat).tag ≠ (s.plot s.cur).gen → s.reg r = 0 ∧ s.stale r = true) ∧
      ((s.seq.regs.get {} r.toNat).tag = (s.plot s.cur).gen →
        s.reg r = (s.seq.regs.get {} r.toNat).val ∧ s.stale r = false))

/-- With readable sources, ADD, SUB, MUL and ADDSH without .SAT, MULH, MULHU, DIV, DIVU, MOD, MODU, AND, OR, XOR, ANDN,
SHL, SHR, SRA, ROL, MIN, MAX, MINU, MAXU, SLT, SLTU and SEQ complete with the result of the opcode table written to
sd, divisions by zero and the overflowing quotient included, and with no other effect. SEL and MADD without .SAT do so
with their third source. CLZ, CTZ and POPC give the count of leading zeros, of trailing zeros and of ones, BREV the
bits reversed, SEXT and ZEXT the low w bits extended, BFX the field of w bits from lsb (zero above bit 63) and BFI
that field of sd replaced by the low bits of sa. (R136, R137, R63, R133) -/
def Obligations.ScalarRegisterResults : Prop :=
  ∀ (x : S3) (s : State), let a := s.reg x.sa; let b := s.reg x.sb; let c := s.reg x.sc
    let w := (x.mod.extractLsb' 0 6).toNat + 1; let lsb := (x.mod.extractLsb' 0 6).toNat; let n := (x.mod.extractLsb' 6 6).toNat + 1
    (Readable s [x.sa, x.sb] →
      (x.mod.getLsbD 0 = false →
        Writes (exec (.add x) s) s x.sd (a + b) ∧ Writes (exec (.sub x) s) s x.sd (a - b) ∧
        Writes (exec (.mul x) s) s x.sd (a * b) ∧
        Writes (exec (.addsh x) s) s x.sd (a + b <<< (x.mod.extractLsb' 1 6).toNat)) ∧
      Writes (exec (.mulh x) s) s x.sd ((a.signExtend 128 * b.signExtend 128).extractLsb' 64 64) ∧
      Writes (exec (.mulhu x) s) s x.sd ((a.setWidth 128 * b.setWidth 128).extractLsb' 64 64) ∧
      Writes (exec (.div x) s) s x.sd (if b = 0 then -1 else a.sdiv b) ∧
      Writes (exec (.divu x) s) s x.sd (if b = 0 then -1 else a / b) ∧
      Writes (exec (.mod x) s) s x.sd (if b = 0 then a else a.srem b) ∧
      Writes (exec (.modu x) s) s x.sd (if b = 0 then a else a % b) ∧
      Writes (exec (.and x) s) s x.sd (a &&& b) ∧ Writes (exec (.or x) s) s x.sd (a ||| b) ∧
      Writes (exec (.xor x) s) s x.sd (a ^^^ b) ∧ Writes (exec (.andn x) s) s x.sd (a &&& ~~~b) ∧
      Writes (exec (.shl x) s) s x.sd (a <<< (b.toNat % 64)) ∧ Writes (exec (.shr x) s) s x.sd (a >>> (b.toNat % 64)) ∧
      Writes (exec (.sra x) s) s x.sd (a.sshiftRight (b.toNat % 64)) ∧
      Writes (exec (.rol x) s) s x.sd (a <<< (b.toNat % 64) ||| a >>> (64 - b.toNat % 64)) ∧
      Writes (exec (.min x) s) s x.sd (if a.toInt ≤ b.toInt then a else b) ∧
      Writes (exec (.max x) s) s x.sd (if a.toInt ≤ b.toInt then b else a) ∧
      Writes (exec (.minu x) s) s x.sd (if a ≤ b then a else b) ∧ Writes (exec (.maxu x) s) s x.sd (if a ≤ b then b else a) ∧
      Writes (exec (.slt x) s) s x.sd (if a.toInt < b.toInt then 1 else 0) ∧
      Writes (exec (.sltu x) s) s x.sd (if a < b then 1 else 0) ∧
      Writes (exec (.seq x) s) s x.sd (if a = b then 1 else 0)) ∧
    (Readable s [x.sa, x.sb, x.sc] →
      Writes (exec (.sel x) s) s x.sd (if c = 0 then b else a) ∧
      (x.mod.getLsbD 0 = false → Writes (exec (.madd x) s) s x.sd (a * b + c))) ∧
    (Readable s [x.sa] →
      (∃ k, Writes (exec (.clz x) s) s x.sd (BitVec.ofNat 64 k) ∧ k ≤ 64 ∧ (∀ i, i < k → a.getLsbD (63 - i) = false) ∧
        (k < 64 → a.getLsbD (63 - k) = true)) ∧
      (∃ k, Writes (exec (.ctz x) s) s x.sd (BitVec.ofNat 64 k) ∧ k ≤ 64 ∧ (∀ i, i < k → a.getLsbD i = false) ∧
        (k < 64 → a.getLsbD k = true)) ∧
      Writes (exec (.popc x) s) s x.sd (BitVec.ofNat 64 ((List.range 64).filter fun i => a.getLsbD i).length) ∧
      (∃ r : Word, Writes (exec (.brev x) s) s x.sd r ∧ ∀ i, i < 64 → r.getLsbD i = a.getLsbD (63 - i)) ∧
      Writes (exec (.sext x) s) s x.sd ((a.setWidth w).signExtend 64) ∧
      Writes (exec (.zext x) s) s x.sd ((a.setWidth w).setWidth 64) ∧
      (∃ r : Word, Writes (exec (.bfx x) s) s x.sd r ∧
        ∀ i, i < 64 → r.getLsbD i = (decide (i < n) && a.getLsbD (lsb + i)))) ∧
    (Readable s [x.sd, x.sa] →
      ∃ r : Word, Writes (exec (.bfi x) s) s x.sd r ∧
        ∀ i, i < 64 → r.getLsbD i = if lsb ≤ i ∧ i < lsb + n then a.getLsbD (i - lsb) else (s.reg x.sd).getLsbD i)

/-- With readable sources, ADDI and MULI without .SAT, ANDI, ORI, XORI, SHLI, SHRI, SRAI, SLTI, SLTIU, SEQI, LI, LIH and
LEA complete with the result of the opcode table written to sd, the immediate sign-extended, and with no other effect.
LIH keeps the low half of sd, and LEA adds to the PC. (R139, R140, R133) -/
def Obligations.ScalarImmediateResults : Prop :=
  ∀ (x : SI) (s : State), let a := s.reg x.sa; let m := x.imm.signExtend 64; let k := (x.imm.extractLsb' 0 6).toNat
    (Readable s [x.sa] →
      (x.mod.getLsbD 0 = false →
        Writes (exec (.addi x) s) s x.sd (a + m) ∧ Writes (exec (.muli x) s) s x.sd (a * m)) ∧
      Writes (exec (.andi x) s) s x.sd (a &&& m) ∧ Writes (exec (.ori x) s) s x.sd (a ||| m) ∧
      Writes (exec (.xori x) s) s x.sd (a ^^^ m) ∧ Writes (exec (.shli x) s) s x.sd (a <<< k) ∧
      Writes (exec (.shri x) s) s x.sd (a >>> k) ∧ Writes (exec (.srai x) s) s x.sd (a.sshiftRight k) ∧
      Writes (exec (.slti x) s) s x.sd (if a.toInt < m.toInt then 1 else 0) ∧
      Writes (exec (.sltiu x) s) s x.sd (if a < m then 1 else 0) ∧
      Writes (exec (.seqi x) s) s x.sd (if a = m then 1 else 0)) ∧
    Writes (exec (.li x) s) s x.sd m ∧ Writes (exec (.lea x) s) s x.sd (s.seq.pc + m) ∧
    (Readable s [x.sd] → Writes (exec (.lih x) s) s x.sd (x.imm ++ (s.reg x.sd).setWidth 32))

/-- ADD, SUB, MUL, MADD, ADDSH, ADDI and MULI with .SAT compute the exact result on signed operands. Below −2^63 or above
2^63 − 1 they complete with that bound written to sd and STAT.ISAT set; otherwise with the result written and ISAT as
it was. (R134) -/
def Obligations.SaturatingResults : Prop :=
  ∀ (s : State),
    let clamps := fun (o : Out) (r : BitVec 5) (e : Int) =>
      (e < -2 ^ 63 → o = .next ((s.setReg r (BitVec.intMin 64)).modSeq fun q => { q with isat := true }).retire) ∧
      (2 ^ 63 ≤ e → o = .next ((s.setReg r (BitVec.intMax 64)).modSeq fun q => { q with isat := true }).retire) ∧
      (-2 ^ 63 ≤ e → e < 2 ^ 63 → Writes o s r (BitVec.ofInt 64 e))
    (∀ x : S3, x.mod.getLsbD 0 = true → Readable s [x.sa, x.sb] →
      let a := (s.reg x.sa).toInt; let b := (s.reg x.sb).toInt
      clamps (exec (.add x) s) x.sd (a + b) ∧ clamps (exec (.sub x) s) x.sd (a - b) ∧ clamps (exec (.mul x) s) x.sd (a * b) ∧
      clamps (exec (.addsh x) s) x.sd (a + b * 2 ^ (x.mod.extractLsb' 1 6).toNat)) ∧
    (∀ x : S3, x.mod.getLsbD 0 = true → Readable s [x.sa, x.sb, x.sc] →
      clamps (exec (.madd x) s) x.sd ((s.reg x.sa).toInt * (s.reg x.sb).toInt + (s.reg x.sc).toInt)) ∧
    (∀ x : SI, x.mod.getLsbD 0 = true → Readable s [x.sa] →
      clamps (exec (.addi x) s) x.sd ((s.reg x.sa).toInt + x.imm.toInt) ∧
      clamps (exec (.muli x) s) x.sd ((s.reg x.sa).toInt * x.imm.toInt))

/-- A group that would pass s31 traps GRPWRAP, and then partly overlapping groups trap GRPOVL. The same group on both
sides changes no register. Otherwise, with readable sources, MOVM completes: register sd + i holds what sa + i read
before (s0 excepted, which stays zero), for each i below n, and every register outside the destination group reads as
before. With a stale source in strict mode it traps GENSTALE, and no register changes. (R138) -/
def Obligations.MovmCopiesGroup : Prop :=
  ∀ (x : S3) (s : State), let n := (x.mod.extractLsb' 0 5).toNat + 1; let d := x.sd.toNat; let a := x.sa.toNat
    (32 < d + n ∨ 32 < a + n → Traps (exec (.movm x) s) s .grpwrap (encode (.movm x))) ∧
    (d + n ≤ 32 → a + n ≤ 32 →
      (d ≠ a → d < a + n → a < d + n → Traps (exec (.movm x) s) s .grpovl (encode (.movm x))) ∧
      (d = a → exec (.movm x) s = .next s.retire) ∧
      (d + n ≤ a ∨ a + n ≤ d → ¬ Readable s ((List.range n).map fun i => BitVec.ofNat 5 (a + i)) →
        Traps (exec (.movm x) s) s .genstale (encode (.movm x))) ∧
      (d + n ≤ a ∨ a + n ≤ d → Readable s ((List.range n).map fun i => BitVec.ofNat 5 (a + i)) →
        ∃ t, exec (.movm x) s = .next t.retire ∧
          (∀ i, i < n → d + i ≠ 0 → t.reg (BitVec.ofNat 5 (d + i)) = s.reg (BitVec.ofNat 5 (a + i))) ∧
          (∀ r : BitVec 5, r.toNat < d ∨ d + n ≤ r.toNat → t.reg r = s.reg r) ∧
          (t = s ∨ t = s.modSeq fun q => { q with regs := t.seq.regs })))

/-- For every scalar instruction of classes 0x0 and 0x1 but MOVM, for the six branches and for JALR: with a source
register that is stale in strict mode, the instruction takes GENSTALE with its word in TVAL0, and has no other effect.
(R40, R133, R135) -/
def Obligations.StaleSourcesTrapGenstale : Prop :=
  (∀ (i : Instr) (srcs : List (BitVec 5)) (d : BitVec 5) (s : State), scalarForm i = some (srcs, d) → ¬ Readable s srcs →
    Traps (exec i s) s .genstale (encode i)) ∧
  (∀ (x : SB) (s : State),
    (¬ Readable s [x.sa, x.sb] → ∀ i ∈ [Instr.beq x, .bne x, .blt x, .bge x, .bltu x, .bgeu x],
      Traps (exec i s) s .genstale (encode i)) ∧
    (¬ Readable s [x.sa] → Traps (exec (.jalr x) s) s .genstale (encode (.jalr x))))

/-- When an instruction of classes 0x0 and 0x1 other than MOVM completes (its sources readable, no STEP or WATCHPT due),
every register but sd reads as before, every special register is unchanged but PC (and STAT.ISAT, which only a .SAT
form may set), the exception registers among them, every byte of memory reads as before, and the rest of the module is
unchanged. (R133, R134, R136, R139) -/
def Obligations.ScalarFrame : Prop :=
  ∀ (i : Instr) (srcs : List (BitVec 5)) (d : BitVec 5) (s t : State), scalarForm i = some (srcs, d) → Quiet s →
    Readable s srcs → exec i s = .next t →
    (∀ r, r ≠ d → t.reg r = s.reg r) ∧ SpecialsKept s.seq t.seq ∧ (t.seq.isat = s.seq.isat ∨ t.seq.isat = true) ∧
    MemoryKept s t ∧ ModuleKept s t

/-- When an instruction completes without a transfer (here NOP, in user or supervisor mode, no STEP or WATCHPT due), the
active loop levels are evaluated from innermost to outermost: at the end of a body with more than one pass left the PC
goes to the body's start and the count falls by one; a level on its last pass is popped and the next one is looked at;
otherwise the PC advances by 8 and the levels stay. Nothing else of the machine changes. (R144, R143, R282) -/
def Obligations.CompletionAdvancesPc : Prop :=
  ∀ (s : State), Quiet s → ∃ t, exec .nop s = .next t ∧ MemoryKept s t ∧ ModuleKept s t ∧ SpecialsKept s.seq t.seq ∧
    (∀ r, t.reg r = s.reg r) ∧ t.seq.isat = s.seq.isat ∧
    (s.seq.loops = [] → t.seq.pc = s.seq.pc + 8 ∧ t.seq.loops = []) ∧
    (∀ l ls, s.seq.loops = l :: ls →
      (l.stop ≠ s.seq.pc → t.seq.pc = s.seq.pc + 8 ∧ t.seq.loops = l :: ls) ∧
      (l.stop = s.seq.pc → 1 < l.cnt → t.seq.pc = l.start ∧ t.seq.loops = { l with cnt := l.cnt - 1 } :: ls) ∧
      (l.stop = s.seq.pc → l.cnt ≤ 1 → ls = [] → t.seq.pc = s.seq.pc + 8 ∧ t.seq.loops = []) ∧
      (∀ m ms, l.stop = s.seq.pc → l.cnt ≤ 1 → ls = m :: ms →
        (m.stop ≠ s.seq.pc → t.seq.pc = s.seq.pc + 8 ∧ t.seq.loops = m :: ms) ∧
        (m.stop = s.seq.pc → 1 < m.cnt → t.seq.pc = m.start ∧ t.seq.loops = { m with cnt := m.cnt - 1 } :: ms)))

/-- With readable sources, a conditional branch whose condition holds (equal, not equal, less and not less, signed and
unsigned) and J complete at PC + sx(offset) × 8, popping every loop level whose body does not contain the target and
decrementing no count; a branch whose condition does not hold completes as an instruction without a transfer.
Registers, special registers, memory and the rest of the module stay. (R141, R144, R120) -/
def Obligations.BranchesTransfer : Prop :=
  ∀ (x : SB) (s : State), let a := s.reg x.sa; let b := s.reg x.sb; let target := s.seq.pc + x.off.signExtend 64 * 8
    let cond := fun (o : Out) (p : Prop) => (p → o = .next (s.branchTo target)) ∧ (¬ p → o = .next s.retire)
    (Readable s [x.sa, x.sb] →
      cond (exec (.beq x) s) (a = b) ∧ cond (exec (.bne x) s) (a ≠ b) ∧ cond (exec (.blt x) s) (a.toInt < b.toInt) ∧
      cond (exec (.bge x) s) (b.toInt ≤ a.toInt) ∧ cond (exec (.bltu x) s) (a < b) ∧ cond (exec (.bgeu x) s) (b ≤ a)) ∧
    exec (.j x) s = .next (s.branchTo target) ∧
    (Quiet s → let t := s.branchTo target
      t.seq.pc = target ∧
      t.seq.loops = s.seq.loops.filter (fun l => l.start ≤ target ∧ target ≤ l.stop) ∧
      (∀ r, t.reg r = s.reg r) ∧ SpecialsKept s.seq t.seq ∧ t.seq.isat = s.seq.isat ∧ MemoryKept s t ∧ ModuleKept s t)

/-- With a readable base, JALR completes at (s[sa] + sx(offset) × 8) mod 2^64, with sa read before the link PC + 8 is
written to sb; JALR with sb = s0 writes no link. With a stale base in strict mode it traps GENSTALE. JAL writes PC + 8
to s31 and completes at PC + sx(offset) × 8. Neither pops a loop level; other registers, special registers, memory and
the rest of the module stay. (R142) -/
def Obligations.CallsLinkAndTransfer : Prop :=
  ∀ (x : SB) (s : State), Quiet s →
    let kept := fun (t : State) (link : BitVec 5) (target : Word) =>
      t.seq.pc = target ∧ (link ≠ 0 → t.reg link = s.seq.pc + 8) ∧ t.reg 0 = 0 ∧ (∀ r, r ≠ link → t.reg r = s.reg r) ∧
      t.seq.loops = s.seq.loops ∧ SpecialsKept s.seq t.seq ∧ MemoryKept s t ∧ ModuleKept s t
    (∃ t, exec (.jal x) s = .next t ∧ kept t 31 (s.seq.pc + x.off.signExtend 64 * 8)) ∧
    (Readable s [x.sa] → ∃ t, exec (.jalr x) s = .next t ∧ kept t x.sb (s.reg x.sa + x.off.signExtend 64 * 8)) ∧
    (¬ Readable s [x.sa] → Traps (exec (.jalr x) s) s .genstale (encode (.jalr x)))

/-- LOOP traps RSVFLD for an offset not above 0, then CFGBAD for a count above 0xFFFF_FFFF, then LOOPNEST with two levels
active and a count above zero, then LOOPNEST where the new body ends beyond an active level's end, in that order.
Otherwise, with a readable count, it completes: a count of 0 skips the body and pushes nothing; any other count pushes
the level from PC + 8 to PC + offset × 8 with that count and goes on at PC + 8. Registers, memory and the rest of the
module stay. (R143, R133) -/
def Obligations.LoopChecksAndPushes : Prop :=
  ∀ (x : SB) (s : State), let w := encode (.loop x); let n := (s.reg x.sa).toNat; let stop := s.seq.pc + x.off.signExtend 64 * 8
    let active := s.seq.loops
    (x.off.toInt ≤ 0 → Traps (exec (.loop x) s) s .rsvfld w) ∧
    (0 < x.off.toInt → 0xFFFFFFFF < n → Traps (exec (.loop x) s) s .cfgbad w) ∧
    (0 < x.off.toInt → n ≤ 0xFFFFFFFF →
      (2 ≤ active.length → 0 < n → Traps (exec (.loop x) s) s .loopnest w) ∧
      ((∃ l ∈ active, l.stop < stop) → Traps (exec (.loop x) s) s .loopnest w) ∧
      (active.length < 2 ∨ n = 0 → (∀ l ∈ active, stop ≤ l.stop) → Readable s [x.sa] → Quiet s →
        ∃ t, exec (.loop x) s = .next t ∧ (∀ r, t.reg r = s.reg r) ∧ SpecialsKept s.seq t.seq ∧ MemoryKept s t ∧ ModuleKept s t ∧
          (n = 0 → t.seq.pc = stop + 8 ∧ t.seq.loops = active) ∧
          (n ≠ 0 → t.seq.pc = s.seq.pc + 8 ∧
            t.seq.loops = { start := s.seq.pc + 8, stop := stop, cnt := n } :: active)))

/-- On a plot whose actors, markers and engine operations are done, or on a hub core, whose strand has nothing left to
publish and no publication under way, HALT writes the WINDOW ranges back and ends the strand with its loop levels
discarded; with no WINDOW range open it leaves registers, memory and the other strands. With stores left to publish it
first waits for their publication at system scope, and with work left on its plot for that work. NOP completes with no
effect. YIELD with no request held for the strand completes with no effect; with one held in user mode it waits.
PROGRESS completes after adding one to the point of every trial that runs on the strand. (R145, R7, R36, R146) -/
def Obligations.HaltEndsStrand : Prop :=
  ∀ (s : State),
    (isHub s.cur = true ∨ (s.plot s.cur).actors = [] ∧ (s.plot s.cur).ops = [] → (s.view s.cur).unpublished = [] → (s.view s.cur).rel = none →
      exec .halt s = .next (s.closeWindows s.cur).endStrand ∧
      ((∀ w ∈ s.windows, w.owner ≠ s.cur) →
        ∃ t, exec .halt s = .next t ∧ t.seq.run = .ended ∧ t.seq.uloops = [] ∧ t.seq.sloops = [] ∧ (∀ r, t.reg r = s.reg r) ∧
          MemoryKept s t ∧ (∀ b, b ≠ s.cur → t.seqOf b = s.seqOf b) ∧ t.plots = s.plots ∧ t.windows = s.windows)) ∧
    (let done := isHub s.cur = true ∨ (s.plot s.cur).drained = true; let ids := s.coveredIds s.cur
      (done → s.seq.released = true → exec .halt s = .next (s.closeWindows s.cur).endStrand) ∧
      (done → s.seq.released = false → (s.view s.cur).rel = none → ids ≠ [] →
        exec .halt s = .next (s.setView s.cur { s.view s.cur with rel := some { scope := 5, episode := none, ids := ids } }).stalledAt) ∧
      (¬ done → exec .halt s = .next s.stalledAt)) ∧
    exec .nop s = .next s.retire ∧
    (s.seq.req.pending = false ∨ s.seq.mode ≠ 0 → exec .yield s = .next s.retire) ∧
    (s.seq.req.pending = true → s.seq.mode = 0 → exec .yield s = .next s.honour.stalledAt) ∧
    (s.seq.req.drain = true → s.seq.mode = 0 → ∃ t, exec .yield s = .next t ∧ t.seq.run = .parked ∧ t.seq.pc = s.seq.pc) ∧
    (∀ x : SB, ∃ u : State, exec (.progress x) s = .next u.retire ∧ u = { s with obs := u.obs } ∧
      u.obs = { s.obs with trials := u.obs.trials } ∧
      (isHub s.cur = false → (x.off.extractLsb' 0 16).toNat ≠ 0xFFFF → u.obs.trials = s.obs.trials.map fun t =>
        t.progress s.seq.ctx.launch s.seq.ctx.strandix (x.off.extractLsb' 0 16).toNat))

/-- With single stepping on in user mode, no handler active, debug entry off and a valid TVEC, an instruction that
completes (here NOP with no loop level active) takes STEP after itself: EPC is the PC of the next instruction, TVAL0
the PC of the one completed, PMODE user, the mode supervisor, traps inhibited, and the PC at TVEC's base. Registers
and memory stay. (R339, R282, R280) -/
def Obligations.SingleStepTraps : Prop :=
  ∀ (s : State), s.seq.sstep = true → s.seq.mode = 0 → s.seq.inh = false → s.seq.watch = false → s.seq.dbgen = false →
    s.seq.tvec.getLsbD 0 = true → s.seq.uloops = [] →
    ∃ t, exec .nop s = .next t ∧ t.seq.epc = s.seq.pc + 8 ∧ t.seq.tval0 = s.seq.pc ∧ t.seq.pmode = 0 ∧ t.seq.mode = 1 ∧
      t.seq.inh = true ∧ (t.seq.tcause.extractLsb' 0 7) = Cause.step.code ∧ t.seq.pc = s.seq.tvec &&& ~~~7 ∧
      (∀ r, t.reg r = s.reg r) ∧ MemoryKept s t

/-- A LOCAL load of 1, 2, 4 or 8 bytes whose address is aligned, whose base is readable, whose bytes lie in stash outside
WINDOW and spill regions in banks whose tokens are held, and whose words are clean (in strict mode not stale)
completes with the little-endian value of those bytes, sign-extended or zero-extended as the opcode says, written to
sd, and with no other effect. (R147, R148, R40, R2) -/
def Obligations.LocalLoadsReadStash : Prop :=
  ∀ (i : Instr) (x : SM) (n : Nat) (sg : Bool) (s : State), loadForm i = some (x, n, sg) → x.s = 1 →
    (s.addr x).toNat % n = 0 → Readable s [x.sa] → LocalOk s (s.addr x).toNat n → LocalClean s (s.addr x).toNat n →
    s.addr x = s.reg x.sa + x.off.signExtend 64 ∧
    Writes (exec i s) s x.rd (extended sg n (leNum (fun k => s.stashByte s.cur ((s.addr x).toNat + k)) n))

/-- A GLOBAL load of 1, 2, 4 or 8 bytes whose address is aligned and translated, whose base is readable, that reaches its
place inside the partition and finds clean words, completes with the little-endian value of the bytes that the agent
sees (its own stores over its snapshot; for .ACQ the current bytes with its own stores), extended as the opcode says,
in sd. Beside that, the sector is touched in the cache and the scope checker and the watchpoint see the access. A load
from hub space yields the bytes of the register. (R147, R102, R105, R378) -/
def Obligations.GlobalLoadsReadView : Prop :=
  ∀ (i : Instr) (x : SM) (n : Nat) (sg : Bool) (s : State) (t : Tlb), loadForm i = some (x, n, sg) → x.s = 0 →
    (s.addr x).toNat % n = 0 → Readable s [x.sa] → s.translate s.cur 0 (s.addr x) 0 = .ok t →
    let a := s.addr x; let pa := t.pa a; let cur := decide (x.order = 1)
    (∀ u, s.popKind pa = 1 ∨ s.popKind pa = 2 → s.reach s.cur 0 { t := t, va := a, pa := pa, kind := if cur then 4 else loadKind t } = .ok u →
      u.homeRangeOk s.cur pa = true →
      let w := u.touchAt s.cur a pa (ptePodc t.pte) (pteMt t.pte = 1) false
      (∀ k, k < n → CW.check (w.loadWord cur t a (pa + k)) = none) →
      let v := if cur then w else w.scopeCheck s.cur a pa
      exec i s = .next ((v.setReg x.rd (extended sg n (leNum (fun k => w.loadByte cur t a (pa + k)) n))).watchAccess a n false).retire) ∧
    (∀ d, s.popKind pa = 3 → s.hubLoad s.cur (pa / 8 * 8) = some d →
      exec i s = .next ((s.setReg x.rd (extended sg n (leNum (fun k => leByte d.toNat (pa % 8 + k)) n))).watchAccess a n false).retire)

/-- A LOCAL store of 1, 2, 4 or 8 bytes whose address is aligned, whose base and datum are readable, whose bytes may be
accessed and (for a byte or halfword) whose word is clean completes: the bytes from the address computed hold the low
bytes of the datum, every other byte of that stash and of every other stash reads as before, so does physical memory,
and no register or special register changes. (R147, R41, R148, R341) -/
def Obligations.LocalStoresWriteStash : Prop :=
  ∀ (i : Instr) (x : SM) (n : Nat) (s : State), storeForm i = some (x, n) → x.s = 1 → (s.addr x).toNat % n = 0 →
    Readable s [x.sa, x.rd] → isHub s.cur = false → (s.plot s.cur).localFault (s.plot s.cur).nextId (s.addr x).toNat n = none →
    (n < 4 → LocalClean s (s.addr x).toNat n) →
    ∃ p : Plot, exec i s = .next (s.setPlot s.cur p).retire ∧ p = { s.plot s.cur with stash := p.stash } ∧
      ∀ b, (s.setPlot s.cur p).stashByte s.cur b =
        if (s.addr x).toNat ≤ b ∧ b < (s.addr x).toNat + n then leByte (s.reg x.rd).toNat (b - (s.addr x).toNat)
        else s.stashByte s.cur b

/-- A GLOBAL store of 1, 2, 4 or 8 bytes to memory (not publishable), its address aligned and translated for writing, its
base and datum readable and (for a byte or halfword) the word it merges into reached inside the partition and clean,
completes: the agent's own loads see the low bytes of the datum from the address computed and every other byte as
before, while every byte of physical memory, of every stash and of every other agent's view is as before, until a
release publishes it; the word that a byte or halfword merges into is read as a plain load reads it. A store to hub
space writes the register there with the bytes of the datum merged in. (R147, R99, R102, R148) -/
def Obligations.GlobalStoresEnterView : Prop :=
  ∀ (i : Instr) (x : SM) (n : Nat) (s : State) (t : Tlb), storeForm i = some (x, n) → x.s = 0 → (s.addr x).toNat % n = 0 →
    Readable s [x.sa, x.rd] → s.translate s.cur 0 (s.addr x) 1 = .ok t → ptePub t.pte = false →
    let a := s.addr x; let pa := t.pa a
    let enters := fun u : State => ∃ w : State, exec i s = .next (w.watchAccess a n true).retire ∧ w = { u with views := w.views } ∧
      (∀ b, b ≠ s.cur → w.view b = u.view b) ∧ (w.view s.cur).snap = (u.view s.cur).snap ∧
      ∀ b, w.loadByte false t a b = if pa ≤ b ∧ b < pa + n then leByte (s.reg x.rd).toNat (b - pa) else u.loadByte false t a b
    (s.popKind pa = 1 ∨ s.popKind pa = 2 →
      (4 ≤ n → enters s) ∧
      (∀ u, n < 4 → s.reach s.cur 0 { t := t, va := a, pa := pa, kind := loadKind t } = .ok u → u.homeRangeOk s.cur pa = true →
        let w := u.touchAt s.cur a pa (ptePodc t.pte) (pteMt t.pte = 1) false
        (∀ k, k < n → CW.check (w.loadWord false t a (pa + k)) = none) → enters (w.scopeCheck s.cur a pa))) ∧
    (∀ old u, s.popKind pa = 3 → s.hubLoad s.cur (pa / 8 * 8) = some old →
      (∀ d : Word, (∀ k, k < 8 → leByte d.toNat k = if pa % 8 ≤ k ∧ k < pa % 8 + n then leByte (s.reg x.rd).toNat (k - pa % 8) else leByte old.toNat k) →
        s.hubStore s.cur (pa / 8 * 8) d = some u → exec i s = .next (u.watchAccess a n true).retire))

/-- A load or store whose address is not a multiple of its size traps ALIGN with the address; with a stale source in
strict mode then GENSTALE; a GLOBAL one then takes what its translation finds, then PROTR or PROTW for an unpopulated
address with the level of the held translation in TVAL1, and a store then PUBBAD on a publishable page; a LOCAL one
then takes SPACE, STASHCONF or BTOKBAD with the address. LDM and STM trap GRPWRAP for a group past s31 before all of
these, and ALIGN for an address that is not a multiple of 8. No register is written and no byte stored. (R148, R149,
R76, R97) -/
def Obligations.AccessChecksTrap : Prop :=
  ∀ (s : State),
    (∀ (i : Instr) (x : SM) (n : Nat), (∃ sg, loadForm i = some (x, n, sg)) ∨ storeForm i = some (x, n) →
      let a := s.addr x; let st := (storeForm i).isSome; let k := if st then 1 else 0
      let srcs := if st then [x.sa, x.rd] else [x.sa]
      (a.toNat % n ≠ 0 → Traps (exec i s) s .align a) ∧
      (a.toNat % n = 0 → ¬ Readable s srcs → Traps (exec i s) s .genstale (encode i)) ∧
      (a.toNat % n = 0 → Readable s srcs → x.s = 0 →
        (∀ r, s.translate s.cur 0 a k = .error (.trap r) → exec i s = .next (s.takeFault r)) ∧
        (∀ t, s.translate s.cur 0 a k = .ok t → s.popKind (t.pa a) = 0 →
          exec i s = .next (s.takeFault { cause := if st then .protw else .protr, t0 := a, t1 := walkBits (if t.big then 1 else 2) k (s.userAccess s.cur 0) })) ∧
        (∀ t, s.translate s.cur 0 a k = .ok t → s.popKind (t.pa a) ≠ 0 → ptePub t.pte = true → st = true →
          Traps (exec i s) s .pubbad a)) ∧
      (a.toNat % n = 0 → Readable s srcs → x.s = 1 → isHub s.cur = false → ∀ c,
        (s.plot s.cur).localFault (s.plot s.cur).nextId a.toNat n = some c → Traps (exec i s) s c a)) ∧
    (∀ x : SM, 32 < x.rd.toNat + (x.cnt.toNat + 1) →
      Traps (exec (.ldm x) s) s .grpwrap (encode (.ldm x)) ∧ Traps (exec (.stm x) s) s .grpwrap (encode (.stm x))) ∧
    (∀ x : SM, x.rd.toNat + (x.cnt.toNat + 1) ≤ 32 → (s.addr x).toNat % 8 ≠ 0 →
      Traps (exec (.ldm x) s) s .align (s.addr x) ∧ Traps (exec (.stm x) s) s .align (s.addr x))

/-- With a group inside s31, an address that is a multiple of 8, readable sources and accessible clean bytes, LDM
completes with register sd + i holding doubleword i (s0 discarding), every other register as before, and no byte of
memory changed; STM completes with doubleword i holding register ss + i and every other byte as before, in stash for
the LOCAL form, in the agent's own view for the GLOBAL form to ordinary memory; on any other page each doubleword is
what LDD and STD make of it. (R149, R147, R148) -/
def Obligations.GroupLoadsAndStores : Prop :=
  ∀ (x : SM) (s : State), let n := x.cnt.toNat + 1; let a := s.addr x; let d := x.rd.toNat
    d + n ≤ 32 → a.toNat % 8 = 0 → Quiet s → s.seq.wctl = 0 →
    (Readable s [x.sa] →
      (x.s = 1 → LocalOk s a.toNat (8 * n) → LocalClean s a.toNat (8 * n) →
        ∃ t, exec (.ldm x) s = .next t ∧ MemoryKept s t ∧ ModuleKept s t ∧ SpecialsKept s.seq t.seq ∧
          (∀ i, i < n → d + i ≠ 0 → t.reg (BitVec.ofNat 5 (d + i)) =
            BitVec.ofNat 64 (leNum (fun k => s.stashByte s.cur (a.toNat + 8 * i + k)) 8)) ∧
          (∀ r : BitVec 5, r.toNat < d ∨ d + n ≤ r.toNat → t.reg r = s.reg r)) ∧
      (∀ ts : Nat → Tlb, x.s = 0 → (∀ i, i < n → PlainAccess s (ts i) (a + BitVec.ofNat 64 (8 * i)) 0) →
        (∀ i k, i < n → k < 8 → CW.check (s.loadWord false (ts i) (a + BitVec.ofNat 64 (8 * i))
          ((ts i).pa (a + BitVec.ofNat 64 (8 * i)) + k)) = none) →
        ∃ t, exec (.ldm x) s = .next t ∧ MemoryKept s t ∧ SpecialsKept s.seq t.seq ∧
          (∀ i, i < n → d + i ≠ 0 → t.reg (BitVec.ofNat 5 (d + i)) =
            BitVec.ofNat 64 (leNum (fun k => s.loadByte false (ts i) (a + BitVec.ofNat 64 (8 * i))
              ((ts i).pa (a + BitVec.ofNat 64 (8 * i)) + k)) 8)) ∧
          (∀ r : BitVec 5, r.toNat < d ∨ d + n ≤ r.toNat → t.reg r = s.reg r)) ∧
      (∀ l t, x.s = 0 → s.reachGroup a n 0 false = .ok () → s.readGroup (encode (.ldm x)) false a n = .ok (l, t) →
        ∃ u, exec (.ldm x) s = .next u ∧ ∀ i, i < n → d + i ≠ 0 → u.reg (BitVec.ofNat 5 (d + i)) = BitVec.ofNat 64 (l.getD i 0))) ∧
    (Readable s (x.sa :: (List.range n).map fun i => BitVec.ofNat 5 (d + i)) →
      (x.s = 1 → isHub s.cur = false → (s.plot s.cur).localFault (s.plot s.cur).nextId a.toNat (8 * n) = none →
        ∃ t, exec (.stm x) s = .next t ∧ SpecialsKept s.seq t.seq ∧ (∀ r, t.reg r = s.reg r) ∧ t.phys = s.phys ∧ t.views = s.views ∧
          (∀ c, c ≠ s.cur → t.plot c = s.plot c) ∧
          (∀ b, b < a.toNat ∨ a.toNat + 8 * n ≤ b → t.stashByte s.cur b = s.stashByte s.cur b) ∧
          ∀ i k, i < n → k < 8 → t.stashByte s.cur (a.toNat + 8 * i + k) = leByte (s.reg (BitVec.ofNat 5 (d + i))).toNat k) ∧
      (∀ ts : Nat → Tlb, x.s = 0 → (∀ i, i < n → PlainAccess s (ts i) (a + BitVec.ofNat 64 (8 * i)) 1 ∧ ptePub (ts i).pte = false) →
        ∃ t, exec (.stm x) s = .next t ∧ SpecialsKept s.seq t.seq ∧ (∀ r, t.reg r = s.reg r) ∧ t.phys = s.phys ∧ t.plots = s.plots ∧
          (∀ c, c ≠ s.cur → t.view c = s.view c) ∧ (t.view s.cur).snap = (s.view s.cur).snap ∧
          (t.view s.cur).stores = (s.view s.cur).stores ++ (List.range (2 * n)).map fun j =>
            let va := a + BitVec.ofNat 64 (4 * j)
            { id := (s.view s.cur).nextId + j, va := va, pa := (ts (j / 2)).pa (a + BitVec.ofNat 64 (8 * (j / 2))) + 4 * (j % 2),
              mask := 15, data := (s.reg (BitVec.ofNat 5 (d + j / 2))).extractLsb' (32 * (j % 2)) 32,
              code := lcc ((s.reg (BitVec.ofNat 5 (d + j / 2))).extractLsb' (32 * (j % 2)) 32), podc := false,
              unc := decide (pteMt (ts (j / 2)).pte = 1), big := (ts (j / 2)).big, unit := (s.view s.cur).nextId + j / 2 * 2 }) ∧
      (∀ t, x.s = 0 → s.reachGroup a n 1 true = .ok () →
        s.writeGroup false a ((List.range n).map fun i => s.reg (BitVec.ofNat 5 (d + i))) 0 = .ok t →
        exec (.stm x) s = .next (t.watchAccess a (8 * n) true).retire))

/-- With a readable base, PREF completes with no effect, whatever its address. With a readable base and an address that
translates for reading, CLEAN completes: on hub space with no effect; elsewhere with its links up, in a WINDOW range
after the owning stash wrote the sector back, which then is clean there; outside one after the home slice wrote its
dirty copy back, or, for a pod sector that this module homes and holds dirty, after that copy went to memory and stays
exclusive and clean; with no dirty copy there is no effect. A walk that ends at a leaf has found a valid entry that
permits the access. PAGE_WALK of one of the 32 oldest misses of an acre completes: the miss is done with and every
requester has a translation or the fault of its own access; for a single requester A, or A and D, are set in the
entry, which enters the TLBs, or the fault is recorded and memory stays. A WINDOW fill whose link is up completes:
what stood in the place is written back, and the sector with its codes (all lost where the sector is poisoned) takes
the place for the context that asked; one whose link is down waits. The scrubber completes, zeroes the stale datum it
is given, and changes nothing that is read. (R150, R151, R80, R84, R85, R97, R309, R311, R312, R313, R318, R320) -/
def Obligations.HintsWalksAndFills : Prop :=
  ∀ (x : SM) (s : State), let a := s.evt.a
    (Readable s [x.sa] →
      exec (.pref x) s = .next s.retire ∧
      (∀ t, s.translate s.cur 0 (s.addr x) 0 = .ok t → let va := s.addr x; let pa := t.pa va
        (s.popKind pa = 3 → exec (.clean x) s = .next s.retire) ∧
        (s.popKind pa = 1 ∨ s.popKind pa = 2 → s.linkOk s.cur pa = true →
          (∀ w, s.winOf (s.asidOf s.cur) (vaNum va) = some w →
            (w.sector (vaNum va) = none → exec (.clean x) s = .next s.retire) ∧
            (∀ y, w.sector (vaNum va) = some y → exec (.clean x) s = .next ((s.writeSector y).setWindow
              { w with sectors := w.sectors.set (w.place (vaNum va)) { y with dirty := false } }).retire)) ∧
          (s.winOf (s.asidOf s.cur) (vaNum va) = none →
            (ptePodc t.pte = false ∨ s.fabric.lines.find (pa / 64) = none →
              exec (.clean x) s = .next (s.writeBack pa (ptePodc t.pte)).retire ∧
              (∀ c, (s.writeBack pa (ptePodc t.pte)).cache.find (pa / 64) = some c → c.dirty = false) ∧
              ((∀ c, s.cache.find (pa / 64) = some c → c.dirty = false) → s.writeBack pa (ptePodc t.pte) = s)) ∧
            (∀ l, ptePodc t.pte = true → s.fabric.lines.find (pa / 64) = some l → s.replyFor s.cur 0 (pa / 64) = none →
              s.fabric.granted.contains (s.cur * 16, 2, pa / 64) = false →
              (l.st ≠ 3 → exec (.clean x) s = .next s.retire) ∧
              (l.st = 3 → s.homedHere pa = true → let u := s.cleanLine pa l
                exec (.clean x) s = .next (u.writeBack pa true).retire ∧ u.fabric.lines.find (pa / 64) = some { l with st := 2 } ∧
                (u.fabric.dir.get {} (pa / 64)).st = 2)))))) ∧
    (∀ asid root pbase plimit vpn kind user t n, s.walkEnd asid root pbase plimit vpn kind user = .leaf t n → t.asid = asid ∧ t.vpn = vpn ∧
      pteV t.pte = true ∧ pteBad t.pte = false ∧ (user = true → pteU t.pte = true) ∧ t.pte = s.currentDword n ∧
      (if kind = 0 then pteR t.pte else if kind = 1 then pteW t.pte else pteX t.pte) = true ∧ s.popKind (t.pa (BitVec.ofNat 64 (vpn * 65536))) ≠ 0) ∧
    (∀ m, s.misses[a]? = some m → ((s.misses.take a).filter (·.acre = m.acre)).length < 32 →
      (∃ u, exec .pageWalk s = .next u ∧ u.misses = s.misses.eraseIdx a ∧ ∀ r ∈ m.reqs,
        (∃ f ∈ (u.seqOf r.agent).faults, f.unit = r.unit ∧ f.vpn = m.vpn) ∨ ∃ t ∈ (u.acre m.acre).tlb, t.covers m.asid m.vpn = true) ∧
      (∀ r, m.reqs = [r] →
        (∀ t n, s.walkEnd m.asid m.root m.pbase m.plimit m.vpn r.kind r.user = .leaf t n → let e := t.pte ||| (if r.kind = 1 then 0xC00 else 0x400)
          ∃ u, exec .pageWalk s = .next u ∧ u.misses = s.misses.eraseIdx a ∧ u.phys = (if e = t.pte then s.phys else (s.putEntry n e).phys) ∧
            u.views = s.views ∧ { t with pte := e } ∈ (u.acre m.acre).tlb ∧ (isHub r.agent = false → { t with pte := e } ∈ (u.plot r.agent).utlb)) ∧
        (∀ c level e, s.walkEnd m.asid m.root m.pbase m.plimit m.vpn r.kind r.user = .fail c level e →
          exec .pageWalk s = .next { (s.modSeqOf r.agent fun q => { q with faults := q.faults ++
            [{ unit := r.unit, vpn := m.vpn, cause := c, t1 := walkBits level r.kind r.user, t2 := e }] }) with misses := s.misses.eraseIdx a }))) ∧
    (∀ m w, s.winMisses[a]? = some m → s.windows.find? (fun w => w.owner = m.owner && w.vbase = m.vbase) = some w →
      let va := w.vbase + m.offset; let s0 : State := { s with winMisses := s.winMisses.eraseIdx a }
      (s.linkOk m.owner m.pa = false → exec .windowFill s = .next s) ∧
      (s.linkOk m.owner m.pa = true →
        (w.sector va ≠ none → exec .windowFill s = .next s0) ∧
        (w.sector va = none → let s1 := match w.sectors.find (w.place va) with | some y => s0.writeSector y | none => s0
          let v := s1.charge m.ctx (s1.sectorRate m.pa false)
          let lost := (v.poisoned.find (m.pa / 64)).isSome && (v.cache.find (m.pa / 64)).isNone
          let ws := (List.range 16).map fun k => let c := v.phys.word false (m.pa / 64 * 64 + 4 * k); if lost then ⟨c.v, 15⟩ else c
          exec .windowFill s = .next (v.setWindow { w with sectors := w.sectors.set (w.place va) { pa := m.pa / 64 * 64, va := va / 64 * 64, words := ws, dirty := false, ctxIx := m.ctx } })))) ∧
    (∃ t, exec .backgroundScrub s = .next t ∧ (∀ c n, (t.plot c).word n = (s.plot c).word n ∧ (t.plot c).staleAt n = (s.plot c).staleAt n) ∧
      (∀ r, t.reg r = s.reg r ∧ t.stale r = s.stale r) ∧ t.phys = s.phys ∧ t.views = s.views ∧
      (isHub a = false → let p := t.plot a; let b := s.evt.b; let g := p.gen
        (s.evt.c = 0 → (p.stash.get {} b).tag ≠ g → (p.stash.get {} b).ws = []) ∧
        (s.evt.c = 1 → ((t.seqOf a).regs.get {} b).tag ≠ g → ((t.seqOf a).regs.get {} b).val = 0) ∧
        (s.evt.c = 2 → (p.va.get {} b).tag ≠ g → (p.va.get {} b).ws = []) ∧
        (s.evt.c = 3 → (p.accs.get {} b).tag ≠ g → (p.accs.get {} b).els = []) ∧
        (s.evt.c = 4 → (p.wslots.get {} b).tag ≠ g → (p.wslots.get {} b).ws = [] ∧ (p.wslots.get {} b).scales = []) ∧
        (s.evt.c = 5 → (p.ints.get {} b).tag ≠ g → (p.ints.get {} b).y = 0) ∧
        (s.evt.c = 6 → (p.carry.get {} b).tag ≠ g → (p.carry.get {} b).val = 0)))

/-- On w bits, w being 32 or 64: AADD adds modulo 2^w; AAND, AOR and AXOR are the bitwise operations; AMIN and AMAX take
the smaller and the larger as signed numbers, AMINU and AMAXU as unsigned; ASWP stores the operand; ACAS stores the
second register where the old value equals the first. None of these has a flag. The old value is extended with its
sign by all of them but AMINU, AMAXU and AFADD, which extend with zeros. (R152, R59, R60) -/
def Obligations.AtomicOperationTable : Prop :=
  (∀ w, w = 32 ∨ w = 64 → ∀ (m v c : BitVec w), let r := fun o : AOp => o.apply w m.toNat v.toNat c.toNat
    r .add = ((m + v).toNat, 0) ∧ r .and = ((m &&& v).toNat, 0) ∧ r .or = ((m ||| v).toNat, 0) ∧ r .xor = ((m ^^^ v).toNat, 0) ∧
    r .min = ((if m.toInt ≤ v.toInt then m else v).toNat, 0) ∧ r .max = ((if v.toInt ≤ m.toInt then m else v).toNat, 0) ∧
    r .minu = ((if m ≤ v then m else v).toNat, 0) ∧ r .maxu = ((if v ≤ m then m else v).toNat, 0) ∧
    r .swp = (v.toNat, 0) ∧ r .cas = ((if m = v then c else m).toNat, 0) ∧
    ∀ o : AOp, o.ext w m.toNat = if o = .minu ∨ o = .maxu ∨ o = .fadd then m.setWidth 64 else m.signExtend 64) ∧
  (∀ a b : Nat, AOp.fadd.apply 32 a b 0 = f32.add 0 (f32.decode a) (f32.decode b))

/-- A LOCAL atomic of PLOT scope whose address is aligned, whose registers are readable (ACAS not in s31), whose bytes may
be accessed and are clean completes, a releasing one once the release of its order is made or has nothing to publish:
the bytes hold the operation's result on the value they held, every other byte of that stash reads as before and so
does every other stash and physical memory, a releasing order counts one release, and sd receives the old value. An
acquiring order then refreshes the snapshot. (R152, R153, R41, R106) -/
def Obligations.AtomicsOnStash : Prop :=
  ∀ (i : Instr) (x : SM) (o : AOp) (s : State), atomForm i = some (x, o) → x.s = 1 → x.scope = 0 → (o = .cas → x.rd ≠ 31) →
    let n := x.atomBytes; let a := s.addr x
    x.cnt ≠ 1 → (x.order.getLsbD 1 = true → s.seq.released = true ∨ (s.view s.cur).rel = none ∧ s.coveredIds s.cur = []) →
    a.toNat % n = 0 → Readable s (atomSources x o) → LocalOk s a.toNat n → LocalClean s a.toNat n →
    let m := leNum (fun k => s.stashByte s.cur (a.toNat + k)) n
    let r := o.apply (8 * n) m ((s.reg x.rd).toNat % 256 ^ n) ((s.reg (x.rd + 1)).toNat % 256 ^ n)
    ∃ p : Plot, p = { s.plot s.cur with stash := p.stash } ∧
      (∀ b, (s.setPlot s.cur p).stashByte s.cur b =
        if a.toNat ≤ b ∧ b < a.toNat + n then leByte r.1 (b - a.toNat) else s.stashByte s.cur b) ∧
      exec i s = atomEnds ((if x.order.getLsbD 1 then s.countRelease else s).setPlot s.cur p) x o m r.2 a

/-- A GLOBAL atomic on memory (not publishable, not logged, homed here, its sector in the cache, no read-only field, no
format window, its launch not deterministic), of POD scope only on a pod-coherent page, where the directory entry of
its sector is in state I, its address aligned and translated for writing, its registers readable, with no unpublished
store of its own, completes: the bytes at the home hold the operation's result on the value they held, clean before,
every other byte of physical memory reads as before, the agent's own plain loads find the result, no other agent's
view changes, and sd receives the old value. A releasing order counts one release, an acquiring one refreshes the
snapshot after the access. A .NEAR atomic of POD scope on a sector that this module holds exclusively does the same to
the bytes of that copy, which is then in state M; memory is as before. One on a sector that another module homes
completes once the old value has come back from there. (R152, R153, R106, R104, R362, R363) -/
def Obligations.AtomicsOnMemory : Prop :=
  ∀ (i : Instr) (x : SM) (o : AOp) (s : State) (t : Tlb), atomForm i = some (x, o) → x.s = 0 → (o = .cas → x.rd ≠ 31) →
    let n := x.atomBytes; let a := s.addr x; let pa := t.pa a
    a.toNat % n = 0 → Readable s (atomSources x o) → s.translate s.cur 0 a 1 = .ok t → (s.popKind pa = 1 ∨ s.popKind pa = 2) → s.linkOk s.cur pa = true →
    s.homeRangeOk s.cur pa = true → s.obs.scopeCtl = [] → (s.cache.find (pa / 64)).isSome = true →
    (∀ k, k < n → s.winOf (s.asidOf s.cur) (vaNum a + k) = none) → s.fwins = [] →
    (∀ k, k < n → s.roBits (pa + k) = 0 ∧ s.sched.nodes.find (pa + k) = none) → (x.scope = 4 → ptePodc t.pte = true) →
    (ptePodc t.pte = true → (s.cur, pa / 64) ∉ s.fabric.lostTo ∧ s.replyFor s.cur 0 (pa / 64) = none ∧ s.fabric.granted = []) →
    ptePub t.pte = false → pteRec t.pte = false →
    (s.seq.ctx.det = false ∨ isHub s.cur = true) → (s.view s.cur).unpublished = [] → (s.view s.cur).rel = none →
    let f := fun m : Nat => o.apply (8 * n) m ((s.reg x.rd).toNat % 256 ^ n) ((s.reg (x.rd + 1)).toNat % 256 ^ n)
    let s1 := if x.order.getLsbD 1 then s.countRelease else s
    let ends := fun (m : Nat) (z : State) => (∀ c, c ≠ s.cur → z.view c = s.view c) ∧ (∀ k, k < n → z.loadByte false t a (pa + k) = leByte (f m).1 k) ∧
      exec i s = atomEnds z x o m (f m).2 a
    (x.cnt ≠ 1 → (∀ k, k < n → s.homedHere (pa + k) = true) → s.fabric.lines = [] → (ptePodc t.pte = true → (s.fabric.dir.get {} (pa / 64)).st = 0) →
      (∀ k, k < n → CW.check (s.phys.word false (pa + k)) = none) → let m := leNum (fun k => s.physByte (pa + k)) n
      ∃ z : State, z = { s1 with phys := z.phys, views := z.views, cache := z.cache, det := z.det } ∧
        (∀ b, z.physByte b = if pa ≤ b ∧ b < pa + n then leByte (f m).1 (b - pa) else s.physByte b) ∧ ends m z) ∧
    (∀ l : PodLine, x.cnt = 1 → x.scope = 4 → s.fabric.lines.find (pa / 64) = some l → 2 ≤ l.st → l.words.length = 16 →
      let at_ := fun (w : List CW) (b : Nat) => w.getD (b % 64 / 4) CW.zero
      (∀ k, k < n → CW.check (at_ l.words (pa + k)) = none) → let m := leNum (fun k => byteOf (at_ l.words (pa + k)).v ((pa + k) % 4)) n
      ∃ z ws, z = { s1 with fabric := { s.fabric with lines := s.fabric.lines.set (pa / 64) { st := 3, words := ws } }, views := z.views, cache := z.cache, det := z.det } ∧
        (∀ b, b / 64 = pa / 64 → byteOf (at_ ws b).v (b % 4) = if pa ≤ b ∧ b < pa + n then leByte (f m).1 (b - pa) else byteOf (at_ l.words b).v (b % 4)) ∧ ends m z) ∧
    (∀ m : Word, x.cnt ≠ 1 → ptePodc t.pte = true → s.homedHere pa = false → s.fabric.lines.find (pa / 64) = none → s.seq.answer = some m →
      ∃ z : State, z = { s1 with views := z.views } ∧ ends m.toNat z)

/-- ACAS in s31 traps GRPWRAP; then .NEAR with a scope other than POD RSVFLD; then an address that is not a multiple of
the size traps ALIGN, a stale source in strict mode GENSTALE; a LOCAL atomic of a scope other than PLOT then traps
ATOMSCOPE ahead of the other stash checks; a GLOBAL one takes what its translation for writing finds, then PROTW on an
unpopulated address with the level of the held translation in TVAL1, SPACE on hub space, ATOMSCOPE for POD scope on a
page that is not pod-coherent, and PUBBAD on a publishable page. Nothing is performed. (R153, R106, R110, R148) -/
def Obligations.AtomicChecksTrap : Prop :=
  ∀ (i : Instr) (x : SM) (o : AOp) (s : State), atomForm i = some (x, o) → let n := x.atomBytes; let a := s.addr x
    (o = .cas → x.rd = 31 → Traps (exec i s) s .grpwrap (encode i)) ∧
    ((o = .cas → x.rd ≠ 31) → x.cnt = 1 → x.scope ≠ 4 → Traps (exec i s) s .rsvfld (encode i)) ∧
    ((o = .cas → x.rd ≠ 31) → (x.cnt = 1 → x.scope = 4) →
      (a.toNat % n ≠ 0 → Traps (exec i s) s .align a) ∧
      (a.toNat % n = 0 → ¬ Readable s (atomSources x o) → Traps (exec i s) s .genstale (encode i)) ∧
      (a.toNat % n = 0 → Readable s (atomSources x o) →
        (x.s = 1 → x.scope ≠ 0 → Traps (exec i s) s .atomscope a) ∧
        (x.s = 1 → x.scope = 0 → isHub s.cur = true → Traps (exec i s) s .space a) ∧
        (x.s = 1 → x.scope = 0 → isHub s.cur = false → ∀ c, (s.plot s.cur).localFault (s.plot s.cur).nextId a.toNat n = some c →
          Traps (exec i s) s c a) ∧
        (x.s = 0 → (∀ r, s.translate s.cur 0 a 1 = .error (.trap r) → exec i s = .next (s.takeFault r)) ∧
          ∀ t, s.translate s.cur 0 a 1 = .ok t →
            (s.popKind (t.pa a) = 0 → exec i s = .next (s.takeFault
              { cause := .protw, t0 := a, t1 := walkBits (if t.big then 1 else 2) 1 (s.userAccess s.cur 0) })) ∧
            (s.popKind (t.pa a) = 3 → Traps (exec i s) s .space a) ∧
            (s.popKind (t.pa a) = 1 ∨ s.popKind (t.pa a) = 2 →
              (x.scope = 4 → ptePodc t.pte = false → Traps (exec i s) s .atomscope a) ∧
              ((x.scope = 4 → ptePodc t.pte = true) → ptePub t.pte = true → Traps (exec i s) s .pubbad a)))))

/-- PHASE.ACQ completes: the snapshot is memory as the homes have it, and the acquires count one more. PHASE.REL completes
with nothing to publish, or once its publication is done, and the releases count one more; otherwise it stalls with
the release recorded, which covers the unpublished stores whose command or operation is complete. PHASE.AR does both.
The publication event of an agent whose covered stores all reach their homes leaves it with none of them unpublished
and no release at work, and lets the instruction go on. A full word so published to ordinary memory stands at its home
with its code, and every other byte of memory is as before. (R99, R101, R102, R155, R108, R341) -/
def Obligations.BoundariesPublishAndRefresh : Prop :=
  ∀ (x : SM) (s : State), let ids := s.coveredIds s.cur
    let ready := s.seq.released = true ∨ (s.view s.cur).rel = none ∧ ids = []
    let acq := fun u : State => (u.acquire s.cur).countAcquire
    exec (.phaseAcq x) s = .next (acq s).retire ∧
    ((acq s).view s.cur).snap = s.coherent ∧ ((acq s).view s.cur).unpublished = (s.view s.cur).unpublished ∧
    (∀ c, c ≠ s.cur → (acq s).view c = s.view c) ∧ (acq s).phys = s.phys ∧ (acq s).seq.phaseAcq = s.seq.phaseAcq + 1 ∧
    (ready → exec (.phaseRel x) s = .next s.countRelease.retire ∧ s.countRelease.seq.phaseRel = s.seq.phaseRel + 1 ∧
      exec (.phaseAr x) s = .next (acq s.countRelease).retire) ∧
    (s.seq.released = false → (s.view s.cur).rel = none → ids ≠ [] →
      let w := (s.setView s.cur { s.view s.cur with rel := some { scope := x.scope.toNat, episode := none, ids := ids } }).stalledAt
      exec (.phaseRel x) s = .next w ∧ exec (.phaseAr x) s = .next w) ∧
    (∀ r u, let a := s.evt.a
      (s.view a).rel = some r → s.storesReach a 9 r.episode ((s.view a).chosen r.ids) = .ok u → s.evt.pairs = [] →
      ∃ t, exec .publication s = .next t ∧ t = u.publish a r ∧ (∀ st ∈ (t.view a).unpublished, st.id ∉ r.ids) ∧ (t.view a).rel = none ∧
        (r.quiet = false → (t.seqOf a).released = true) ∧
        (∀ st, (s.view a).chosen r.ids = [st] → st.mask = 15 → st.podc = false → s.homedHere st.pa = true → s.homeRangeOk a st.pa = true →
          s.windows = [] → s.fabric.lines = [] → s.fwins = [] → (s.seqOf a).ctx.det = false → r.episode = none →
          s.roBits st.pa = 0 → (s.cache.find (st.pa / 64)).isSome = true →
          t.phys.word false st.pa = ⟨st.data, st.code⟩ ∧
          ∀ b, t.physByte b = if b / 4 = st.pa / 4 then byteOf st.data (b % 4) else s.physByte b))

/-- FENCE with an empty side completes with no effect. With two sides it completes where no operation of an earlier kind
is at work, or where no scalar kind is a later one: the agent's stores are made visible to its engines where it names
stores before streams or engines, and a marker is left behind an operation at work. Otherwise it waits. PUBLISH of a
buffer of any number of 64 KiB frames, aligned, translated for writing, populated, publishable, homed on this module,
with readable sources, no operation writing into it and no flip of its frames pending, completes: it schedules the
flip of its frames for 1,000 ticks later, 2,000 with a pod-coherent page, and writes that tick to sd. The flip event
makes no flip before its tick, and at the tick exchanges the two faces of each of its frames and moves no byte; one of
PUBLISH does nothing else. (R107, R154, R110, R111, R156) -/
def Obligations.FencesAndPublish : Prop :=
  ∀ (x : SM) (s : State),
    let early := bits x.off 0 6; let late := bits x.off 8 6; let pend := (s.plot s.cur).fencePending (s.plot s.cur).nextId early
    (early = 0 ∨ late = 0 → exec (.fence x) s = .next s.retire) ∧
    (early ≠ 0 → late ≠ 0 →
      let u := if early.testBit 1 ∧ 8 ≤ late then
        s.setView s.cur { s.view s.cur with stores := (s.view s.cur).stores.map fun st => { st with fenced := true } } else s
      (pend = false → exec (.fence x) s = .next u.retire) ∧
      (pend = true → late % 8 = 0 →
        exec (.fence x) s = .next (u.modPlot s.cur fun p => p.issue { id := 0, instr := .fence x, pc := s.seq.pc }).retire) ∧
      (pend = true → late % 8 ≠ 0 → exec (.fence x) s = .next s.stalledAt)) ∧
    (∀ ts : Nat → Tlb, let a := s.addr x; let len := (s.reg x.rd).toNat; let n := len / 65536
      let va := fun k : Nat => a + BitVec.ofNat 64 (65536 * k); let pa := fun k => (ts k).pa (va k)
      a.toNat % 65536 = 0 → len % 65536 = 0 → len ≠ 0 →
      (∀ k, k < n → s.translate s.cur 0 (va k) 1 = .ok (ts k) ∧ (s.popKind (pa k) = 1 ∨ s.popKind (pa k) = 2) ∧ ptePub (ts k).pte = true ∧
        (ptePodc (ts k).pte = true → s.homedHere (pa k) = true)) → Readable s [x.sa, x.rd] →
      (s.plot s.cur).writing (vaNum a) len = false → (∀ f ∈ s.flips, ∀ k, k < n → frameOf (pa k) ∉ f.frames) →
      let T := s.tempo + if (List.range n).any (fun k => ptePodc (ts k).pte) then 2000 else 1000
      exec (.publish x) s = .next (({ s with flips := s.flips ++
        [{ frames := (List.range n).map fun k => frameOf (pa k), tick := T, agent := s.cur, cid := none }] } : State).setReg x.rd T).retire) ∧
    (∀ f, s.flips[s.evt.a]? = some f →
      (s.tempo.toNat < f.tick.toNat → exec .publishFlip s = .next s) ∧
      (f.tick.toNat ≤ s.tempo.toNat → ∃ t, exec .publishFlip s = .next t ∧ t.flips = s.flips.eraseIdx s.evt.a ∧ t.views = s.views ∧
        (∀ h b, t.phys.word h b = if (f.frames.filter (· = b / 65536)).length % 2 = 1 then s.phys.word (!h) b else s.phys.word h b) ∧
        (f.cid = none → t = { s with phys := t.phys, flips := s.flips.eraseIdx s.evt.a })))

/-- A number of 0x40 or more in user mode traps PRIV and a number the unit does not have traps RSVFLD. Otherwise SRD
completes with the register's value in sd, for TEMPO the current tick, which a record keeps and a replay replaces by
the entry's, and SWR completes with the register written, or traps CFGBAD where the register refuses the value. SRDP
and SWRP do the same where they may be executed. A read-write register then reads as the written value within its
bits, STAT has the bits cleared that the value holds, and a write to a read-only register changes no register. (R43,
R158, R280, R281, R286) -/
def Obligations.SpecialRegisterAccess : Prop :=
  ∀ (x : SC) (s : State), let n := bits x.imm 0 8
    (64 ≤ n → s.seq.mode = 0 → Traps (exec (.srd x) s) s .priv (encode (.srd x)) ∧ Traps (exec (.swr x) s) s .priv (encode (.swr x))) ∧
    (n < 64 ∨ s.seq.mode ≠ 0 →
      (s.special s.cur n = none →
        Traps (exec (.srd x) s) s .rsvfld (encode (.srd x)) ∧ Traps (exec (.swr x) s) s .rsvfld (encode (.swr x)) ∧
        (isHub s.cur = true ∨ s.seq.mode = 1 → Traps (exec (.srdp x) s) s .rsvfld (encode (.srdp x)) ∧ Traps (exec (.swrp x) s) s .rsvfld (encode (.swrp x)))) ∧
      (∀ v, s.special s.cur n = some v →
        (n ≠ 5 ∨ isHub s.cur = true ∨ Unlogged s s.cur → Writes (exec (.srd x) s) s x.sd v) ∧
        (Readable s [x.sa] → (∀ t, s.putSpecial s.cur n (s.reg x.sa) = some t → exec (.swr x) s = .next t.retire) ∧
          (s.putSpecial s.cur n (s.reg x.sa) = none → Traps (exec (.swr x) s) s .cfgbad (encode (.swr x)))) ∧
        (∀ t d, n = 5 → isHub s.cur = false → s.strandDecision 4 v = .ok (t, d) →
          let u := if d.isSome = true then t.tookEntry s.seq.ctx.launch 4 s.seq.ctx.strandix 0 else t
          exec (.srd x) s = .next (u.setReg x.sd (d.getD v)).retire ∧ (s.seq.mode = 1 → exec (.srdp x) s = .next (u.setReg x.sd (d.getD v)).retire)) ∧
        ((isHub s.cur = true ∨ s.seq.mode = 1) →
          (n ≠ 5 ∨ isHub s.cur = true → Writes (exec (.srdp x) s) s x.sd v) ∧
          (Readable s [x.sa] → ∀ t, s.putSpecial s.cur n (s.reg x.sa) = some t → exec (.swrp x) s = .next t.retire)))) ∧
    (∀ (a : Nat) (v : Word) (t : State), isHub a = false →
      (∀ r ∈ [(0x07, 0x1F), (0x08, 0x31F), (0x10, -1), (0x11, -1), (0x12, -1), (0x13, -1), (0x41, 0xFFFFFFF9), (0x42, -1), (0x44, -1),
          (0x45, -1), (0x46, -1), (0x47, -1), (0x48, -1), (0x4A, -1), (0x4B, ~~~7), ((0x4C, 3) : Nat × Word)],
        s.putSpecial a r.1 v = some t → t.special a r.1 = some (v &&& r.2)) ∧
      (∀ r ∈ [0x07, 0x08, 0x10, 0x11, 0x12, 0x13, 0x41, 0x42, 0x44, 0x45, 0x46, 0x47, 0x48], s.putSpecial a r v = some t →
        ∀ k, k ≠ r → t.special a k = s.special a k) ∧
      (s.putSpecial a 0x0F v = some t → ∃ old, s.special a 0x0F = some old ∧ t.special a 0x0F = some (old &&& ~~~(v &&& 0x700))) ∧
      (∀ r ∈ [0x00, 0x01, 0x02, 0x03, 0x04, 0x05, 0x06, 0x09, 0x0A, 0x0B, 0x0D, 0x0E, 0x43, 0x4D, 0x4E, 0x4F, 0x50, 0x51, 0x52],
        s.putSpecial a r v = some t → ∀ k, t.special a k = s.special a k)) ∧
    (s.special s.cur 0x05 = some s.tempo ∧ s.special s.cur 0x07 = some (s.seq.fpflags.setWidth 64) ∧ s.special s.cur 0x42 = some s.seq.epc ∧
      s.special s.cur 0x43 = some (s.seq.tcause.setWidth 64) ∧ s.special s.cur 0x0C = none ∧ s.special s.cur 0x14 = none)

/-- While an agent that is not idle has CYCLE at or above a TIMECMP that is not 0, and no TIMER pending, the timer event
makes TIMER pending with CYCLE in TVAL0. A write of TIMECMP sets it and withdraws a pending TIMER. A hub core's write
of FWBASE, FWSIZE or FWSCALE of a window that is not enabled takes the value's bits, and to an enabled one changes
nothing. A write of LANE of a fault record takes bits 21:16, and one of a read-only doubleword changes nothing of the
record. (R280, R281, R324) -/
def Obligations.SpecialRegisterEvents : Prop :=
  ∀ (s : State), let a := s.evt.a; let q := s.seqOf a
    (q.timecmp ≠ 0 → q.timecmp ≤ s.cycleOf a → q.run ≠ .idle → q.run ≠ .ended → (∀ r ∈ q.pend, r.cause ≠ .timer) →
      ∃ t, exec .timer s = .next t ∧ (t.seqOf a).pend = q.pend ++ [{ cause := .timer, t0 := s.cycleOf a }] ∧ t.phys = s.phys) ∧
    (∃ t, exec .timecmpWrite s = .next t ∧ (t.seqOf a).timecmp = s.evt.v ∧ (∀ r ∈ (t.seqOf a).pend, r.cause ≠ .timer) ∧
      (∀ b, b ≠ a → t.seqOf b = s.seqOf b) ∧ t.plots = s.plots ∧ t.phys = s.phys) ∧
    (a < 32 → let k := (s.seqOf (hubAgent a)).fwsel.toNat; let w := s.fwins.get {} k
      (w.enable = false →
        (s.evt.b = 0x54 → ∃ t, exec .formatWindowWrite s = .next t ∧ t.fwins.get {} k = { w with base := bits s.evt.v 16 36 * 65536 }) ∧
        (s.evt.b = 0x55 → ∃ t, exec .formatWindowWrite s = .next t ∧ t.fwins.get {} k = { w with size := bits s.evt.v 16 36 * 65536 }) ∧
        (s.evt.b = 0x56 → ∃ t, exec .formatWindowWrite s = .next t ∧ t.fwins.get {} k = { w with scale := bits s.evt.v 6 46 * 64 })) ∧
      (w.enable = true → s.evt.b = 0x54 ∨ s.evt.b = 0x55 ∨ s.evt.b = 0x56 → exec .formatWindowWrite s = .next s)) ∧
    (0x60 ≤ s.evt.b → s.evt.b < 0xA0 → let g := (s.evt.b - 0x60) / 16; let i := (s.evt.b - 0x60) % 16; let r := (s.plot a).recs.get {} g
      ∃ t, exec .agRecordWrite s = .next t ∧ (i = 0 → (t.plot a).recs.get {} g = { r with lane := s.evt.v.extractLsb' 16 6 }) ∧
        (i ≠ 0 → i ≠ 2 → i ≠ 3 → (t.plot a).recs.get {} g = r) ∧ t.phys = s.phys)

/-- With its mask readable and its launch neither recorded nor replayed: TAGFF completes with the lowest ready tag of its
set in sd, or 64; TAGWAITANY likewise with the lowest ready tag, with 64 where no tag of the set is pending or ready,
and stalls otherwise; TAGWAITALL completes once no tag of the set is pending; TAGCLR then frees the tags of its set
and no other. CBCLOSE closes the open batch and CBWAIT then completes if at most n closed batches remain; a
seventeenth closed batch stalls both. A stall leaves everything as it was. (R157, R160, R161, R166) -/
def Obligations.TagsAndBatches : Prop :=
  ∀ (x : SC) (s : State), let p := s.plot s.cur; let m := s.tagSet x; let P := m &&& p.tagPending; let Y := m &&& p.tagReady
    (m = if x.imm.getLsbD 8 then s.reg x.sa else 1#64 <<< (x.imm.toNat % 64)) ∧
    (Readable s (if x.imm.getLsbD 8 then [x.sa] else []) →
      (P = 0 → exec (.tagwaitall x) s = .next s.retire ∧
        ∃ q : Plot, exec (.tagclr x) s = .next (s.setPlot s.cur q).retire ∧ q = { p with tagReady := q.tagReady } ∧
          ∀ k, k < 64 → q.tagReady.getLsbD k = (p.tagReady.getLsbD k && !m.getLsbD k)) ∧
      (P ≠ 0 → exec (.tagwaitall x) s = .next s.stalledAt ∧ exec (.tagclr x) s = .next s.stalledAt) ∧
      (Unlogged s s.cur →
        (∀ k, k < 64 → Y.getLsbD k = true → (∀ j, j < k → Y.getLsbD j = false) →
          Writes (exec (.tagff x) s) s x.sd (BitVec.ofNat 64 k) ∧ Writes (exec (.tagwaitany x) s) s x.sd (BitVec.ofNat 64 k)) ∧
        (Y = 0 → Writes (exec (.tagff x) s) s x.sd 64 ∧
          (P = 0 → Writes (exec (.tagwaitany x) s) s x.sd 64) ∧ (P ≠ 0 → exec (.tagwaitany x) s = .next s.stalledAt)))) ∧
    (isHub s.cur = false → let n := x.imm.toNat % 32
      (∀ l, p.openBatch = some l → l ≠ [] →
        (p.batches.length < 16 → let q := { p with openBatch := none, batches := p.batches ++ [l] }
          exec .cbclose s = .next (s.setPlot s.cur q).retire ∧
          (p.batches.length < n → exec (.cbwait x) s = .next (s.setPlot s.cur q).retire) ∧
          (n ≤ p.batches.length → exec (.cbwait x) s = .next (s.setPlot s.cur q).stalledAt)) ∧
        (16 ≤ p.batches.length → exec .cbclose s = .next s.stalledAt ∧ exec (.cbwait x) s = .next s.stalledAt)) ∧
      (p.openBatch = none → exec .cbclose s = .next (s.setPlot s.cur p).retire ∧
        (p.batches.length ≤ n → exec (.cbwait x) s = .next (s.setPlot s.cur p).retire)))

/-- An arrival in another scope than the episode's, by a hub core, or at POD scope without a pod barrier group traps
CFGBAD. Once its release is made or has nothing to publish, BARARV of an episode the strand has not joined completes:
the release and the acquire counted, the strand joined, and 0 in sd; with no episode it opens one, at TRACT scope
always, above it while a slot of the barrier table is to be had; with none to be had it completes under STATUS with
the status in sd and joins nothing. BAR does the same and stalls with its arrived bit. BARWAIT, and BAR once arrived,
complete with an acquire once the episode joined is done, and stall until then; BARWAIT with nothing joined completes
at once. The completion event, once every participant has joined (and for POD the level above has released), ends the
episode for all of them. That the refused arrival acquires too is the model's choice (log entry 67). (R33, R34, R113,
R162, R163, R166) -/
def Obligations.BarriersJoinAndComplete : Prop :=
  ∀ (x : SC) (s : State), let k := bits x.imm 0 4; let sc := x.scope.toNat
    let may := fun u : State => u.seq.released = true ∨ (u.view u.cur).rel = none ∧ u.coveredIds u.cur = []
    let joinNow := fun (u : State) (e : Episode) => (((u.countRelease.acquire s.cur).countAcquire).join e k).setReg x.sd 0
    (s.barrierOk sc = (!isHub s.cur && (sc != 4 || s.seq.ctx.podgrp != 0))) ∧
    (s.barrierOk sc = false → Traps (exec (.bararv x) s) s .cfgbad (encode (.bararv x)) ∧
      Traps (exec (.barwait x) s) s .cfgbad (encode (.barwait x)) ∧
      (s.seq.arrived = false → Traps (exec (.bar x) s) s .cfgbad (encode (.bar x)))) ∧
    (s.barrierOk sc = true →
      (∀ e, s.episodeOf k = some e → e.scope ≠ sc → s.seq.released = false → Traps (exec (.bararv x) s) s .cfgbad (encode (.bararv x)) ∧
        (s.seq.arrived = false → Traps (exec (.bar x) s) s .cfgbad (encode (.bar x)))) ∧
      (∀ e, s.episodeOf k = some e → e.scope = sc → e.joined.contains s.me = false → may s →
        exec (.bararv x) s = .next (joinNow s e).retire ∧
        (s.seq.arrived = false →
          exec (.bar x) s = .next ((joinNow s e).modSeq fun q => { q with arrived := true, released := false }).stalledAt)) ∧
      (s.episodeOf k = none → sc = 1 → may s → ∃ u e, s.openEpisode 1 k = some u ∧ u.episodeOf k = some e ∧ e.ord = s.sched.nextEp ∧ e.joined = [] ∧
        exec (.bararv x) s = .next (joinNow u e).retire) ∧
      (∀ u e, s.episodeOf k = none → s.openEpisode sc k = some u → u.episodeOf k = some e → may u →
        exec (.bararv x) s = .next (joinNow u e).retire ∧
        (s.seq.arrived = false →
          exec (.bar x) s = .next ((joinNow u e).modSeq fun q => { q with arrived := true, released := false }).stalledAt)) ∧
      (s.episodeOf k = none → s.openEpisode sc k = none → may s → s.seq.ctx.exhStatus = true →
        let t := (s.setReg x.sd (0x8000000000000000#64 + Cause.barfull.code.setWidth 64)).retire
        exec (.bararv x) s = .next (t.countRelease.acquire t.cur).countAcquire) ∧
      (s.seq.joined.find k = none → exec (.barwait x) s = .next s.retire) ∧
      (∀ j, s.seq.joined.find k = some j → j.scope = sc →
        let after := ((s.acquire s.cur).countAcquire).modSeq fun q => { q with joined := q.joined.del k }
        (j.done = true → exec (.barwait x) s = .next after.retire ∧
          (s.seq.arrived = true → exec (.bar x) s = .next (after.modSeq fun q => { q with arrived := false }).retire)) ∧
        (j.done = false → exec (.barwait x) s = .next s.stalledAt ∧ (s.seq.arrived = true → exec (.bar x) s = .next s.stalledAt)))) ∧
    (∀ e ks, s.sched.episodes[s.evt.a]? = some e → s.participants e = some ks → ks ≠ [] → (∀ i ∈ ks, i ∈ e.joined) →
      (e.scope = 4 → s.evt.ok = true) →
      ∃ t, exec .barrierCompletion s = .next t ∧ t = s.completeEpisode e ∧
        (∀ f ∈ t.sched.episodes, f.ord ≠ e.ord) ∧
        ∀ a j, (t.seqOf a).joined.find k = some j → j.episode = e.ord → (s.seqs.find a).isSome = true → j.done = true)

/-- A name that is not a live slot of the partition traps EVNAME. With a live slot and readable registers: EVSIG once its
release is made or has nothing to publish, for a launch neither recorded nor replayed, completes with the count raised
by imm32 modulo 2^32 and every waiter released whose target is reached; EVWAIT completes, with an acquire, where the
target is at most the count, and otherwise waits, its waiter recorded, while there is a place among 64; EVRST
completes with count 0; each writes 0 to sd. EVALLOC with room under the budget completes with a new slot of count 0
and its name, a free one above 0, in sd; without room it is exhausted. SUPERVISOR_RESUME lets a stopped strand go on
with its resource granted, fails a strand that runs when it names a cause, and makes or frees an event slot of a
partition for firmware; how its record says which is the model's own (log entry 66). (R164, R162, R307, R326, R369) -/
def Obligations.EventsCountAndRelease : Prop :=
  ∀ (x : SC) (s : State), let v := s.reg x.sa; let target := (s.reg x.sb).toNat % 2 ^ 32
    ((v.toNat < 65536 → ∀ e, s.sched.events.find v.toNat = some e → isHub s.cur = false ∧ e.part ≠ s.seq.ctx.part) →
      Traps (exec (.evsig x) s) s .evname v ∧ Traps (exec (.evwait x) s) s .evname v ∧ Traps (exec (.evrst x) s) s .evname v) ∧
    (v.toNat < 65536 → ∀ e, s.sched.events.find v.toNat = some e → (isHub s.cur = true ∨ e.part = s.seq.ctx.part) →
      (Readable s [x.sa] → s.seq.released = true ∨ (s.view s.cur).rel = none ∧ s.coveredIds s.cur = [] → (∀ l, s.launch? (if isHub s.cur then e.launch.getD 0 else s.seq.ctx.launch) = some l → s.effRep l.rcb = false ∧ s.effRec l.rcb = false) →
        ∃ u : State, exec (.evsig x) s = .next (u.setReg x.sd 0).retire ∧ u = s.countRelease.signal e x.imm.toNat ∧
          (let n := (e.count + x.imm.toNat) % 2 ^ 32;
            let ws := e.waiters.map fun w => { w with released := w.released || w.target ≤ n };
            u.sched.events.find e.name = some { e with count := n, waiters := ws })) ∧
      (Readable s [x.sa, x.sb] → let others := e.waiters.filter (·.agent != s.me)
        (target ≤ e.count → exec (.evwait x) s =
          .next (((((s.setSlot { e with waiters := others }).acquire s.cur).countAcquire).setReg x.sd 0).retire)) ∧
        (e.count < target → (∀ w ∈ e.waiters, w.agent ≠ s.me) → others.length < 64 → exec (.evwait x) s =
          .next (s.setSlot { e with waiters := others ++ [{ agent := s.me, target := target, released := false }] }).stalledAt)) ∧
      (Readable s [x.sa] → exec (.evrst x) s = .next ((s.setSlot { e with count := 0 }).setReg x.sd 0).retire)) ∧
    (∀ n, s.freeName = some n →
      (s.sched.events.length < 4096 → s.roomFor s.seq.ctx.rcb 7 0x28 2 0xD0 2 1 = true →
        let e : EvSlot := { name := n, count := 0, part := s.seq.ctx.part, launch := if isHub s.cur then none else some s.seq.ctx.launch }
        exec (.evalloc x) s = .next (((s.setSlot e).useMore s.seq.ctx.rcb 0xD0 2 1).setReg x.sd (BitVec.ofNat 64 n)).retire ∧
          0 < n ∧ n < 65536 ∧ s.sched.events.find n = none)) ∧
    (s.seq.granted = false → s.roomFor s.seq.ctx.rcb 7 0x28 2 0xD0 2 1 = false →
      (s.seq.ctx.exhStatus = true →
        exec (.evalloc x) s = .next ((s.setReg x.sd (0x8000000000000000#64 + Cause.evfull.code.setWidth 64)).retire)) ∧
      (s.seq.ctx.exhStatus = false → ∃ t, exec (.evalloc x) s = .next t ∧ t.seq.run = .exhausted ∧ t.seq.pc = s.seq.pc)) ∧
    (s.evt.d ≠ 1 → s.evt.d ≠ 2 → s.evt.c = 0 → (s.seqOf s.evt.a).run = .exhausted →
      ∃ t, exec .supervisorResume s = .next t ∧ (t.seqOf s.evt.a).run = .running ∧
      (t.seqOf s.evt.a).granted = true ∧ (t.seqOf s.evt.a).pc = (s.seqOf s.evt.a).pc) ∧
    (s.evt.d ≠ 1 → s.evt.d ≠ 2 → s.evt.c ≠ 0 → isHub s.evt.a = false → (s.seqOf s.evt.a).run = .running ∨ (s.seqOf s.evt.a).run = .exhausted →
      exec .supervisorResume s = .next (s.failStrand s.evt.a (BitVec.ofNat 7 s.evt.c))) ∧
    (∀ n, s.evt.d = 1 → s.freeName = some n → s.sched.events.length < 4096 → ∃ t, exec .supervisorResume s = .next t ∧
      t.sched.events.find n = some { name := n, count := 0, part := s.evt.b, launch := none } ∧ ∀ m, m ≠ n → t.sched.events.find m = s.sched.events.find m) ∧
    (∀ e, s.evt.d = 2 → s.sched.events.find s.evt.b = some e → e.launch = none → ∃ t, exec .supervisorResume s = .next t ∧
      t.sched.events.find s.evt.b = none)

/-- LAUNCH that holds no place yet traps ALIGN for an address that is not a multiple of 128; a record that reads clean and
passes its checks, with room for a launch, reserves its place; the launch of a reserved place, once the release is
made or has nothing to publish, is enqueued and its LAUNCHID written to sd. SEED with conditioned bits and room in the
log completes with the next seed of the source (a free value) in sd, the bits used up and one entry more in the log;
without bits it stalls until the source is ready. STASHDECL whose checks pass adds its region, and for WINDOW its
range, and keeps every byte. CARRYX of a valid entry whose destination translates stores the header and the state; of
an invalid one it traps CARRYBAD. CARRYI of a valid image installs entry n with VALID. (R167, R168, R373, R169, R170,
R171, R49) -/
def Obligations.LaunchSeedDeclareCarry : Prop :=
  ∀ (x : SC) (s : State), let a := s.reg x.sa
    (s.seq.resv = none → a.toNat % 128 ≠ 0 → Traps (exec (.launch x) s) s .align a) ∧
    (∀ t u1 u2 w1 w2 l, s.seq.resv = none → a.toNat % 128 = 0 → s.reachGlobal a 0 false = .ok t → s.popKind (t.pa a) ≠ 3 →
      s.readWords t a 64 true = .ok (w1, u1) → u1.readWords t (a + 64) 64 true = .ok (w2, u2) → u2.consume t a (t.pa a) (w1 ++ w2) = .ok () →
      let ws := (w1 ++ w2).map (·.v); let u3 := u2.meet (recNum ws 0x18 8)
      u3.checkLaunch (if isHub u3.cur then 0 else u3.seq.ctx.part) (t.pa a) ws u3.seq.holdchild = .ok l → u3.contextRoom = true → Readable u3 [x.sa] →
      s.reserveLaunch (encode (.launch x)) x = .ok (u3.modSeq fun q => { q with resv := some l }, l)) ∧
    (∀ l, s.seq.resv = some l → s.reserveLaunch (encode (.launch x)) x = .ok (s, l)) ∧
    (∀ u l r id, s.reserveLaunch (encode (.launch x)) x = .ok (u, l) → u.seq.released = true ∨ (u.view u.cur).rel = none ∧ u.coveredIds u.cur = [] →
      (isHub u.cur = true ∨ Unlogged u u.cur) → u.enqueue l = some (r, id) →
      exec (.launch x) s = .next (r.countRelease.setReg x.sd (BitVec.ofNat 64 id)).retire) ∧
    ((s.seq.ctx.replay = false ∨ isHub s.cur = true) → (isHub s.cur = true ∨ Unlogged s s.cur) →
      (s.power.entropyReady = true → s.obs.seedW - s.obs.seedB < Config.seedSlots →
        ∃ u : State, Writes (exec (.seed x) s) u x.sd (Config.entropy s.obs.seeds) ∧
          (let o := { s.obs with seeds := s.obs.seeds + 1, seedW := s.obs.seedW + 1 };
            u = { s with phys := u.phys, power := { s.power with entropyReady := false }, obs := o }) ∧
          u.phys.dword (Config.seedBase + 32 * (s.obs.seedW % Config.seedSlots) + 24) =
            BitVec.ofNat 64 (s.cur % 65536 + s.seq.ctx.launch % 2 ^ 32 * 2 ^ 32)) ∧
      (s.power.entropyReady = false → exec (.seed x) s = .next s.stalledAt)) ∧
    (∃ t, exec .entropyBitsReady s = .next t ∧ t = { s with power := { s.power with entropyReady := true } }) ∧
    (bits x.imm 0 2 < 2 → bits x.imm 8 4 = 0 → x.sd = 0 → let b := (s.reg x.sa).toNat; let n := (s.reg x.sb).toNat; let p := s.plot s.cur;
      n ≠ 0 → b % 64 = 0 → n % 64 = 0 → isHub s.cur = false → b + n ≤ 0x200000 →
      (∀ r ∈ p.regions, r.base + r.size ≤ b ∨ b + n ≤ r.base) → (∀ k, k < 16 → p.holds p.nextId k = true) → Readable s [x.sa, x.sb] →
      exec (.stashdecl x) s =
        .next (s.setPlot s.cur { p with regions := p.regions ++ [{ kind := bits x.imm 0 2, base := b, size := n }] }).retire) ∧
    (bits x.imm 0 2 = 2 → bits x.imm 8 4 ≤ 8 → let b := (s.reg x.sa).toNat; let n := (s.reg x.sb).toNat; let p := s.plot s.cur;
      let va := s.reg x.sd; let len := n * 2 ^ bits x.imm 8 4
      n ≠ 0 → b % 65536 = 0 → n % 65536 = 0 → va.toNat % 65536 = 0 → canonical va = true → canonical (va + BitVec.ofNat 64 (len - 1)) = true →
      len ≤ 2 ^ 54 → isHub s.cur = false → b + n ≤ 0x200000 → (∀ r ∈ p.regions, r.base + r.size ≤ b ∨ b + n ≤ r.base) →
      s.rangeFree s.cur s.seq.ctx.asid s.seq.ctx.part (vaNum va) len = true →
      (∀ k, k < 16 → p.holds p.nextId k = true) → Readable s [x.sa, x.sb, x.sd] →
      exec (.stashdecl x) s = .next (({ s with windows := s.windows ++ [{ owner := s.cur, base := b, size := n, vbase := va.toNat % 2 ^ 55, j := bits x.imm 8 4, asid := s.seq.ctx.asid }] } : State).setPlot s.cur
        { p with regions := p.regions ++ [{ kind := 2, base := b, size := n }] }).retire) ∧
    (let n := bits x.imm 0 4; let p := s.plot s.cur;
      p.scanning n = false → a.toNat % 64 = 0 →
        (p.carryEntry n = none → Traps (exec (.carryx x) s) s .carrybad (encode (.carryx x))) ∧
        (∀ e t, p.carryEntry n = some e → s.reachPages a (64 + carryBytes e) 1 true = .ok () → Readable s [x.sa] →
          (s.seq.gstrict = true → p.anyStale (bits e 0 21) (carryBytes e) = false) →
          s.storeSpan a (s.carryHeader e ++ (List.range (carryBytes e / 4)).map fun k => p.word (bits e 0 21 + 4 * k)) 0 = .ok t →
          exec (.carryx x) s = .next (t.watchAccess a (64 + carryBytes e) true).retire) ∧
        (∀ hd u v ws, let ptr := s.reg x.sb;
          s.reachPages a 64 0 false = .ok () → s.readSpan a 1 = .ok (hd, u) → firstBad 0 hd = none →
          let e0 : Word := (hd.getD 3 CW.zero).v ++ (hd.getD 2 CW.zero).v
          let e : Word := (e0 &&& ~~~0x1FFFFF#64) ||| (ptr &&& 0x1FFFFF) ||| 0x0200000000000000#64
          (hd.getD 0 CW.zero).v = 0x43580001 → ptr.toNat ≤ 0x1FFFFF → carryOk e = true →
          u.reachPages (a + 64) (carryBytes e) 0 false = .ok () → u.localCheck (bits e 0 21) (carryBytes e) = .ok () →
          Readable u [x.sa, x.sb] → u.readSpan (a + 64) (carryBytes e / 64) = .ok (ws, v) →
          ∃ q : Plot, exec (.carryi x) s = .next ((v.setPlot v.cur q).watchAccess a (64 + carryBytes e) false).retire ∧
            q = { p with stash := q.stash, carry := q.carry } ∧ q.carryEntry n = some e))

/-- For an agent with a valid TVEC, no active handler and a cause that does not enter debug mode: a fault enters the
handler with EPC the PC of the instruction. TRAP with code bit 31 clear completes and enters with SWTRAP, TVAL0 the
code, EPC the next PC; while a handler is active it stays pending instead. TRAP with the bit set faults BRKPT with the
code's low 31 bits. At a boundary the pending exception with the lowest cause code is delivered, with TCAUSE.BOUNDARY
set and EPC the PC not executed, and is no longer pending. With debug mode enabled BRKPT enters mode 2 with EPC and
TCAUSE, the PC unmoved. With TVEC invalid a hub core stops, and the module supervisor has a message with the tag
0xFFFF, TCAUSE and EPC. (R282, R283, R284, R286, R278) -/
def Obligations.ExceptionsEnterTheHandler : Prop :=
  ∀ (x : SC) (s : State), let q := s.seq
    (∀ r, Handles q r.cause → Entered s (s.takeFault r) r false q.pc) ∧
    (let r : Raise := { cause := .swtrap, t0 := x.imm.setWidth 64 };
      Quiet s → q.tvec.getLsbD 0 = true →
        (q.inh = false → ∃ t, exec (.trap x) s = .next t ∧ Entered s t r false q.advance.pc) ∧
        (q.inh = true → ∃ t, exec (.trap x) s = .next t ∧ t.seq.pend = q.pend ++ [r] ∧ t.seq.pc = q.advance.pc ∧ t.seq.mode = q.mode)) ∧
    Traps (exec (.trapBrkpt x) s) s .brkpt (BitVec.ofNat 64 (x.imm.toNat % 2 ^ 31)) ∧
    (q.dbgen = true → q.inh = false → ∃ t, exec (.trapBrkpt x) s = .next t ∧ t.seq.mode = 2 ∧ t.seq.pc = q.pc ∧ t.seq.epc = q.pc ∧
      t.seq.tcause.toNat = Cause.brkpt.code.toNat ∧ t.seq.regs = q.regs) ∧
    (let a := s.evt.a; let u := { s with cur := a }; let p := u.seq
      p.run = .running → p.mode ≠ 2 → p.req.drain = false → p.req.save = false → p.stalled = false →
      ∀ r ∈ p.candidates, (∀ y ∈ p.candidates, y.unit < 16 ∧ (y ≠ r → r.cause.code.toNat < y.cause.code.toNat)) → Handles p r.cause →
        ∃ t, exec .boundaryException s = .next t ∧ Entered u t r true p.pc ∧
          (r.cause ≠ .mbox → t.seq.pend = p.pend.erase r) ∧ (p.mail.head? = some r → r.cause = .mbox → t.seq.mail = p.mail.tail)) ∧
    (q.inh = true ∨ q.mode = 2 → s.evt.a = s.cur → exec .boundaryException s = .next s) ∧
    (∀ r : Raise, q.tvec.getLsbD 0 = false → q.inh = false → q.intoDebug r.cause = false → r.cause ≠ .ownlost → isHub s.cur = true →
      ((s.takeFault r).seqOf s.cur).run = .failed ∧
      ∃ m : Raise, ((s.takeFault r).seqOf (hubAgent 0)).mail = (s.seqOf (hubAgent 0)).mail ++ [m] ∧ m.cause = .mbox ∧
        m.t0 = BitVec.ofNat 64 (s.cur % 65536 + 0xFFFF0000) ∧ m.t1.toNat = r.cause.code.toNat + 256 * (r.unit % 16) ∧ m.t2 = q.pc)

/-- TRET in user mode on a plot traps PRIV. On a hub core, or on a plot in supervisor mode, it completes with INH 0 and PC
:= EPC; a hub core stays in supervisor mode, a plot takes PMODE, and INH stays with a plot that stays in supervisor
mode. A plot that returns to user mode with its masks not all ones needs a marker's place, and then has a marker of
the matrix unit more. Its registers and every byte of memory stay. A generator with a live record resumes at its beat,
or raises AGLOOPBAD where its counters lie outside the command. (R286, R278, R283, R325, R227) -/
def Obligations.TretReturns : Prop :=
  ∀ (s : State), let q := s.seq; let c := s.cur
    (isHub c = false → q.mode = 0 → Traps (exec .tret s) s .priv (encode .tret)) ∧
    (isHub c = true → ∃ t, exec .tret s = .next t ∧ t.seq.mode = 1 ∧ t.seq.inh = false ∧ t.seq.pc = q.epc ∧ t.seq.regs = q.regs ∧
      t.plots = s.plots ∧ t.phys = s.phys) ∧
    (isHub c = false → q.mode = 1 →
      (q.pmode = 1 → ∃ t, exec .tret s = .next t ∧ t.seq.mode = 1 ∧ t.seq.inh = true ∧ t.seq.pc = q.epc ∧ t.seq.regs = q.regs ∧ t.plots = s.plots) ∧
      (q.pmode = 0 → ((s.plot c).maskedOff = true → (s.plot c).markers < 16) →
        ∃ t, exec .tret s = .next t ∧ t.seq.mode = 0 ∧ t.seq.inh = false ∧ t.seq.pc = q.epc ∧ t.seq.regs = q.regs ∧ t.phys = s.phys ∧
          (t.plot c).stash = (s.plot c).stash ∧
          ((∀ g, g < 4 → ((s.plot c).recs.get {} g).live = false) → (s.plot c).maskedOff = false → t.plots = s.plots ∧ t.seq.pend = q.pend) ∧
          ((∀ g, g < 4 → ((s.plot c).recs.get {} g).live = false) → (s.plot c).maskedOff = true →
            t.plot c = (s.plot c).issue { id := 0, instr := .tret }))) ∧
    (q.pmode = 0 → isHub c = false → q.mode = 1 → (s.plot c).maskedOff = true → 16 ≤ (s.plot c).markers → exec .tret s = .next s.stalledAt) ∧
    (∀ g, g < 4 → let r := (s.plot c).recs.get {} g
      r.live = true → (∀ y ∈ q.pend, y.unit ≠ 1 + g) → (r.inside = false ↔ ∃ l, l < 4 ∧ r.gstate.count l ≤ (r.i.get 0 l).toNat) ∧
        (r.inside = false → q.run ≠ .ended →
          ((s.resumeGen c g).seqOf c).pend = q.pend ++ [{ cause := .agloopbad, unit := 1 + g, t0 := BitVec.ofNat 64 g }]) ∧
        (r.inside = true → ((s.resumeGen c g).plot c).recs.get {} g = {}))

/-- On a plot these instructions but TMASK trap PRIV. On a hub core GENBUMP of an idle plot completes with its generation
raised by one and returned, or, from 0xFEFF on, with SCRUBREQ and nothing changed; SCRUB engages the plot, and once
its 4,096 cycles are over completes with the plot's tagged state and registers zero and 0 in sd; TMASK puts a marker
in the matrix unit's queue. LNKCTL: QUIESCE with an empty replay buffer completes QUIESCED with 0, waits while it is
not empty, waits behind an operation of another core that came first, and returns LNKDOWN once the link is DOWN or 100
microseconds have passed; REMAP, RETRAIN, RESUME and MARGIN complete with their results in the states that admit them;
another state traps CFGBAD. LNKST writes the item to sd, a count of a window that has ended as 0, clearing it with CLR
where it is item 0 or 1. (R279, R287, R288, R243, R291, R360, R367) -/
def Obligations.PlotAndLinkControl : Prop :=
  ∀ (x : SC) (s : State), let v := s.reg x.sa; let c := v.toNat; let p := s.plot c; let w := s.reg x.sb
    let onlyLink := fun (l : Nat) (t : State) (k : Link) => t.link l = k ∧ (∀ m, m ≠ l → t.link m = s.link m) ∧ t.phys = s.phys ∧ t.plots = s.plots
    (isHub s.cur = false → ∀ i ∈ [Instr.genbump x, .scrub x, .lnkctlQuiesce x, .lnkctlRemap x, .lnkctlRetrain x, .lnkctlResume x, .lnkctlMargin x,
      .lnkst x], Traps (exec i s) s .priv (encode i)) ∧
    (isHub s.cur = true → c < 4096 → namesPlot c = true → p.engaged = false →
      (s.idlePlot c = false → s.seq.busy = false → Traps (exec (.genbump x) s) s .cfgbad (encode (.genbump x)) ∧
        Traps (exec (.scrub x) s) s .cfgbad (encode (.scrub x))) ∧
      (s.idlePlot c = true →
        (p.gen.toNat < 0xFEFF → ∃ q, exec (.genbump x) s = .next ((((s.setPlot c q).setSeqOf c { regs := (s.seqOf c).regs }).setReg x.sd
            (BitVec.ofNat 64 (p.gen.toNat + 1))).retire) ∧ q.gen = p.gen + 1 ∧ q.stash = p.stash ∧ q.accs = p.accs ∧ q.ints = p.ints ∧
            q.carry = p.carry ∧ q.ports = [] ∧ q.routes = [] ∧ q.regions = [] ∧ q.tagPend = [] ∧ q.tds = []) ∧
        (0xFEFF ≤ p.gen.toNat → Writes (exec (.genbump x) s) s x.sd 0x800000000000005A#64) ∧
        (s.seq.answer = none → exec (.scrub x) s = .next ((s.engage c).modSeq fun q =>
          { q with answer := some (s.tempo + BitVec.ofNat 64 (s.cyclesToTicks c 4096)) }).stalledAt) ∧
        (∀ d, s.seq.answer = some d → d.toNat ≤ s.tempo.toNat →
          ∃ t : State, exec (.scrub x) s = .next (t.setReg x.sd 0).retire ∧ (t.plot c).gen = 0 ∧ (∀ b, (t.plot c).word b = CW.zero) ∧
            (t.seqOf c).regs = [] ∧ (t.plot c).code = p.code ∧ t.phys = s.phys ∧ ∀ e, e ≠ c → t.plot e = s.plot e))) ∧
    (let y : Actor := { id := 0, instr := .tmask x, pc := s.seq.pc, sv := [s.reg x.sa, s.reg x.sb] }; let h := (s.reg x.sd).toNat;
      (isHub s.cur = false → s.seq.mode = 1 → x.sd = 0 → Readable s [x.sa, x.sb] → (s.plot s.cur).markers < 16 →
        exec (.tmask x) s = .next (s.setPlot s.cur ((s.plot s.cur).issue y)).retire) ∧
      (isHub s.cur = true → h < 4096 → namesPlot h = true → (s.plot h).engaged = false → (s.seqOf h).runsUser = false →
        (s.plot h).markers < 16 → exec (.tmask x) s = .next (s.setPlot h ((s.plot h).issue y)).retire)) ∧
    (isHub s.cur = true → ∀ l, linkOf v = some l → isEther l = false → (s.link l).quiesceAt = none → s.seq.busy = false →
      (∀ a, s.nextAtLink (s.link l) = some a → a = s.cur) →
      let k := { s.link l with waiting := (s.link l).waiting.filter (· != s.cur) }; let width := 64 / 2 ^ bits w 0 2; let seg := bits w 2 2
      (k.st ≠ 0 → Traps (exec (.lnkctlQuiesce x) s) s .cfgbad (encode (.lnkctlQuiesce x))) ∧
      (k.st ≠ 2 → Traps (exec (.lnkctlResume x) s) s .cfgbad (encode (.lnkctlResume x)) ∧
        Traps (exec (.lnkctlMargin x) s) s .cfgbad (encode (.lnkctlMargin x))) ∧
      (k.st = 0 → w = 0 → k.replay = 0 → ∃ t : State, exec (.lnkctlQuiesce x) s = .next (t.setReg x.sd 0).retire ∧ onlyLink l t { k with st := 1, quiesceAt := none }) ∧
      (k.st = 0 → w = 0 → k.replay ≠ 0 → exec (.lnkctlQuiesce x) s =
        .next (((s.setLink l k).setLink l { k with quiesceAt := some s.tempo }).modSeq fun q => { q with busy := true }).stalledAt) ∧
      (k.st = 1 ∨ k.st = 3 → w.toNat < 0x400 → bits w 6 2 = 0 → k.spares.find (bits w 8 2) = none →
        ∃ t : State, exec (.lnkctlRemap x) s = .next (t.setReg x.sd 0).retire ∧ onlyLink l t { k with spares := k.spares.set (bits w 8 2) (bits w 0 6) }) ∧
      (k.st ≠ 0 → w.toNat < 16 → bits w 0 2 ≠ 3 → seg < 64 / width →
        (k.segmentBad width seg = false → ∃ t : State, exec (.lnkctlRetrain x) s = .next (t.setReg x.sd (BitVec.ofNat 64 width)).retire ∧
          onlyLink l t { k with st := 2, width := width }) ∧
        (k.segmentBad width seg = true → ∃ t : State, exec (.lnkctlRetrain x) s = .next (t.setReg x.sd 0x8000000000000046#64).retire ∧
          onlyLink l t { k with st := 3 })) ∧
      (k.st = 2 → w = 0 → ∃ t : State, exec (.lnkctlResume x) s = .next (t.setReg x.sd 0).retire ∧ (t.link l).st = 0 ∧ (t.link l).kept = [] ∧
        t.fabric.out = k.kept ++ s.fabric.out ∧ t.phys = s.phys) ∧
      (k.st = 2 → w = 0 → ∃ eye lane, eye ≤ 1000 ∧ lane < 64 ∧ exec (.lnkctlMargin x) s =
        .next (({ s.setLink l k with fresh := s.fresh + 1 } : State).setReg x.sd
          (BitVec.ofNat 64 (eye + lane * 2 ^ 16 + if eye < 300 then 2 ^ 63 else 0))).retire)) ∧
    (isHub s.cur = true → ∀ l, linkOf v = some l → isEther l = false → s.seq.busy = false → ∀ a, s.nextAtLink (s.link l) = some a → a ≠ s.cur →
      ∃ t : State, exec (.lnkctlQuiesce x) s = .next t.stalledAt ∧ t = s.setLink l (t.link l) ∧ s.cur ∈ (t.link l).waiting) ∧
    (isHub s.cur = true → ∀ l, linkOf v = some l → s.seq.busy = true → w = 0 → isEther l = false →
      (s.link l).st = 3 ∨ (s.link l).replay ≠ 0 ∧ (∃ t0, (s.link l).quiesceAt = some t0 ∧ t0.toNat + 100000 ≤ s.tempo.toNat) →
      ∃ t : State, exec (.lnkctlQuiesce x) s = .next (t.setReg x.sd 0x8000000000000046#64).retire ∧ (t.link l).st = 3 ∧ t.seq.busy = false) ∧
    (isHub s.cur = true → ∀ l, linkOf v = some l → let k := s.linkNow l; let n := x.imm.toNat % 4
      (isEther l = true → n = 0 ∨ n = 2) →
      (x.imm.getLsbD 8 = false ∨ 2 ≤ n → Writes (exec (.lnkst x) s) (s.setLink l k) x.sd (k.item l n)) ∧
      (x.imm.getLsbD 8 = true → n = 0 → Writes (exec (.lnkst x) s) (s.setLink l { k with retries := 0, fecFails := 0, raised := false }) x.sd (k.item l 0)) ∧
      (x.imm.getLsbD 8 = true → n = 1 → Writes (exec (.lnkst x) s) (s.setLink l { k with errMap := 0 }) x.sd k.errMap)) ∧
    (∀ t, (s.link s.evt.a).quiesceAt = some t → t.toNat + 100000 ≤ s.tempo.toNat → (s.link s.evt.a).replay ≠ 0 →
      exec .quiesceTimeout s = .next (s.setLink s.evt.a { s.link s.evt.a with st := 3 }))

/-- MBOX to core 0 to 31 completes, in supervisor mode or on a hub core, with the message at the end of that core's queue
and 0 in sd, and stalls while 64 messages wait; a core above 31 traps CFGBAD. TLBINV drops the page of mode 0, the
ASID of mode 1 or everything, on a plot for its own ASID only, else PRIV, and waits for engine operations that use it;
stores made through what it drops are performed first (at the homes at once: the model's choice, log entry 72).
TEMPOSTOP of a later tick sets the stop unless an earlier one stands; another traps CFGBAD. With POD it tells the
other modules the stop that stands. JRNLRD whose destination translates to ordinary memory completes: the entries from
its index on, as many as asked for and there are, enter the core's view with their codes, their number is in sd, and
with ARCHIVE the archive base moves; an index below the archive base traps CFGBAD. DIRQ of a sector homed here
completes with its entry. DIRRECLAIM of one in state OL refuses the requests that wait on it, writes the 64 bytes and
their codes to it as one action, and its entry is I; in another state it traps CFGBAD. (R292, R293, R374, R187, R279) -/
def Obligations.MessagesTranslationsAndDirectory : Prop :=
  ∀ (x : SC) (s : State), let a := s.reg x.sa; let b := s.reg x.sb; let asid := a.toNat % 2 ^ 16; let mode := x.imm.toNat % 4
    (isHub s.cur = false → (∀ i ∈ [Instr.tempostop x, .jrnlrd x, .dirq x, .dirreclaim x], Traps (exec i s) s .priv (encode i)) ∧
      (s.seq.mode = 0 → ∀ i ∈ [Instr.mbox x, .tlbinv x], Traps (exec i s) s .priv (encode i))) ∧
    (isHub s.cur = true ∨ s.seq.mode = 1 → let core := x.imm.toNat % 256; let h := hubAgent core
      (31 < core → Traps (exec (.mbox x) s) s .cfgbad (encode (.mbox x))) ∧
      (core ≤ 31 → Readable s [x.sa, x.sb] →
        (let m : Raise := { cause := .mbox, t0 := BitVec.ofNat 64 (s.cur % 65536 + x.imm.toNat / 65536 * 65536), t1 := a, t2 := b, t3 := s.tempo };
          (s.seqOf h).mail.length < 64 → ∃ u : State, exec (.mbox x) s = .next (u.setReg x.sd 0).retire ∧
          u.seqOf h = { s.seqOf h with mail := (s.seqOf h).mail ++ [m] } ∧ (∀ e, e ≠ h → u.seqOf e = s.seqOf e) ∧ u = { s with seqs := u.seqs }) ∧
        (64 ≤ (s.seqOf h).mail.length → exec (.mbox x) s = .next s.stalledAt)) ∧
      (mode = 3 → Traps (exec (.tlbinv x) s) s .rsvfld (encode (.tlbinv x))) ∧
      (isHub s.cur = false → mode = 2 ∨ mode < 2 ∧ asid ≠ s.seq.ctx.asid → Traps (exec (.tlbinv x) s) s .priv (encode (.tlbinv x))) ∧
      (mode ≠ 3 → isHub s.cur = true ∨ mode ≠ 2 ∧ asid = s.seq.ctx.asid → Readable s [x.sa, x.sb] → let f := invalidates mode asid (vpnOf b)
        (s.opsHold f = true → exec (.tlbinv x) s = .next s.stalledAt) ∧
        (∀ b w, s.opsHold f = false → s.views.map (·.1) = [b] → s.storesUnder f b ≠ [] → s.storesReach b 9 none ((s.view b).chosen (s.storesUnder f b)) = .ok w →
          exec (.tlbinv x) s = .next (((w.performAll b { scope := 3, episode := none, ids := s.storesUnder f b, quiet := true }).dropTlbs f mode asid).retire)) ∧
        (s.opsHold f = false → (∀ b, s.storesUnder f b = []) → ∃ u : State, exec (.tlbinv x) s = .next u.retire ∧ (∀ c, (u.plot c).utlb = (s.plot c).utlb.filter fun e => !f e) ∧
          (∀ k, (u.acre k).tlb = (s.acre k).tlb.filter fun e => !f e) ∧ (∀ c, (u.plot c).stash = (s.plot c).stash) ∧
          (∀ e, (s.seqs.find e).isSome = true → mode = 2 ∨ (s.seqOf e).ctx.asid = asid → (u.seqOf e).faults = []) ∧ u.phys = s.phys))) ∧
    (isHub s.cur = true →
      (a.toNat ≤ s.tempo.toNat → Traps (exec (.tempostop x) s) s .cfgbad (encode (.tempostop x))) ∧
      (s.tempo.toNat < a.toNat → ∃ t : State, exec (.tempostop x) s = .next (t : State).retire ∧ t = { s with power := t.power } ∧
        (s.power.stopAt = none → t.power.stopAt = some a) ∧
        (∀ u, s.power.stopAt = some u → t.power.stopAt = some (if a.toNat < u.toNat then a else u)) ∧
        t.power.podStop = if x.imm.getLsbD 0 then t.power.stopAt else s.power.podStop) ∧
      (b.toNat % 64 = 0 → (a.toNat < s.obs.journal.b → Traps (exec (.jrnlrd x) s) s .cfgbad (encode (.jrnlrd x))) ∧
        (s.obs.journal.b ≤ a.toNat → let n := Nat.min (x.imm.toNat % 256 + 1) (s.obs.journal.w - a.toNat)
          ∀ es : Nat → Tlb, let at_ := fun k : Nat => b + BitVec.ofNat 64 (4 * k)
          (∀ k, k < 16 * n → s.translate s.cur 0 (at_ k) 1 = .ok (es k) ∧ (s.popKind ((es k).pa (at_ k)) = 1 ∨ s.popKind ((es k).pa (at_ k)) = 2) ∧
            ptePub (es k).pte = false) →
          ∃ t : State, exec (.jrnlrd x) s = .next ((t.setReg x.sd (BitVec.ofNat 64 n)).watchAccess b (64 * n) true).retire ∧
            t = { s with views := t.views, obs := t.obs } ∧ (∀ c, c ≠ s.cur → t.view c = s.view c) ∧ (t.view s.cur).snap = (s.view s.cur).snap ∧
            t.obs = { s.obs with journal := { s.obs.journal with b := if x.imm.getLsbD 8 then a.toNat + n else s.obs.journal.b } } ∧
            (t.view s.cur).stores = (s.view s.cur).stores ++ (List.range (16 * n)).map fun k =>
              let w := s.phys.word false (Config.journalBase + 64 * ((a.toNat + k / 16) % Config.journalSlots) + 4 * (k % 16))
              { id := (s.view s.cur).nextId + k, va := at_ k, pa := (es k).pa (at_ k), mask := 15, data := w.v, code := w.c,
                podc := ptePodc (es k).pte, unc := decide (pteMt (es k).pte = 1), big := (es k).big, unit := (s.view s.cur).nextId + k })) ∧
      (a.toNat % 64 ≠ 0 → Traps (exec (.dirq x) s) s .align a ∧ Traps (exec (.dirreclaim x) s) s .align a) ∧
      (a.toNat % 64 = 0 → (s.homesSector a = false → Traps (exec (.dirq x) s) s .cfgbad (encode (.dirq x))) ∧
        (s.homesSector a = true → Writes (exec (.dirq x) s) s x.sd (s.dirWord (a.toNat / 64)) ∧
          (b.toNat % 64 = 0 → (s.fabric.dir.get {} (a.toNat / 64)).st ≠ 4 → Traps (exec (.dirreclaim x) s) s .cfgbad (encode (.dirreclaim x))) ∧
          (∀ ws u, b.toNat % 64 = 0 → (s.fabric.dir.get {} (a.toNat / 64)).st = 4 → s.reachPages b 64 0 false = .ok () →
            s.readSpan b 1 = .ok (ws, u) → (∀ k, k < 16 → (ws.getD k CW.zero).c ≠ 15) →
            let t := ((u.refuseWaiting (a.toNat / 64)).writeSectorWords a.toNat ws).setDir (a.toNat / 64) {}
            exec (.dirreclaim x) s = .next (t.watchAccess b 64 false).retire ∧ t.fabric.dir.get {} (a.toNat / 64) = {} ∧
              (u.fwins = [] → (∀ k, k < 16 → u.roBits (a.toNat + 4 * k) = 0) →
                (∀ k, k < 16 → t.phys.word false (a.toNat + 4 * k) = ws.getD k CW.zero) ∧
                ∀ e, e / 64 ≠ a.toNat / 64 → t.phys.word false e = u.phys.word false e)))))

/-- On a plot they trap PRIV. On a hub core, DRAINMK of a whole tract without a drain completes with the next drain's
identifier in sd, the drain recorded and every strand of the launch in the tract asked to stop; a tract with a drain
traps CFGBAD. CTXSAVE engages the plot and asks its strand to save; once the plot is ready, with its context taken, it
completes with the context in the area, the header written, the watchdog held once none of the launch is on a plot,
and 0 in sd; where the watchdog has made the save lost it returns WDOGSAVE's status. CTXLOAD of an area whose header
is that of a saved context and names the plot, which is idle, completes under the next generation, and the area counts
as loaded; PC, identity and ports are the saved ones, and with RUN set a strand that ran runs again. RELINK whose list
reads clean completes with the areas relinked, the launch's tracts and what it holds of its path replaced, and the
list's reads seen by the watchpoint, or traps RELINKFAIL with the entry. (R279, R288, R289, R290, R331, R333, R335,
R336, R338) -/
def Obligations.DrainsSavesAndLoads : Prop :=
  ∀ (x : SC) (s : State), let v := s.reg x.sa; let c := v.toNat; let a := s.reg x.sb
    (isHub s.cur = false → ∀ i ∈ [Instr.drainmk x, .ctxsave x, .ctxload x, .relink x], Traps (exec i s) s .priv (encode i)) ∧
    (isHub s.cur = true → x.imm.getLsbD 14 = true → bits x.imm 0 14 = 0 → ∀ l k t, s.tractAt c = some (l, k, t) →
      (t.drain ≠ none → Traps (exec (.drainmk x) s) s .cfgbad (encode (.drainmk x))) ∧
      (t.drain = none → ∃ u : State, exec (.drainmk x) s = .next (u.setReg x.sd (BitVec.ofNat 64 s.sched.nextDrain)).retire ∧
        (∃ d : Drain, u.sched.drains = s.sched.drains ++ [d] ∧ d.id = s.sched.nextDrain ∧ d.core = s.cur - 0x1000 ∧ d.launch = l.id ∧
          d.tract = k ∧ d.plots = t.plots ∧ d.foldfail = false) ∧
        (∀ b, b ∈ s.agentsWith (fun y => y.launch = l.id) → t.has b = true → (u.seqOf b).req.drain = true) ∧
        (∀ b, t.has b = false → u.seqOf b = s.seqOf b) ∧ u.plots = s.plots ∧ u.phys = s.phys)) ∧
    (isHub s.cur = true → c < 4096 → namesPlot c = true → a.toNat % 65536 = 0 →
      (∀ pa, (s.plot c).engaged = false → s.seq.busy = false → (s.seqOf c).run ≠ .idle → s.frozen c = false → s.areaPa a 1 = .ok pa →
        exec (.ctxsave x) s =
          .next (((s.engage c).stopRestarts (s.seqOf c).ctx.launch).modSeqOf c fun q => q.ask true ((s.engage c).stopRestarts (s.seqOf c).ctx.launch).tempo).stalledAt) ∧
      (∀ pa, s.seq.busy = true → s.areaPa a 1 = .ok pa → let lost := (s.launch? (s.seqOf c).ctx.launch).any (·.lost);
        (lost = true → exec (.ctxsave x) s = .next ((s.disengage c).setReg x.sd (0x8000000000000000#64 + Cause.wdogsave.code.setWidth 64)).retire) ∧
        (lost = false → s.readyToSave c = false → exec (.ctxsave x) s = .next s.stalledAt) ∧
        (∀ u area, lost = false → s.readyToSave c = true → (s.sampleAcre (acreOf c)).takeContext c = .ok (u, area) →
          let v := ({ u with areas := u.areas.set pa area } : State).writeHeader pa area; let k := (s.seqOf c).ctx.launch
          let w := if v.offPlots k then v.holdWdog k else v
          exec (.ctxsave x) s = .next ((w.disengage c).setReg x.sd 0).retire ∧ w.areas.find pa = some area ∧
          area.seq.regs = (s.seqOf c).regs ∧ area.seq.pc = (s.seqOf c).pc ∧ area.seq.ctx = (s.seqOf c).ctx ∧ area.seq.req.save = false ∧
          (u.seqOf c).run = .idle ∧ (u.plot c).ports = [] ∧ (u.plot c).stash = area.plot.stash)) ∧
      (∀ pa area, (s.plot c).engaged = false → s.areaPa a 0 = .ok pa → s.idlePlot c = true →
        (s.areaAt pa = none → Traps (exec (.ctxload x) s) s .cfgbad (encode (.ctxload x))) ∧
        (s.areaAt pa = some area → (s.areaFlags pa).testBit 1 = false →
          c = (if (s.areaFlags pa).testBit 0 then s.phys.num (pa + 0x28) 2 % 4096 else s.phys.num (pa + 8) 2 % 4096) →
          (s.plot c).gen.toNat < 0xFEFF → ∃ t u : State, (s.sampleAcre (acreOf c)).bumpPlot c = some t ∧
            u = ((t.loaded area).putContext c area (x.imm.getLsbD 0)).restartWdog area.seq.ctx.launch ∧
            exec (.ctxload x) s = .next (u.setReg x.sd 0).retire ∧
            (pa < 2 ^ 60 → s.areas.find pa = some area → u.areas.find pa = some { area with out := true }) ∧ (u.plot c).gen = (s.plot c).gen + 1 ∧
            (u.plot c).ports = area.plot.ports ∧ (u.seqOf c).pc = area.seq.pc ∧ (u.seqOf c).ctx = area.seq.ctx ∧
            (area.seq.run = .running → (u.seqOf c).run = if x.imm.getLsbD 0 then .running else .held)))) ∧
    (isHub s.cur = true → v.toNat % 64 = 0 → ∀ (hd : List CW) (u1 : State) (ws : List CW) (u2 : State) (es : List Relinked) (e : Relinked) (l : Launch),
      s.reachPages v 64 0 false = .ok () → s.readSpan v 1 = .ok (hd, u1) → consumeLocal v.toNat hd = .ok () →
      let w := fun k : Nat => (hd.getD k CW.zero).v.toNat; let n := w 1
      w 0 = 0x524C0001 → 1 ≤ n → n ≤ 128 → (∀ k, k < 14 → w (k + 2) = 0) → u1.reachPages (v + 64) (16 * n) 0 false = .ok () →
      u1.readSpan (v + 64) ((16 * n + 63) / 64) = .ok (ws, u2) → consumeLocal (v.toNat + 64) (ws.take (4 * n)) = .ok () →
      u2.relinkAreas (encode (.relink x)) ws n = .ok (e :: es) →
      (∀ y ∈ e :: es, y.area.seq.ctx.launch = e.area.seq.ctx.launch ∧ (u2.areaFlags y.pa).testBit 1 = false) →
      u2.launch? e.area.seq.ctx.launch = some l →
      (∀ i, u2.relinkPlace l (e :: es) = .error i → Traps (exec (.relink x) s) s .relinkfail (BitVec.ofNat 64 i)) ∧
      (∀ k m ts cs, u2.relinkPlace l (e :: es) = .ok (k, m, ts, cs) → exec (.relink x) s =
        .next ((((((u2.markRelinked (e :: es) cs (m.frac != 0)).retract l k ts).setReg x.sd 0).watchAccess v 64 false).watchAccess
          (v + 64) (16 * n) false).retire)))

/-- An armed watchdog whose interval has passed, with no save under way, fails the launch with WDOG, tells the supervisor
and is disarmed; before its interval has passed nothing happens. A request pending for 100 microseconds is escalated,
an earlier one is not. An actor that may park in a plot that is being stopped is parked. A drain whose tract is at
rest ends: it is recorded no more, its plots are fallow, and its issuer has PREEMPT, or FOLDFAIL, with the identifier
and the origin; before that nothing happens. A folded context whose plot may be left comes in, PC and identity as
saved, and the one that leaves waits in its place with its context kept. (R328, R337, R329, R331, R334) -/
def Obligations.WatchdogParkingAndResidence : Prop :=
  ∀ (s : State), let a := s.evt.a
    (∀ l, s.launch? a = some l → l.id = a → let last := s.lastRestart l
      (s.tempo.toNat < last.toNat + 1000 * l.wdogUs → exec .watchdogExpiry s = .next s) ∧
      (l.wdogArmed = true → l.wdogUs ≠ 0 → l.wdogHeld = none → s.agentsWith (fun y => y.launch = l.id) ≠ [] →
        last.toNat + 1000 * l.wdogUs ≤ s.tempo.toNat → s.saving l = false →
        ∃ t l', exec .watchdogExpiry s = .next t ∧ t.launch? a = some l' ∧ l'.fault = true ∧ l'.wdogArmed = false ∧
          (l.fault = false → l'.cause = Cause.wdog.code) ∧
          (t.seqOf (hubAgent 0)).pend = queueRaise (s.seqOf (hubAgent 0)).pend { cause := .wdog, t0 := BitVec.ofNat 64 l.rcb, unit := 9 })) ∧
    (let q := s.seqOf a;
      (q.req.pending = true → q.req.since.toNat + 100000 ≤ s.tempo.toNat →
        ∃ t, exec .preemptionEscalation s = .next t ∧ t.seqOf a = { q with req := { q.req with escalated := true } } ∧
          (∀ b, b ≠ a → t.seqOf b = s.seqOf b) ∧ t.plots = s.plots) ∧
      (q.req.pending = false ∨ s.tempo.toNat < q.req.since.toNat + 100000 → exec .preemptionEscalation s = .next s)) ∧
    (∀ y, (s.plot a).actors.find? (·.id = s.evt.b) = some y → s.stopSet a ≠ [] → y.parked = false → s.mayPark a y (s.stopSet a) = true →
      exec .actorPark s = .next (s.setPlot a ((s.plot a).setActor { y with parked := true }))) ∧
    (∀ d l t, s.sched.drains.find? (·.id = a) = some d → s.launch? d.launch = some l → l.tracts[d.tract]? = some t →
      (s.drained t.plots = false → exec .drainComplete s = .next s) ∧
      (s.drained t.plots = true → ∃ u, exec .drainComplete s = .next u ∧ (∀ e ∈ u.sched.drains, e.id ≠ a) ∧
        (∀ c ∈ d.plots, (u.plot c).fallow = true) ∧ (∀ c, c ∉ d.plots → u.plot c = s.plot c) ∧ u.phys = s.phys ∧
        (u.seqOf (hubAgent d.core)).pend = queueRaise (s.seqOf (hubAgent d.core)).pend
          { cause := if d.foldfail then .foldfail else .preempt, t0 := BitVec.ofNat 64 d.id, t1 := BitVec.ofNat 64 d.origin, unit := 9 })) ∧
    (let p := s.plot a; let q := s.seqOf a; let mine := 2 ^ 60 + q.ctx.launch * 65536 + q.ctx.strandix;
      ∀ key next, p.folded[s.evt.b]? = some key → s.areas.find key = some next → p.engaged = false → s.canLeave a = true →
        (q.run = .idle → ∃ t, exec .residentSwitch s = .next t ∧ (t.seqOf a).pc = next.seq.pc ∧ (t.seqOf a).ctx = next.seq.ctx ∧
          t.areas.find key = none ∧ (t.plot a).folded = p.folded.filter (· != key)) ∧
        (∀ u y, q.run ≠ .idle → s.takeContext a = .ok (u, y) → mine ≠ key → ∃ t, exec .residentSwitch s = .next t ∧
          (t.seqOf a).pc = next.seq.pc ∧ (t.seqOf a).ctx = next.seq.ctx ∧ t.areas.find mine = some y ∧
          t.areas.find key = none ∧ (t.plot a).folded = p.folded.filter (· != key) ++ [mine]))

/-- An instruction of the vector classes traps NODP on a hub core and PORTPROT in supervisor mode. Otherwise, but for VQMX
with equal sinks and VDQMX with equal inputs (QMXBAD), VSCAN of an entry that is not valid (CARRYBAD) and VTOS: a
count register s0 without a port among the sources traps CFGBAD, as a count of 2^32 or more does; with its registers
readable and fewer than 16 actors in the unit it completes with one actor more, which has the scalar operands, the
rounding and the count of now, or with none where the count is 0; a full unit stalls. VARST and VAOUT fire once. VSCAN
takes the entry with it and clears its RST. VTOS issues its actor and waits, and once the actor has fired completes
with the element in its register, or traps POISON or LCCMIS. (R12, R14, R130, R133, R198, R205, R216, R217, R222,
R223) -/
def Obligations.VectorClassesIssue : Prop :=
  ∀ (i : Instr) (x : V) (s : State), vecOf i = some x → let c := s.cur; let p := s.plot c; let n := (s.reg x.count).toNat
    let actor : Actor := { id := 0, instr := i, pc := s.seq.pc, sv := [s.position x.a, s.position x.b, s.position x.c], rm := (if x.rnd = 4 then s.seq.rm else x.rnd.setWidth 2), left := (if x.count = 0 then none else some n) }
    let scan : Prop := ∃ y, i = .vscan y; let tos : Prop := ∃ y, i = .vtos y; let once : Prop := i = .varst x ∨ i = .vaout x
    let sound : Prop := (i = .vqmx x → x.dst ≠ x.c) ∧ (i = .vdqmx x → x.a ≠ x.b)
    let ready : Prop := Readable s (vRegs x) ∧ p.vecHeld < 16
    (¬ tos → isHub c = true → Traps (exec i s) s .nodp (encode i)) ∧
    (¬ tos → isHub c = false → s.seq.mode ≠ 0 → Traps (exec i s) s .portprot (encode i)) ∧
    (isHub c = false → s.seq.mode = 0 →
      (i = .vqmx x → x.dst = x.c → Traps (exec i s) s .qmxbad (encode i)) ∧
      (i = .vdqmx x → x.a = x.b → Traps (exec i s) s .qmxbad (encode i)) ∧
      (¬ scan → ¬ tos → ¬ once → sound →
        (x.count = 0 → vHasPort x i = false → Traps (exec i s) s .cfgbad (encode i)) ∧
        (x.count ≠ 0 → 2 ^ 32 ≤ n → Traps (exec i s) s .cfgbad (encode i)) ∧
        (x.count ≠ 0 ∨ vHasPort x i = true → n < 2 ^ 32 →
          (ready → exec i s = .next (if x.count ≠ 0 ∧ n = 0 then s else s.setPlot c (p.issue actor)).retire) ∧
          (Readable s (vRegs x) → 16 ≤ p.vecHeld → exec i s = .next s.stalledAt))) ∧
      (once → ready → exec i s = .next (s.setPlot c (p.issue { actor with left := some 1 })).retire) ∧
      (i = .vscan x →
        (p.carryEntry (scanEntry x) = none → Traps (exec i s) s .carrybad (encode i)) ∧
        (∀ e, p.carryEntry (scanEntry x) = some e → bits e 48 5 = x.ty.toNat → x.count ≠ 0 → 0 < n → n < 2 ^ 32 → ready →
          exec i s = .next (s.setPlot c (({ p with carry := p.carry.set (scanEntry x) { val := e &&& ~~~0x0100000000000000#64, tag := p.gen } }).issue
            { actor with sv := actor.sv ++ [e], aux := if e.getLsbD 56 then 1 else 0 })).retire)) ∧
      (i = .vtos x →
        (p.actors.find? (fun y => y.instr == .vtos x && y.pc == s.seq.pc) = none → ready →
          exec i s = .next (s.setPlot c (p.issue { actor with left := some 1 })).stalledAt) ∧
        (∀ y, p.actors.find? (fun y => y.instr == .vtos x && y.pc == s.seq.pc) = some y → let t := s.setPlot c (p.drop y.id)
          (y.fired = 0 → exec i s = .next s.stalledAt) ∧
          (y.fired ≠ 0 → (y.aux = 0 → Writes (exec i s) t (x.dst.extractLsb' 0 5) (y.sv.getD 0 0)) ∧
            (y.aux = 1 → Traps (exec i s) t .poison 0) ∧ (y.aux = 2 → Traps (exec i s) t .lccmis 0)))))

/-- For two elements of type I32: VADD, VSUB, VMUL, VABS and VNEG wrap modulo 2^32, and with .SAT VADD gives the exact sum
clamped to the type's range, ISAT telling that the clamp changed it; VMIN, VMAX and VCLAMP compare signed; VAND, VOR
and VXOR act bitwise; VSHL and VSHR shift in zeros, VSRA copies of the sign, for every amount up to 2^32 - 1; VCMPEQ,
VCMPLT and VCMPLE give all ones or zero; VSEL chooses by whether the mask element has a bit set. No flag is raised.
(R63, R208, R209, R210) -/
def Obligations.IntegerElementsCompute : Prop :=
  ∀ (x : V) (rm : BitVec 2) (a b c : BitVec 32), let f := fun (i : Instr) (sat : Bool) => elementOp i 0xA rm sat a.toNat b.toNat c.toNat
    let ok := fun (v : BitVec 32) => ((v.toNat, 0, false) : ElRes)
    f (.vadd x) false = ok (a + b) ∧ f (.vsub x) false = ok (a - b) ∧ f (.vmul x) false = ok (a * b) ∧ f (.vneg x) false = ok (-a) ∧
    f (.vabs x) false = ok (if a.slt 0 then -a else a) ∧
    f (.vadd x) true = (if a.toInt + b.toInt < -2 ^ 31 then (0x80000000, 0, true) else if 2 ^ 31 ≤ a.toInt + b.toInt then (0x7FFFFFFF, 0, true) else ok (a + b)) ∧
    f (.vmin x) false = ok (if b.slt a then b else a) ∧ f (.vmax x) false = ok (if a.slt b then b else a) ∧
    f (.vclamp x) false = ok (let y := if a.slt b then b else a; if c.slt y then c else y) ∧
    f (.vand x) false = ok (a &&& b) ∧ f (.vor x) false = ok (a ||| b) ∧ f (.vxor x) false = ok (a ^^^ b) ∧
    f (.vshl x) false = ok (a <<< b.toNat) ∧ f (.vshr x) false = ok (a >>> b.toNat) ∧ f (.vsra x) false = ok (a.sshiftRight b.toNat) ∧
    f (.vcmpeq x) false = ok (if a = b then -1 else 0) ∧ f (.vcmplt x) false = ok (if a.slt b then -1 else 0) ∧
    f (.vcmple x) false = ok (if b.slt a then 0 else -1) ∧ f (.vsel x) false = ok (if a ≠ 0 then b else c)

/-- While its plot is held or its unit's limit is reached no actor fires. A VADD of type I32 that is the only actor, with
a clean beat at the head of two different source ports and room on its sink port, takes both beats, puts the beat of
the 64 sums on the sink, and has fired once more, or has retired after its count of firings; where its residue
prediction fails twice the sums' beat is tagged. One without a count that meets an end token on both ports takes both,
puts an end token on the sink and retires. Every other port, register, plot and byte of memory stays. (R13, R14, R15,
R16, R17, R63, R185, R345, R347) -/
def Obligations.ActorsFireAndEnd : Prop :=
  ∀ (s : State) (y : Actor) (x : V), let c := s.evt.a; let P := s.plot c; let pa := inPort x.a; let pb := inPort x.b; let po := outPort x.dst
    (s.frozen c = true ∨ (P.rate 0 0).allows (s.cycleOf c) = false → exec .actorFiring s = .next s) ∧
    (s.frozen c = false → (P.rate 0 0).allows (s.cycleOf c) = true → P.actors = [y] → y.instr = .vadd x → y.parked = false → y.mis = false →
      x.ty = 0xA → x.mod = 0 → x.ge = 0 → x.a.toNat < 16 → x.b.toNat < 16 → x.dst.toNat < 16 → x.a ≠ x.b → 1 ≤ P.room po →
      let kept := fun t : State => t = { s with plots := t.plots } ∧ (∀ d, d ≠ c → t.plot d = s.plot d) ∧
        (∀ k, k ≠ pa → k ≠ pb → k ≠ po → (t.plot c).port k = P.port k) ∧ (t.plot c).stash = P.stash ∧ (t.plot c).va = P.va
      (∀ (ba bb : Beat) (ta tb : Tok) (la lb : List Tok), P.port pa = ta :: la → P.port pb = tb :: lb → ta.k = .data ba → tb.k = .data bb →
        ba.err = false → bb.err = false → ba.ws.length = 64 → bb.ws.length = 64 → (∀ w ∈ ba.ws ++ bb.ws, CW.check w = none) →
        (s.evt.ok2 = true → ∃ t b, exec .actorFiring s = .next t ∧ (t.plot c).port po = P.port po ++ [{ k := .data b, by_ := y.id }] ∧ b.err = true) ∧
        (s.evt.ok = false → s.evt.ok2 = false → ∃ t, exec .actorFiring s = .next t ∧ kept t ∧ (t.plot c).port pa = la ∧ (t.plot c).port pb = lb ∧
          (∃ r : Tok, (t.plot c).port po = P.port po ++ [r] ∧ r.by_ = y.id ∧ r.feeder = 0 ∧
            ∃ b : Beat, r.k = .data b ∧ b.err = false ∧ b.ws.length = 64 ∧
              ∀ k, k < 64 → b.ws.getD k CW.zero = CW.mk' ((ba.ws.getD k CW.zero).v + (bb.ws.getD k CW.zero).v)) ∧
          (t.plot c).actors = if y.left = some (y.fired + 1) then [] else [{ y with fired := y.fired + 1 }])) ∧
      (∀ (ta tb : Tok) (la lb : List Tok), P.port pa = ta :: la → P.port pb = tb :: lb → ta.k = .fin → tb.k = .fin → y.left = none →
        ∃ t, exec .actorFiring s = .next t ∧ kept t ∧ (t.plot c).port pa = la ∧ (t.plot c).port pb = lb ∧
          (t.plot c).port po = P.port po ++ [{ k := .fin, by_ := y.id }] ∧ (t.plot c).actors = []))

/-- On a plot in user mode with registers readable: AGBASE, AGLOOP, SLOOP, AGIDX and SRST complete with their generator's
state set, a count above 32 bits trapping CFGBAD; the address of beat f is the base plus each active level's counter
times its step. A stream command whose tag takes its bytes completes with the generator's state copied and SEQ
advanced by the number of beats, as one command more unless it has neither beats nor an end token; a full queue
stalls. SBAR leaves a marker only while an earlier kind is at work. A beat of SLD puts the words read in its port with
the generator as feeder, one of SST takes its beat from the sink and, in LOCAL space, stores its words; one whose
access faults stops the generator, whose record then holds the cause and the address. A replayed beat has the words
read again. (R15, R17, R30, R172, R173, R174, R175, R177, R178, R324, R347, R348) -/
def Obligations.StreamsConfigureIssueAndMove : Prop :=
  ∀ (x : D) (s : State), let c := s.cur; let p := s.plot c; let A := fun (k : BitVec 8) => p.agOf k.toNat
    let sets := fun (i : Instr) (rs : List (BitVec 5)) (g : AgGen) => Readable s rs → exec i s = .next (s.setPlot c (p.setAg x.a.toNat g)).retire
    let issues := fun (i : Instr) (g : Nat) (tag : BitVec 8) (rs : List (BitVec 5)) (fin : Bool) => let ag := p.agOf g; let b := ag.total
      b < 2 ^ 32 → Readable s rs → ∀ q : Plot, p.issueTag (encode i) (tagOf tag) (b * (4 * streamWords i)) = .ok q →
        ((p.genQueue g).length < 4 → exec i s = .next ((s.freshTag c (tagOf tag)).setPlot c (let q := q.setAg g { ag with sq := ag.sq + BitVec.ofNat 16 b }
          if b = 0 ∧ fin = false then q
          else q.issue { id := 0, instr := i, pc := s.seq.pc, sv := rs.map s.reg, left := some b, ag := ag, tag := tagOf tag })).retire) ∧
        (4 ≤ (p.genQueue g).length → exec i s = .next s.stalledAt)
    (isHub c = false → s.seq.mode = 0 →
      sets (.agbase x) [r5 x.b] { A x.a with base := s.reg (r5 x.b), act := 0, lim := 0, shift := 0, limen := false } ∧
      sets (.srst x) [] {} ∧
      (2 ^ 32 ≤ (s.reg (r5 x.c)).toNat → ∀ i ∈ [Instr.agloop x, .sloop x, .agidx x], Traps (exec i s) s .cfgbad (encode i)) ∧
      (∀ n, n < 2 ^ 32 → (s.reg (r5 x.c)).toNat = n →
        sets (.agloop x) [r5 x.c] ((A x.a).level x.b.toNat n (x.e.signExtend 64 <<< x.d.toNat)) ∧
        sets (.sloop x) [r5 x.c, r5 x.d] ((A x.a).level x.b.toNat n (s.reg (r5 x.d))) ∧
        sets (.agidx x) [r5 x.c] (if x.c = 0 then { A x.a with shift := x.b.toNat, limen := false }
          else { A x.a with shift := x.b.toNat, lim := n, limen := true })) ∧
      issues (.sld x) x.b.toNat x.c [] (x.e.getLsbD 1) ∧ issues (.sgath x) x.b.toNat x.c [] (x.e.getLsbD 1) ∧
      issues (.sst x) x.a.toNat x.c [] false ∧ issues (.sscat x) x.a.toNat x.c [] false ∧ issues (.sfill x) x.a.toNat x.c [r5 x.b] false ∧
      exec (.sbar x) s = .next (if p.sbarPending p.nextId (bits x.a 0 4) = true ∧ bits x.b 0 4 ≠ 0
        then s.setPlot c (p.issue { id := 0, instr := .sbar x, pc := s.seq.pc }) else s).retire) ∧
    (∀ (ag : AgGen) (l n : Nat) (st : Word), l < 4 → let y := ag.level l n st
      y.count l = n ∧ y.stepOf l = st ∧ y.base = ag.base ∧ ∀ m, m < 4 → m ≠ l → y.count m = ag.count m ∧ y.stepOf m = ag.stepOf m) ∧
    (∀ (ag : AgGen) (i0 i1 i2 i3 : Nat), i0 < ag.count 0 → i1 < ag.count 1 → i2 < ag.count 2 → i3 < ag.count 3 →
      ag.addr (i0 + ag.count 0 * (i1 + ag.count 1 * (i2 + ag.count 2 * i3))) = ag.base + BitVec.ofNat 64 i0 * ag.stepOf 0 +
        BitVec.ofNat 64 i1 * ag.stepOf 1 + BitVec.ofNat 64 i2 * ag.stepOf 2 + BitVec.ofNat 64 i3 * ag.stepOf 3) ∧
    (let a := s.evt.a; let g := s.evt.b; let P := s.plot a;
      ∀ y, (P.genQueue g).head? = some y → (P.recs.get {} g).live = false → y.parked = false → s.frozen a = false →
        P.streamBlocked y.id y.instr = false → P.turn y = true → (P.rate 2 g).allows (s.cycleOf a) = true →
        (y.instr = .sld x → y.fired < y.left.getD 0 → s.roomAt a x.a.toNat ≠ 0 → let loc := x.e.getLsbD 0; let n := beatWords x.d; let at_ := y.ag.addr y.fired
          (∀ ws u, s.beatRead a g y.id loc at_ n = .ok (ws, u) → ∃ t, exec .streamBeat s = .next t ∧
            (t.plot a).port x.a.toNat = (u.plot a).port x.a.toNat ++ [{ k := .data { ws := fullBeat ws, seq := y.ag.seqAt y.fired }, by_ := y.id, feeder := g }]) ∧
          (∀ r : Raise, (s.seqOf a).run ≠ .ended → r.cause ≠ .ownlost → s.beatRead a g y.id loc at_ n = .error (.trap r) → ∃ t, exec .streamBeat s = .next t ∧
            ((t.plot a).recs.get {} g).live = true ∧ ((t.plot a).recs.get {} g).cause = r.cause.code ∧ ((t.plot a).recs.get {} g).addr = r.t0 ∧
            { r with unit := 1 + g } ∈ (t.seqOf a).pend ∧ t.phys = s.phys)) ∧
        (∀ (tk : Tok) (rest : List Tok) (b : Beat), y.instr = .sst x → x.e.getLsbD 0 = true → P.port (16 + x.b.toNat) = tk :: rest → tk.k = .data b →
          (P.wiring x.b.toNat tk).kind = 4 → let n := beatWords x.d; let at_ := (y.ag.addr y.fired).toNat
          at_ % 4 = 0 → P.localFault y.id at_ (4 * n) = none → ∃ t, exec .streamBeat s = .next t ∧
            (∀ k, k < n → (t.plot a).word (at_ + 4 * k) = if b.err then CW.poison (b.word k).v else b.word k) ∧
            (∀ e, e / 4 * 4 < at_ ∨ at_ + 4 * n ≤ e → (t.plot a).word e = P.word e) ∧ (t.plot a).port (16 + x.b.toNat) = rest ∧ t.phys = s.phys)) ∧
    (let a := s.evt.a; let P := s.plot a;
      ∀ (tk : Tok) (rest : List Tok) (b : Beat) q addrs loc l, P.port s.evt.b = tk :: rest → P.replayable tk = true → tk.k = .data b →
        (P.replay.get [] tk.feeder).find? (·.1 == b.seq) = some (q, addrs, loc) → s.rereadBeat a tk.feeder addrs loc = some l →
        ∃ t b', exec .beatReplay s = .next t ∧ (t.plot a).port s.evt.b = { tk with k := .data b', feeder := 50 + tk.feeder } :: rest ∧
          b'.seq = b.seq ∧ b'.err = b.err ∧ (∀ k, k < 64 → b.word k ≠ CW.zero → b'.word k = l.getD k CW.zero) ∧ t.phys = s.phys)

/-- On a plot in user mode: a ROUTE to a sink completes and is the wiring of every token of later actors; a remote one
outside the strand's tract traps ROUTEBAD with the coordinate; ROUTE expect, RTAB, ACTRATE and CFGBLK complete with
their entries set. A token at the head of a sink leaves by its wiring: into the plot's own port if it has room, or,
once every receiver has room and the plot has the turn of its bus, one copy to each; without room nothing happens. A
delivered token stands last in its port, or, where the port expects another identifier, is discarded and ROUTEID
raised. BTGIVE of a bank whose token is held completes with the token leaving, of another traps BTOKBAD; it leaves
once earlier accesses are done and the giver's stores to its WINDOW ranges are performed, with its ranges written
back, and stands at its destination with them on arrival; BTTAKE completes when the token is held and stalls until
then. (R20, R21, R23, R24, R26, R31, R32, R128, R181, R182, R183, R185) -/
def Obligations.RoutesAndTokensTravel : Prop :=
  ∀ (x : D) (s : State), let c := s.cur; let p := s.plot c; let user := isHub c = false ∧ s.seq.mode = 0; let k := x.a.toNat
    let inTract := fun (d : Nat) => namesPlot d = true ∧ (match s.tractOf c with | some t => t.has d | none => d = c) = true
    (user →
      (∀ ik ∈ [(Instr.routeLocal x, 0), (.routeRemote x, 1), (.routeRank x, 2), (.routeFile x, 3), ((.routeHold x, 4) : Instr × Nat)],
        (ik.2 = 1 → inTract (bits x.e 0 12)) → exec ik.1 s = .next (s.setPlot c (p.wire k (routeWord x ik.2))).retire) ∧
      (¬ inTract (bits x.e 0 12) → exec (.routeRemote x) s =
        .next (s.takeFault { cause := .routebad, t0 := encode (.routeRemote x), t1 := BitVec.ofNat 64 (bits x.e 0 12) })) ∧
      exec (.routeExpect x) s = .next (s.setPlot c { p with expected := p.expected.set k (ridOf x) }).retire ∧
      ((bits x.c 0 4 = 1 → inTract (bits x.e 0 12)) →
        exec (.rtab x) s = .next (s.setPlot c { p with rtab := p.rtab.set k (routeWord x (bits x.c 0 4)) }).retire) ∧
      exec (.actrate x) s = .next (s.setPlot c { p with rates := p.rates.set k { k := x.b.toNat, m := x.c.toNat + 1 } }).retire ∧
      (let sh := cfgShape k; let m := x.d.toNat + 1; let a := s.reg (r5 x.b); let n := sh.2 * m; let ws := (List.range (n / 4)).map fun j => p.word (a.toNat + 4 * j);
        x.c.toNat + m ≤ sh.1 → a.toNat % 8 = 0 → Readable s [r5 x.b] → LocalOk s a.toNat n → consumeLocal a.toNat ws = .ok () →
        ∀ q, s.cfgEntries (encode (.cfgblk x)) k x.c.toNat sh.2 (fun j => (ws.getD (2 * j + 1) CW.zero).v ++ (ws.getD (2 * j) CW.zero).v) p m = .ok q →
          exec (.cfgblk x) s = .next (s.setPlot c q).retire) ∧
      (p.banks.get .held k = .held → inTract (bits x.e 0 12) → bits x.e 0 12 ≠ c → exec (.btgive x) s =
        .next (s.setPlot c { p with banks := p.banks.set k (.giving (bits x.e 0 12) p.nextId), nextId := p.nextId + 1 }).retire) ∧
      (p.banks.get .held k ≠ .held → Traps (exec (.btgive x) s) s .btokbad (BitVec.ofNat 64 k) ∧ exec (.bttake x) s = .next s.stalledAt) ∧
      (p.banks.get .held k = .held → exec (.bttake x) s = .next s.retire)) ∧
    (∀ sink r, ∀ t : Tok, p.nextId < t.by_ → (p.wire sink r).wiring sink t = r) ∧
    (let a := s.evt.a; let P := s.plot a; let sink := s.evt.b;
      ∀ (t : Tok) rest, P.port (16 + sink) = t :: rest → let r := P.wiring sink t
        (r.kind = 0 → s.roomAt a r.port ≠ 0 → r.port < 16 → ∃ u, exec .tokenSend s = .next u ∧ (u.plot a).port (16 + sink) = rest ∧
          (u.plot a).port r.port = P.port r.port ++ [{ t.routed r.rid with feeder := 4 + sink }]) ∧
        (r.kind = 0 → s.roomAt a r.port = 0 → exec .tokenSend s = .next s) ∧
        (r.kind ≠ 0 → let ds := s.receivers a r
          (ds ≠ [] → (∀ d ∈ ds, s.roomAt d r.port ≠ 0 ∧ s.withheld d r.port r.rid = false) → let w := s.busTurn a sink (busOf a r)
            exec .tokenSend s = .next (s.sendBus w.1 w.2 (busOf a r)) ∧ (w = (a, sink) → ∃ u fs, exec .tokenSend s = .next u ∧
              (u.plot a).port (16 + sink) = rest ∧ u.flight = s.flight ++ fs ∧ fs.map (·.dst) = ds ∧
              ∀ f ∈ fs, f.src = a ∧ f.port = r.port ∧ f.rid = r.rid ∧ f.tok.k = (t.routed r.rid).k)) ∧
          ((∃ d ∈ ds, s.roomAt d r.port = 0) ∨ ds = [] → exec .tokenSend s = .next s))) ∧
    (∀ f, s.flight[s.evt.a]? = some f →
      (f.bank = none → s.firstOfSink s.evt.a f = true → let want := (s.plot f.dst).expected.get 0 f.port
        (want = 0 ∨ want = f.rid → ∃ u, exec .tokenDelivery s = .next u ∧ u.flight = s.flight.eraseIdx s.evt.a ∧
          (u.plot f.dst).port f.port = (s.plot f.dst).port f.port ++ [f.tok]) ∧
        (want ≠ 0 → want ≠ f.rid → (s.seqOf f.dst).run ≠ .ended → ∃ u, exec .tokenDelivery s = .next u ∧ u.flight = s.flight.eraseIdx s.evt.a ∧
          u.plots = s.plots ∧ (u.seqOf f.dst).pend = (s.seqOf f.dst).pend ++
            [{ cause := .routeid, unit := 9, t0 := BitVec.ofNat 64 f.port, t1 := f.rid.setWidth 64, t2 := want.setWidth 64 }])) ∧
      (∀ b, f.bank = some b → ∃ u, exec .bankTokenArrival s = .next u ∧ (u.plot f.dst).banks.get .held b = .held ∧
        u.flight = s.flight.eraseIdx s.evt.a ∧ u.windows = s.windows ++ f.wins.map fun w => { w with owner := f.dst })) ∧
    (let a := s.evt.a; let P := s.plot a; let b := s.evt.b;
      ∀ dest since, P.banks.get .held b = .giving dest since →
        (P.bankBusy b since = true → exec .bankTokenSend s = .next s) ∧
        (P.bankBusy b since = false → let ids := s.heldBack a (s.windows.filter fun w => w.owner = a && touchesBank b (w.base, w.size))
          ∀ z, s.storesReach a 9 none ((s.view a).chosen ids) = .ok z →
            exec .bankTokenSend s = .next ((z.performAll a { scope := 1, episode := none, ids := ids, quiet := true }).sendBank a b dest))) ∧
    (∀ (z : State) (a b dest : Nat), let u := z.sendBank a b dest
      (u.plot a).banks.get .held b = .away ∧ (∀ v ∈ u.windows, ¬ (v.owner = a ∧ v.base / 0x20000 = b)) ∧ ∃ f, u.flight = z.flight ++ [f] ∧
        f.bank = some b ∧ f.dst = dest ∧ ∀ v ∈ f.wins, v.owner = a ∧ v.base / 0x20000 = b ∧ (0 < v.size → v.sectors = []))

/-- TDSET completes with the descriptor set. TLD, TLDA, TST, TADD, TCPY, CPYMM and CPY whose checks pass complete with one
operation more in the engine, which has the next number, the descriptor, the translations, the tag and its bytes;
CPYMM puts its matrix operation behind it in the same action; a CPY of no bytes completes at once. With 32 operations
in the engine they stall. The engine performs a TLD of a LOCAL tile as one: every word of the tile, row after row,
stands at its place in the stash range with its code, and the operation is gone. It performs a CPY between stash
ranges so that every destination word is the source word as it stood before, overlapping or not. An operation behind a
FENCE, or of a held strand, does not move. (R88, R89, R90, R91, R108, R159, R187, R188, R189, R190, R192, R193) -/
def Obligations.TilesAndCopiesOnTheEngine : Prop :=
  ∀ (x : D) (s : State), let c := s.cur; let p := s.plot c; let user := isHub c = false ∧ s.seq.mode = 0; let d := s.desc x.a.toNat; let tag := tagOf x.c
    let op := fun (i : Instr) (sv : List Word) (bytes : Nat) (ts : List Tlb) => ({ id := 0, instr := i, pc := s.seq.pc, sv := sv, tag := tag, bytes := bytes, pages := ts } : EngOp)
    let ends := fun (i : Instr) (o : EngOp) (q : Plot) => ∀ u, s.issueOp (encode i) o q = .ok u → exec i s = .next u.retire
    let fresh := fun (td : TileDesc) => s.seq.gstrict = true → td.inStash = true → td.staleAt p = none
    (∀ (word : Word) (o : EngOp) (q r : Plot), q.issueTag word o.tag o.bytes = .ok r → r.nextId = q.nextId →
      (r.ops.length < 32 → ∃ v : Plot, s.issueOp word o q = .ok ((s.freshTag c o.tag).setPlot c v) ∧ v.ops = r.ops ++ [{ o with id := q.nextId }] ∧
        v.nextId = q.nextId + 1 ∧ v.stash = r.stash ∧ v.actors = r.actors) ∧
      (32 ≤ r.ops.length → s.issueOp word o q = .error (.stall s.stalledAt))) ∧
    (user →
      (Readable s [r5 x.b, r5 x.c] → exec (.tdset x) s =
        .next (s.setPlot c { p with tds := p.tds.set x.a.toNat { w0 := s.reg (r5 x.b), w1 := s.reg (r5 x.c) } }).retire) ∧
      (∀ ts, let a := s.reg (r5 x.b); s.descCheck (encode (.tld x)) d (x.e.getLsbD 0) false anyFmt = .ok ts → Readable s [r5 x.b] → fresh d →
        s.stashRange a d.size = .ok () → s.framed d.fmt d.inStash (d.pages.zip ts) = .ok () →
        ends (.tld x) { op (.tld x) [a] d.size ts with td := d } p) ∧
      (∀ ts r, let w := encode (.tlda x); s.accOk w x.b.toNat = .ok () → s.descCheck w d (x.e.getLsbD 0) false (fun f => f = 0 || f = 0xA) = .ok ts →
        fresh d → d.rowBytes = 512 → s.needSlot w x.b.toNat p.nextId = .ok r →
        ends (.tlda x) { op (.tlda x) [] d.size ts with td := d, pos := if p.accSt x.b.toNat = .live then 1 else 0 }
          (r.makeLive x.b.toNat p.nextId (d.fmt = 0xA))) ∧
      (let acc := x.d.getLsbD 1; let named := if acc = true then p.nameAcc x.b.toNat p.nextId else p
        let q := if acc = true ∧ x.d.getLsbD 0 = true then named.release x.b.toNat p.nextId p.nextId else named
        (acc = false → Readable s [r5 x.b]) → (acc = true → x.b.toNat < s.seq.ctx.accs) →
        (∀ ts sv pos, s.descCheck (encode (.tst x)) d (x.e.getLsbD 0) true anyFmt = .ok ts → s.tileSource (encode (.tst x)) x d anyFmt = .ok (sv, pos) →
          ends (.tst x) { op (.tst x) sv d.size ts with td := d, pos := pos } q) ∧
        (∀ ts sv pos, s.descCheck (encode (.tadd x)) d (x.e.getLsbD 0) true anyFmt = .ok ts → d.w0.toNat % 4 = 0 → fresh d →
          (∀ y ∈ d.pages.zip ts, ptePub y.2.pte = false) → s.tileSource (encode (.tadd x)) x d (fun f => f = 0 || f = 0xA) = .ok (sv, pos) →
          ends (.tadd x) { op (.tadd x) sv d.size ts with td := d, pos := pos } q)) ∧
      (∀ ts td, let w := encode (.tcpy x); let src := s.desc x.b.toNat; s.descCheck w src (x.e.getLsbD 0) false anyFmt = .ok ts →
        s.descCheck w d (x.e.getLsbD 0) true anyFmt = .ok td → fresh src → src.rows = d.rows → src.rowBytes = d.rowBytes →
        ends (.tcpy x) { op (.tcpy x) [] d.size (ts ++ td) with td := d, td2 := src } p) ∧
      (∀ m ts r u, let w := encode (.cpymm x); mmaOf (.cpymm x) = some m → s.accOk w m.q = .ok () → aFormat m.fmt = true →
        s.descCheck w d (x.e.getLsbD 8) false (· = m.fmt) = .ok ts → s.framed m.fmt d.inStash (d.pages.zip ts) = .ok () →
        (mxCode m.fmt = true → (s.oneWindow ((d.pages.zip ts).map fun y => y.2.pa y.1)).any (·.fmt = m.fmt) = true) → fresh d → d.rowBytes = 256 → s.mmaChecks w m (d.rows * kpc m.fmt) = .ok () →
        s.needSlot w m.q (p.nextId + 1) = .ok r → p.matrixOps < 4 →
        s.issueOp w { op (.cpymm x) [] d.size ts with td := d, mma := some (p.nextId + 1) } p = .ok u → let v := u.plot u.cur
        exec (.cpymm x) s = .next (u.setPlot u.cur (v.addMma (.cpymm x) s.seq.pc m (d.rows * kpc m.fmt)
          { r with ops := v.ops, nextId := v.nextId, tagPend := v.tagPend, tagReady := v.tagReady, openBatch := v.openBatch, batches := v.batches })).retire) ∧
      (∀ ts td, let dst := s.reg (r5 x.a); let src := s.reg (r5 x.b); let n := (s.reg (r5 x.d)).toNat; dst.toNat % 4 = 0 → src.toNat % 4 = 0 →
        n % 4 = 0 → n < 2 ^ 32 → s.copyRange (x.e.getLsbD 1) src n 0 = .ok ts → s.copyRange (x.e.getLsbD 0) dst n 1 = .ok td →
        Readable s [r5 x.a, r5 x.b, r5 x.d] → (s.seq.gstrict = true → x.e.getLsbD 1 = true → p.anyStale src.toNat n = false) →
        (n = 0 → ∀ q, p.issueTag (encode (.cpy x)) tag 0 = .ok q → exec (.cpy x) s = .next (s.setPlot c q).retire) ∧
        (n ≠ 0 → ends (.cpy x) (op (.cpy x) [dst, src, BitVec.ofNat 64 n] n (ts ++ td)) p))) ∧
    (let a := s.evt.a; let P := s.plot a;
      ∀ o, P.ops.find? (·.id = s.evt.b) = some o →
        (P.opBlocked o.id = true ∨ s.frozen a = true → exec .tilePerform s = .next s ∧ exec .copyPerform s = .next s) ∧
        (∀ A, P.opBlocked o.id = false → s.frozen a = false → s.stashGone a = false → o.instr = .tld x → o.td.inStash = true → o.td.w0.toNat % 4 = 0 →
          o.sv = [BitVec.ofNat 64 A] → A % 4 = 0 → A + o.td.size ≤ 2 ^ 21 → let n := o.td.rowBytes / 4
          ∃ t, exec .tilePerform s = .next t ∧ (∀ k, k < o.td.size / 4 → (t.plot a).word (A + 4 * k) =
              P.word (o.td.rowAt (k / n) + BitVec.ofNat 64 (4 * (k % n))).toNat) ∧
            (∀ e, e / 4 * 4 < A ∨ A + o.td.size ≤ e → (t.plot a).word e = P.word e) ∧ (∀ y ∈ (t.plot a).ops, y.id ≠ o.id) ∧ t.phys = s.phys) ∧
        (∀ A B m, P.opBlocked o.id = false → s.frozen a = false → s.stashGone a = false → o.instr = .cpy x → x.e.getLsbD 0 = true → x.e.getLsbD 1 = true → o.pos = 0 →
          o.sv = [BitVec.ofNat 64 A, BitVec.ofNat 64 B, BitVec.ofNat 64 (4 * m)] → o.bytes = 4 * m → A % 4 = 0 → B % 4 = 0 →
          A + 4 * m ≤ 2 ^ 21 → B + 4 * m ≤ 2 ^ 21 → s.evt.c = 0 → ∃ t, exec .copyPerform s = .next t ∧
            (∀ k, k < m → (t.plot a).word (A + 4 * k) = P.word (B + 4 * k)) ∧ (∀ e, e / 4 * 4 < A ∨ A + 4 * m ≤ e → (t.plot a).word e = P.word e) ∧
            (∀ y ∈ (t.plot a).ops, y.id ≠ o.id) ∧ t.phys = s.phys))

/-- A COLL whose block reads clean and passes its checks completes with its operation in the engine and the strand among
the collective's participants. Sums of I32 elements are taken modulo 2^32, lost where an addend is. Once every
participant's results have landed the flips are scheduled, 1,000 ticks away or 2,000 on a pod-coherent page, and the
collective is done. When its time-out has run off, or a participant has failed, it is over, and one that timed out is
remembered. A HOLD or RELEASE flit at a port whose link is up holds the time-out for its participant or lets it go on;
a RESULT flit of status 2 or 3 makes the collective fail; a CONTRIBUTION to one that is not known is dropped. (R194,
R195, R196, R197, R343, R364, R365) -/
def Obligations.CollectivesJoinAndEnd : Prop :=
  ∀ (x : D) (s : State),
    (let c := s.cur; let w := encode (.coll x); let a := s.reg (r5 x.a);
      isHub c = false → s.seq.mode = 0 → a.toNat % 64 = 0 → ∀ t ws u b ts td tc v, s.translate c 0 a 0 = .ok t → s.popKind (t.pa a) ≠ 0 → s.popKind (t.pa a) ≠ 3 →
        s.readWords t a 64 true = .ok (ws, u) → u.consume t a (t.pa a) ws = .ok () → b = collBlk (ws.map (·.v)) → b.valuesOk = true → b.formatsOk = true →
        (b.hasDst = true → b.dst.toNat % 65536 = 0 ∧ (mxCode b.dfmt = true → b.dscale.toNat % 65536 = 0)) → (b.hasSrc = true → b.src.toNat % (fmtWidth b.sfmt / 8) = 0) →
        u.collPages b.src b.srcBytes 0 = .ok ts → u.collPages b.dst b.dstBytes 1 = .ok td → u.collPages b.dscale b.scaleBytes 1 = .ok tc →
        (∀ y ∈ td ++ tc, u.pubPage y = true) → (b.mode = 1 → u.fabric.collPath.getLsbD 0 = true ∧ (b.local_ = true ∨ u.fabric.collPath.getLsbD 1 = true)) →
        b.cid ∉ u.fabric.expired → (∀ q ∈ (u.fabric.colls.get default b.cid).parts, q.agent ≠ u.cur) → Readable u [r5 x.a] →
        let o : EngOp := { id := 0, instr := .coll x, pc := u.seq.pc, sv := [a, b.dst, BitVec.ofNat 64 b.dstBytes, b.src, b.dscale, BitVec.ofNat 64 b.cid, BitVec.ofNat 64 b.scaleBytes], tag := tagOf x.c, bytes := b.dstBytes + b.scaleBytes + 1, pages := (ts ++ td ++ tc).map (·.2) }
        let part : CollPart := { agent := v.cur, op := (u.plot u.cur).nextId, index := b.me, frames := ((td ++ tc).map fun y => frameOf (y.2.pa y.1)).eraseDups, pod := (td ++ tc).any fun y => ptePodc y.2.pte }
        u.issueOp w o (u.plot u.cur) = .ok v → exec (.coll x) s = .next ((v.joinColl b part).watchAccess a 64 false).retire) ∧
    (∀ (c : Coll) (z : CollSum) (i j : Nat) (e f : El), c.op < 2 → c.sfmt = 0xA →
      ((z.take c i e).take c j f).result c = (((z.sum + e.1 + f.1) % 2 ^ 32).toNat, z.bad || e.2 || f.2)) ∧
    (∀ c, s.fabric.colls.find s.evt.a = some c → c.cid = s.evt.a → let mine := c.parts.filter (·.here)
      (c.done = false → c.tmo ≠ 0 → (∀ q ∈ mine, q.sent = true ∧ q.received = true) → (∀ q ∈ mine, c.noDst q = false) → mine ≠ [] →
        (c.local_ = true → ∀ i, i < c.n → ∃ q ∈ mine, q.index = i) → (∀ f ∈ s.flips, ∀ k ∈ f.frames, ∀ q ∈ mine, k ∉ q.frames) →
        ∃ t, exec .collectiveSuccess s = .next t ∧ t.fabric.colls.find s.evt.a = some { c with done := true, parts := mine } ∧
          t.flips = s.flips ++ mine.map fun q => { frames := q.frames, tick := s.tempo + (if mine.any (·.pod) then 2000 else 1000), agent := q.agent, cid := some c.cid }) ∧
      (c.done = false → c.tmo = 0 → ∃ t, exec .collectiveTimeout s = .next t ∧ t.fabric.colls.find s.evt.a = none) ∧
      (∀ t0, c.done = false → c.tmo ≠ 0 → c.startAt = some t0 → 1000 * c.tmo ≤ c.used + (s.tempo - t0).toNat →
        ∃ t, exec .collectiveTimeout s = .next t ∧ t.fabric.colls.find s.evt.a = none ∧ s.evt.a ∈ t.fabric.expired) ∧
      (∀ t0, c.tmo ≠ 0 → c.startAt = some t0 → c.used + (s.tempo - t0).toNat < 1000 * c.tmo → exec .collectiveTimeout s = .next s)) ∧
    (let f := s.evt.flit; let l := knabryLink s.evt.a; let u := s.setLink l (s.link l);
      s.evt.a < 16 → s.portUp s.evt.a = true → (s.link l).replay = 0 →
        (∀ c, s.fabric.colls.find f.target = some c → c.local_ = false →
          (f.typ = 6 → exec .flitHold s = .next (u.setColl (c.hold s.tempo f.index))) ∧
          (f.typ = 7 → exec .flitRelease s = .next (u.setColl (c.letGo s.tempo f.index))) ∧
          (f.typ = 5 → f.status = 2 → c.done = false → exec .flitResult s = .next (u.setColl { c with tmo := 0 })) ∧
          (f.typ = 5 → f.status < 2 → c.done = false → exec .flitResult s = .next (u.takeResult c f)) ∧
          (f.typ = 4 → c.done = false → f.index < c.n → (∀ q ∈ c.parts, q.here = true → q.index ≠ f.index) →
            exec .flitContribution s = .next (u.takeContribution c f))) ∧
        (s.fabric.colls.find f.target = none → f.typ = 4 → exec .flitContribution s = .next u))

/-- On a plot in user mode, with the format accepted, the accumulator declared, registers readable, the checks of R236
passed and a slot for the accumulator, MMA and MMAZ complete with their operation in the matrix unit and the
accumulator live; MMAZ on a slot that is not FULL traps WEMPTY. AZERO, AREL, ASPILL, WREL, AMIRROR, ADRAIN, WLD and
CBLD complete with their marker, operation or fill in its queue, AREL with the accumulator released, WREL with the
slot EMPTY, WLD with it FILLING, CBLD with the codebook filled; nothing is left of a WREL of an EMPTY slot. An
operation whose turn it is takes the beat at its port, ends on an end token with LENMIS, and retires after its last;
an integer product is added modulo 2^32. A drain puts its beat on the sink. A spill, an AZERO marker, a CPYMM's start
and a fill take effect once nothing ahead of them is left. (R46, R47, R227, R230, R232, R233, R236, R237, R238, R239,
R242, R193) -/
def Obligations.MatrixUnitIssuesAndMoves : Prop :=
  ∀ (x : D) (s : State), let c := s.cur; let p := s.plot c; let q := x.a.toNat; let pc := s.seq.pc; let kk := (s.reg (r5 x.c)).toNat
    (isHub c = false → s.seq.mode = 0 →
      (∀ i m, i = .mma x ∨ i = .mmaz x → mmaOf i = some m → aFormat m.fmt = true → m.q < s.seq.ctx.accs → ¬ (mxCode m.fmt = true ∧ m.sc = m.port) →
        Readable s [r5 x.c] →
        (m.zero = true → (p.slot m.j).st ≠ 2 → Traps (exec i s) s .wempty (encode i)) ∧
        (∀ r, s.mmaChecks (encode i) m kk = .ok () → p.needSlot m.q p.nextId = .ok r →
          (p.matrixOps < 4 → exec i s = .next (s.setPlot c (p.addMma i pc m kk r)).retire) ∧ (4 ≤ p.matrixOps → exec i s = .next s.stalledAt))) ∧
      (∀ r, bits x.e 0 5 = 0 ∨ bits x.e 0 5 = 0xA → q < s.seq.ctx.accs → p.needSlot q p.nextId = .ok r → p.markers < 16 → exec (.azero x) s =
        .next (s.setPlot c ((r.makeLive q p.nextId (bits x.e 0 5 = 0xA)).issue
          { id := 0, instr := .azero x, pc := pc, aux := if p.accSt q = .live then 0 else 1 })).retire) ∧
      (q < s.seq.ctx.accs → p.markers < 16 → exec (.arel x) s =
        .next (s.setPlot c ((p.release q p.nextId p.nextId).issue { id := 0, instr := .arel x, pc := pc })).retire) ∧
      (q < s.seq.ctx.accs → p.accSt q ≠ .released →
        (p.inSlot q = false → exec (.aspill x) s = .next (s.setPlot c (p.nameAcc q p.nextId)).retire) ∧
        (p.inSlot q = true → p.spillPlace = none → Traps (exec (.aspill x) s) s .aspillf (encode (.aspill x))) ∧
        (∀ a, p.inSlot q = true → p.spillPlace = some a → p.markers < 16 → exec (.aspill x) s =
          .next (s.setPlot c (((p.spillTo q p.nextId a).nameAcc q p.nextId).issue { id := 0, instr := .aspill x, pc := pc })).retire)) ∧
      ((p.slot q).st = 0 → exec (.wrel x) s = .next s.retire) ∧
      ((p.slot q).st ≠ 0 → p.markers < 16 → exec (.wrel x) s = .next (s.setPlot c (({ p with wslots := p.wslots.set q { p.slot q with st := 0 } }).issue
        { id := 0, instr := .wrel x, pc := pc })).retire) ∧
      (p.markers < 16 → exec (.amirror x) s = .next (s.setPlot c (p.issue { id := 0, instr := .amirror x, pc := pc })).retire) ∧
      (let n := drainN x; let f := drainFmt x; let ks := (List.range n).map (q + ·);
        q + n ≤ s.seq.ctx.accs → (mxCode f = true → bits x.d 0 4 ≠ x.b.toNat) → (mxCode f = false → x.d = 0) →
        (x.c.getLsbD 6 = true → f = 4 ∨ 0xA ≤ f ∧ f ≤ 0xE) → (x.c.getLsbD 7 = true ∨ x.e &&& 0xFFE0#20 = 0) →
        (∀ k ∈ ks, (p.accSt k = .live ∧ drainOk (p.acc k).isInt f = true) ∨
          (p.accSt k = .unwritten ∧ s.seq.gstrict = false ∧ (drainOk false f = true ∨ drainOk true f = true))) → p.matrixOps < 4 →
        ∃ v y, exec (.adrain x) s = .next (s.setPlot c v).retire ∧ v.actors = p.actors ++ [y] ∧ y.id = p.nextId ∧ y.instr = .adrain x ∧
          y.left = some (n * drainBeats f) ∧ v.nextId = p.nextId + n + 1 ∧ v.stash = p.stash ∧ v.ports = p.ports ∧
          ∀ k ∈ ks, v.accSt k = if x.c.getLsbD 5 = true then .released else p.accSt k) ∧
      (let f := bits x.e 0 5; let loc := x.e.getLsbD 6; let k := s.depthOf x f; let a := s.reg (r5 x.b); let len := columnBytes f k; let w := encode (.wld x);
        ∀ ts u, weightFormat f = true → Readable s [r5 x.d, r5 x.b] → k ≠ 0 → k ≤ slotDepth f → (narrow f = true → k % 32 = 0) → a.toNat % 256 = 0 →
          s.imageCheck w loc a len = .ok ts → let l := (imagePages a len).zip ts; s.framed f loc l = .ok () →
          let named := if 6 ≤ f ∧ f ≤ 9 then (s.oneWindow (l.map fun y => y.2.pa y.1)).map (·.fmt) else none
          let W : WSlot := { p.slot q with st := 1, tag := p.gen, fmt := f, kw := k, wfmt := named, keep := x.e.getLsbD 5, src := a }
          s.issueOp w { id := 0, instr := .wld x, pc := pc, sv := [a], tag := tagOf x.c, bytes := imageBytes f k, pages := ts, pos := k }
            { p with wslots := p.wslots.set q W } = .ok u → exec (.wld x) s = .next u.retire) ∧
      (let m := x.c.toNat + 1; let a := s.reg (r5 x.a); let here : List CW := (List.range m).map fun k => p.word (a.toNat + 4 * k);
        let loads := fun (ws : List CW) (t : State) => (∀ w ∈ ws, w.v.toNat < 2 ^ 24) → let r := t.plot t.cur; r.markers < 16 →
          exec (.cbld x) s = .next (t.setPlot t.cur (({ r with cbTag := some r.gen }).issue
            { id := 0, instr := .cbld x, pc := pc, aux := if r.cbTag = some r.gen then 0 else 1, ws := ws.map fun w : CW => w.v })).retire
        x.b.toNat + m ≤ 256 → a.toNat % 4 = 0 → Readable s [r5 x.a] →
        (x.e.getLsbD 0 = true → LocalOk s a.toNat (4 * m) → consumeLocal a.toNat here = .ok () → loads here s) ∧
        (∀ ws t, x.e.getLsbD 0 = false → s.reachPages a (4 * m) 0 false = .ok () → s.loadWords a m = .ok (ws, t) → loads ws t))) ∧
    (∀ (fa fb : Nat) rows (old : BitVec 32) (u v : Lane), isIntFmt fa = true → (accumulate fa fb rows old u v).1 =
      old + BitVec.ofInt 32 ((u.vals.zip v.vals).map fun e => intOf fa e.1 * intOf fb e.2).sum) ∧
    (let a := s.evt.a; let P := s.plot a;
      ∀ y, P.matrixQueue.head? = some y →
        (∀ m, mmaOf y.instr = some m → s.matrixReady a y = true → y.started = true → m.fromOp = false → mxCode m.fmt = false →
          let u := s.setPlot a (P.setActor y)
          (y.left = some y.fired → exec .matrixStep s = .next (u.retireMma a y)) ∧
          (∀ tk rest, y.left ≠ some y.fired → P.port m.port = tk :: rest →
            (tk.k = .fin → exec .matrixStep s = .next (((u.modPlot a fun p => p.pop m.port).setLenmis a).retireMma a y)) ∧
            (∀ b, tk.k = .data b → P.awaitsReplay [tk] = false → exec .matrixStep s = .next (u.takeBeat a y m b none)))) ∧
        (∀ m, mmaOf y.instr = some m → m.fromOp = true → y.started = false → s.matrixReady a y = true → P.ops.any (fun o => o.mma == some y.id && o.landed) = true →
          exec .followOnMmaStart s = .next (s.setPlot a ((P.startMma y m).1.setActor (P.startMma y m).2))) ∧
        (∀ d, y.instr = .adrain d → s.matrixReady a y = true → d.c.getLsbD 7 = false → drainFmt d = 0 → P.room (16 + d.b.toNat) ≠ 0 →
          let t := y.fired / 256; let know := y.ws.getD t 0; let els := P.readAcc (d.a.toNat + t) (know.getLsbD 0)
          know.getLsbD 0 = false → know.getLsbD 1 = false → ∃ z, exec .drainFiring s = .next z ∧ (z.plot a).port (16 + d.b.toNat) = P.port (16 + d.b.toNat) ++
            [{ k := .data { ws := (drainBeat 0 false (d.c.getLsbD 6) els (y.fired % 256)).outs.getD 0 [] }, by_ := y.id }] ∧ z.phys = s.phys) ∧
        (∀ d, y.instr = .azero d → s.frozen a = false → P.accBusy y = false → P.spillsAhead y.id = false →
          exec .matrixMarkerEffect s = .next (s.setPlot a ((P.zeroAcc d.a.toNat (y.aux = 1)).drop y.id)))) ∧
    (let a := s.evt.a; let P := s.plot a;
      ∀ sp rest, P.spills = sp :: rest → (∀ y ∈ P.matrixQueue, sp.1 ≤ y.id) → ∃ t, exec .accumulatorSpill s = .next t ∧ (t.plot a).spills = rest ∧
        (t.seqOf a).spilled = true ∧ t.phys = s.phys) ∧
    (let a := s.evt.a; let P := s.plot a; let j := s.evt.b;
      ∀ o, P.ops.find? (fun o => fillOf o == some j) = some o → o.instr = .wld x → P.fillReady o j = true → s.frozen a = false → bits x.e 0 5 < 6 → x.e.getLsbD 6 = true →
        (P.wslots.get {} j).st = 1 → (P.wslots.get {} j).tag = P.gen → (∀ y ∈ P.ops, o.id < y.id → fillOf y ≠ some j) →
        let n := (columnBytes (bits x.e 0 5) o.pos + 3) / 4
        ∃ t, exec .weightFillComplete s = .next t ∧ ((t.plot a).wslots.get {} j).st = 2 ∧ ((t.plot a).wslots.get {} j).ws =
          (((numbered ((List.range 128).map fun m => (List.range n).map fun k => P.word (columnAt (o.sv.getD 0 0) m + BitVec.ofNat 64 (4 * k)).toNat)).flatMap
            fun nc => (numbered nc.2).map fun kw => (nc.1 * 64 + kw.1, kw.2)).filter fun kw => kw.2 != CW.zero) ∧ (∀ y ∈ (t.plot a).ops, y.id ≠ o.id))

/-- On a plot in user mode with registers readable and the operands accepted, ICFG, ISET, IWIRE, IUNWIRE, ISTREAM, IINJECT
and the port form of ILOAD complete with a marker in bank order, a seventeenth stalling; ISTREAM's setting holds at
once for later ISTEPs. ISTEP completes with its actor in the bank, traps CFGBAD where R255 says so, and stalls behind
two. With the bank's queue empty ISAMPLE writes the field it names, IFLAGS the mask of flags, clearing those selected,
ISAVE writes the image, ILOAD loads one. An increment and the residue add up to the residue before plus dX times Y,
the residue in its range, the increment clipped to 127. A step without ports in simultaneous order moves every
integrator from the state before it; a clip with IOVFEN ends the ISTEP, stops the bank and raises IOVF with the mask.
The markers configure, set, wire, inject and load their integrator. (R245, R246, R247, R248, R249, R251, R252, R254,
R255, R258, R259, R260) -/
def Obligations.IntegratorsIssueStepAndMove : Prop :=
  ∀ (x : D) (s : State), let c := s.cur; let p := s.plot c; let sa := s.reg (r5 x.a); let sb := s.reg (r5 x.b); let sc := s.reg (r5 x.c); let q0 := p.bankQueue
    let marks := fun (i : Instr) (rs : List (BitVec 5)) (sv : List Word) (f : Plot → Plot) => Readable s rs → let m := (q0.filter fun y => !isIstep y.instr).length;
      (m < 16 → exec i s = .next (s.setPlot c (f (p.issue { id := 0, instr := i, pc := s.seq.pc, sv := sv }))).retire) ∧ (16 ≤ m → exec i s = .next s.stalledAt)
    let fresh := fun (i : Nat) => s.seq.gstrict = true → p.staleInt i = false ∨ q0.any (writesInt · i) = true;
    (isHub c = false → s.seq.mode = 0 →
      (cfgFault sb = none → marks (.icfg x) [r5 x.b] [sb] id) ∧ (∀ k, cfgFault sb = some k → Readable s [r5 x.b] → Traps (exec (.icfg x) s) s k (encode (.icfg x))) ∧
      marks (.iset x) [r5 x.b, r5 x.c] [sb, sc] id ∧ (x.c.toNat ≠ 3 → marks (.iwire x) [] [] id) ∧ marks (.iunwire x) [] [] id ∧
      (bits x.d 0 5 ≤ 1 → 1 ≤ sc.toNat → sc.toNat ≤ 256 → marks (.istream x) [r5 x.b, r5 x.c] [] fun q =>
        { q with bank := { p.bank with son := true, sfmt := bits x.d 0 5, sport := x.a.toNat, smask := sb, sk := sc.toNat } }) ∧
      marks .istreamOff [] [] (fun q => { q with bank := { q.bank with son := false } }) ∧
      (fresh x.a.toNat → marks (.iinject x) [r5 x.c] [sc] id ∧ marks (.iinjectPort x) [] [] id) ∧ (bits x.d 0 5 ≤ 1 → marks (.iload x) [r5 x.b] [sb] id) ∧
      (let b := p.bank; let io := x.b.getLsbD 4 || x.c.getLsbD 4; let g := if b.son then Nat.max 1 b.sk else if io then 4 else 1; let n := sa.toNat;
        let bad : Prop := (x.a ≠ 0 ∧ (2 ^ 32 ≤ n ∨ n % g ≠ 0)) ∨ (b.son = true ∧ io = true ∧ b.sk % 4 ≠ 0) ∨ (x.a = 0 ∧ x.b.getLsbD 4 = false);
        Readable s [r5 x.a] → (bad → Traps (exec (.istep x) s) s .cfgbad (encode (.istep x))) ∧ (¬ bad → let m := (q0.filter fun y => isIstep y.instr).length;
          (2 ≤ m → exec (.istep x) s = .next s.stalledAt) ∧ (m < 2 → exec (.istep x) s = .next (if x.a ≠ 0 ∧ n = 0 then s else s.setPlot c (p.issue
            { id := 0, instr := .istep x, pc := s.seq.pc, sv := [b.smask], aux := g, ws := if b.son then [BitVec.ofNat 32 b.sport, BitVec.ofNat 32 b.sfmt] else [],
              left := if x.a = 0 then none else some (n / g) })).retire))) ∧
      (q0 = [] → (s.seq.gstrict = true → p.staleInt x.b.toNat = false) → let g := p.integ x.b.toNat
        Writes (exec (.isample x) s) s (r5 x.a) (if x.c = 0 then BitVec.ofInt 64 g.y else if x.c = 1 then BitVec.ofInt 64 g.res else if x.c = 2 then BitVec.ofInt 64 g.dz else g.cfg)) ∧
      (q0 = [] ∨ (p.bank.stopped = true ∧ ∀ y ∈ q0, isIstep y.instr = true) → Readable s [r5 x.b] → (s.seq.gstrict = true → ∀ i, i < 64 → p.staleInt i = false) →
        ∃ (q : Plot) (v : Word), exec (.iflags x) s = .next ((s.setPlot c q).setReg (r5 x.a) v).retire ∧ q = { p with ints := q.ints, bank := q.bank } ∧
          (∀ i, i < 64 → v.getLsbD i = (p.integ i).flagOf x.c.toNat ∧ q.integ i = if sb.getLsbD i then (p.integ i).clearFlag x.c.toNat else p.integ i) ∧
          q.bank = { p.bank with stopped := p.bank.stopped && (List.range 64).any fun i => (q.integ i).iovf && (q.integ i).cfg.getLsbD 20 }) ∧
      (q0 = [] → sa.toNat % 64 = 0 → Readable s [r5 x.a] → p.localFault p.nextId sa.toNat 1088 = none →
        (∃ q : Plot, exec (.isave x) s = .next (s.setPlot c q).retire ∧ q.word sa.toNat = CW.mk' 0x49470001 ∧
          (∀ i, i < 64 → let g := p.integ i; let k := sa.toNat + 64 + 16 * i;
            q.word k = CW.mk' (BitVec.ofInt 32 g.y) ∧ (q.word (k + 4)).v.extractLsb' 0 16 = BitVec.ofInt 16 g.res ∧ (q.word (k + 4)).v.extractLsb' 16 8 = BitVec.ofInt 8 g.dz ∧
            (q.word (k + 8)).v = g.cfg.extractLsb' 0 32 ∧ (q.word (k + 12)).v = g.cfg.extractLsb' 32 32) ∧ ∀ e, e / 4 * 4 < sa.toNat ∨ sa.toNat + 1088 ≤ e → q.word e = p.word e) ∧
        (let w := fun k : Nat => p.word (sa.toNat + 4 * k); let v := fun k : Nat => (w k).v;
          (s.seq.gstrict = true → p.anyStale sa.toNat 1088 = false) → consumeLocal sa.toNat ((List.range 272).map w) = .ok () → v 0 = 0x49470001 → v 1 &&& 0xFFFEF0C0 = 0 →
          (v 4).toNat < 65536 → (∀ k, k < 11 → v (5 + k) = 0) → (∀ i, i < 64 → (v (17 + 4 * i)).toNat < 2 ^ 26 ∧ cfgFault (v (19 + 4 * i) ++ v (18 + 4 * i)) = none) →
          ∃ q : Plot, exec (.iloadImage x) s = .next (s.setPlot c q).retire ∧ q = { p with ints := q.ints, bank := q.bank } ∧ q.bank.stopped = (v 1).getLsbD 16 ∧
            ∀ i, i < 64 → let k := 16 + 4 * i; q.integ i = { integOf (v k) (v (k + 1)) (v (k + 2)) (v (k + 3)) with tag := p.gen }))) ∧
    (∀ (g : Integ) (src : Nat → Int), let Q : Int := 2 ^ cfgE g.cfg; let u : Int := if cfgDxk g.cfg = 0 then 0 else if cfgDxk g.cfg = 1 then 1 else src (cfgDxsrc g.cfg)
      let dx := if g.cfg.getLsbD 21 then -u else u; let r := g.turn src;
      (dx = 0 → r = ({ g with dz := 0 }, false)) ∧ (dx ≠ 0 → ∃ raw : Int, r.1.res + raw * Q = g.res + dx * g.y ∧ -Q ≤ 2 * r.1.res ∧ 2 * r.1.res < Q ∧
        r.1.dz = (if 127 < raw then 127 else if raw < -127 then -127 else raw) ∧ r.2 = decide (127 < raw.natAbs) ∧ r.1.iovf = (g.iovf || r.2) ∧ r.1.y = g.y ∧ r.1.cfg = g.cfg)) ∧
    (let a := s.evt.a; let P := s.plot a; let G := P.integ; let y1 := fun (g : Integ) (v : Int) => let r := satW (cfgW g.cfg) v; { g with y := r.1, ysat := g.ysat || r.2 };
      (P.bank.stopped = true → exec .istepFiring s = .next s) ∧
      ∀ y, P.bankQueue.head? = some y → s.frozen a = false → y.parked = false →
        (∀ d, y.instr = .istep d → P.bank.stopped = false → P.turn y = true → (P.rate 3 0).allows (s.cycleOf a) = true → d.b.getLsbD 4 = false → d.c.getLsbD 4 = false →
          d.d.getLsbD 0 = false → y.ws = [] → y.aux = 1 → let T := fun i => (G i).turn fun j => (G j).dz; let clip := fun i => (T i).2 && (G i).cfg.getLsbD 20
          ∃ t, exec .istepFiring s = .next t ∧ (∀ i, i < 64 → (t.plot a).integ i = y1 (T i).1 ((G i).y +
              ((cfgInputs (G i).cfg).map fun z => (if z.neg then -1 else 1) * (if z.kind = 1 then (T z.index).1.dz else 0)).sum)) ∧
            (let stops := (List.range 64).any clip; (t.plot a).bank.stopped = stops ∧ (stops = true ∨ y.left = some (y.fired + 1) → ∀ z ∈ (t.plot a).actors, z.id ≠ y.id) ∧
              (stops = true → (s.seqOf a).run ≠ .ended → ∃ r ∈ (t.seqOf a).pend, r.cause = .iovf ∧ r.unit = 7 ∧ ∀ i, i < 64 → r.t0.getLsbD i = clip i)) ∧ t.phys = s.phys) ∧
        (let done := fun (i : Nat) (g : Integ) => exec .bankMarkerEffect s = .next (s.setPlot a ((P.setInt i g).drop y.id));
          (∀ d, y.instr = .icfg d → let v := y.sv.getD 0 0; let g := G d.a.toNat; done d.a.toNat (y1 { g with cfg := v, res := 0, dz := 0 } g.y)) ∧
          (∀ d, y.instr = .iset d → let g := G d.a.toNat; let r := clampRes (cfgE g.cfg) (y.sv.getD 1 0).toInt; let h := y1 g (y.sv.getD 0 0).toInt
            done d.a.toNat { h with res := r.1, ysat := h.ysat || r.2 }) ∧
          (∀ d, y.instr = .iinject d → done d.a.toNat (y1 (G d.a.toNat) ((G d.a.toNat).y + (y.sv.getD 0 0).toInt))) ∧
          (∀ d, y.instr = .iwire d → d.b.toNat ≤ 4 → d.c.toNat < 3 → d.d.toNat < 64 → let o := (G d.a.toNat).cfg; ∃ w : Word, done d.a.toNat { G d.a.toNat with cfg := w } ∧ bits w 0 12 = bits o 0 12 ∧
            (∀ j, j < 4 → cfgInput w j = if j = d.b.toNat then { kind := d.c.toNat, neg := d.e.getLsbD 0, index := d.d.toNat } else cfgInput o j) ∧
            (d.b.toNat < 4 → bits w 12 12 = bits o 12 12) ∧ (d.b.toNat = 4 → cfgDxk w = d.c.toNat ∧ cfgDxsrc w = d.d.toNat ∧ w.getLsbD 21 = d.e.getLsbD 0 ∧ w.getLsbD 20 = o.getLsbD 20)) ∧
          (∀ d, y.instr = .iunwire d → d.b.toNat ≤ 4 → ∃ w : Word, done d.a.toNat { G d.a.toNat with cfg := w } ∧ (d.b.toNat < 4 → (cfgInput w d.b.toNat).kind = 0) ∧ (d.b.toNat = 4 → cfgDxk w = 0)) ∧
          (∀ d, y.instr = .istream d ∨ y.instr = .istreamOff → exec .bankMarkerEffect s = .next (s.setPlot a (P.drop y.id))) ∧
          (∀ d (tk : Tok) (rest : List Tok) (b : Beat), P.turn y = true → tk.k = .data b → b.err = false → P.awaitsReplay [tk] = false →
            (y.instr = .iinjectPort d → P.port d.c.toNat = tk :: rest → CW.check (b.word d.d.toNat) = none → ∃ t, exec .bankMarkerEffect s = .next t ∧
              (t.plot a).integ d.a.toNat = y1 (G d.a.toNat) ((G d.a.toNat).y + (b.word d.d.toNat).v.toInt) ∧ (t.plot a).port d.c.toNat = rest ∧ t.phys = s.phys) ∧
            (y.instr = .iload d → P.port d.a.toNat = tk :: rest → let f := bits d.d 0 5; let sel := y.sv.getD 0 0;
              (∀ i, i < 64 → sel.getLsbD i = true → CW.check (laneOf f i b).2 = none) → ∃ t, exec .bankMarkerEffect s = .next t ∧ (t.plot a).port d.a.toNat = rest ∧ t.phys = s.phys ∧
              ∀ i, i < 64 → (t.plot a).integ i = if sel.getLsbD i then ((G i).loadLane f (laneOf f i b).1).1 else G i))))

/-- The rectangle chosen for a tract is free and the lowest of its acre. A scheduler decision of a ready module first
keeps the headland tracts, unless a head reserves; where one queue waits, its head eligible, the head is placed where
it fits, its queue given just enough quanta for a positive DEFICIT; a head that fits nowhere, or is not eligible,
stays. Aging steps come every 10 ms. STRAND_RELEASE loads the tract and marks it released, or fails the launch with
LAUNCHBAD; a strand loaded starts at its entry under the next generation, its stash and tags kept (zeroed before a
generation would reach 0xFF00), with s1 to s3 the arguments, its index and the tract's shape; a warm one keeps the
code it finds. Ranks start one every 64 cycles. Held strands are released with HOLDCHILD. A launch retires once every
strand has ended: STATUS, what it held given back, plot-time off DEFICIT, its plots idle; then its output events, and
it is gone. An idle headland plot at GEN 0xFE00 is scrubbed. A sample that is due charges the one launch of an acre;
at the boundary of a node's period EUSED loses EQUOTA for each period and OVERDRAFT becomes EUSED, and requests for
quotas no longer exhausted are withdrawn. (R35, R36, R39, R44, R289, R300, R301, R303, R305, R317, R321, R393) -/
def Obligations.LaunchesArePlacedStartAndRetire : Prop :=
  ∀ (s : State), let a := s.evt.a; let b := s.evt.b;
    (∀ taken acres nr nf t, findRect taken acres (nr, nf) = some t → t.acre ∈ acres ∧ t.nr = nr ∧ t.nf = nf ∧ t.rank + nr ≤ 16 ∧ t.file + nf ≤ 8 ∧ (∀ c ∈ t.plots, c ∉ taken) ∧
      ∀ r f, r + nr ≤ 16 → f + nf ≤ 8 → r < t.rank ∨ (r = t.rank ∧ f < t.file) → ∃ c ∈ ({ t with rank := r, file := f } : Tract).plots, c ∈ taken) ∧
    (s.power.ready = false → exec .schedulerDecision s = .next s) ∧
    (∀ x, s.power.ready = true → let ok := fun (z : State) (y : Launch) => z.inputsReady y && (z.exhausted? y.queue).isNone
      let k := if ((s.heads a).filter (ok s)).any s.reserving then s else (s.metQueues a).foldl State.keepHeadlands s
      k.heads a = [x] → let d := k.deficit x.queue; let n := k.quantum x.queue; let u := k.setDeficit x.queue (d + ((if 0 < d then 0 else d.natAbs / n + 1 : Nat) : Int) * n);
      (ok k x = false → exec .schedulerDecision s = .next k) ∧
      (ok k x = true → 0 < u.deficit x.queue →
        (u.placement x = none → exec .schedulerDecision s = .next k) ∧
        (∀ pl h maps v, u.placement x = some pl → u.mapsOf x = .ok (h, maps) → u.logPlacement x pl.2.2.2.1 = some v →
          ∃ t, exec .schedulerDecision s = .next t ∧ t = v.start x pl (fullShapes maps pl.1) (k.effPrio x) ∧ ∀ l, (v.sampleTracts pl.2.2.2.1).launch? x.id = some l →
            t.launch? x.id = some { l with mapping := pl.1, tracts := pl.2.2.2.1, placedAt := some t.tempo, warm := pl.2.2.2.2, full := fullShapes maps pl.1, plotsHeld := if pl.2.2.2.2 then 0 else pl.2.1.plots, stashHeld := pl.2.2.1 }))) ∧
    (s.tempo.toNat < s.sched.lastAging.toNat + 10000000 → exec .agingStep s = .next s) ∧
    (s.sched.lastAging.toNat + 10000000 ≤ s.tempo.toNat → exec .agingStep s = .next ((((s.sched.launches.map (·.2)).map (·.part)).eraseDups).foldl
      (fun u p => u.schedule p) (s.modSched fun c => { c with lastAging := s.tempo }))) ∧
    (∀ l t, s.launch? a = some l → l.id = a → l.tracts[b]? = some t →
      (t.released = false → l.stopAll = false → t.drain = none →
        (∀ e, s.loadTract l b = .error e → exec .strandRelease s = .next (s.failLaunch a .launchbad)) ∧
        (∀ u, s.loadTract l b = .ok u → ∃ v, exec .strandRelease s = .next v ∧ (∀ l1, u.launch? a = some l1 → v.launch? a = some { l1 with
          tracts := setAt l1.tracts b fun t => { t with released := true, relAt := u.tempo, ranksUp := 0 }, wdogAt := u.tempo, wdogArmed := true, wdogUs := u.effWdog l1.rcb }) ∧
          v.seqs = u.seqs ∧ v.plots = u.plots ∧ v.phys = u.phys)) ∧
      (let now := t.released = true ∧ t.ranksUp < t.nr ∧ 64 * t.ranksUp ≤ (s.tempo.toNat - t.relAt.toNat) * (s.acre t.acre).point / 10
        let seat := fun f => coordOf t.acre (t.rank + t.ranksUp) (t.file + f);
        (¬ now → exec .rankStart s = .next s) ∧ (now → ∃ v, exec .rankStart s = .next v ∧ (∀ f, f < t.nf → (v.plot (seat f)).started = true) ∧
          (∀ c, (∀ f, f < t.nf → c ≠ seat f) → v.plot c = s.plot c) ∧ v.seqs = s.seqs ∧
          v.launch? a = some { l with tracts := setAt l.tracts b fun t => { t with ranksUp := t.ranksUp + 1 } }))) ∧
    (∀ l m h x handler ix t, s.loadStrand l m h x handler ix = .ok t → ix % 2 ^ x.frac = 0 → let seat := x.seat ix; let full := locate l.full 0 ix
      let tr := l.tracts.getD seat.1 { acre := 0, rank := 0, file := 0, nr := 1, nf := 1 }; let c := tr.plots.getD seat.2 0; let p := s.plot c; let q := t.seqOf c; let sh := l.full.getD full.1 (1, 1)
      ∃ st ds ws, s.imgStrand m h x ix = .ok st ∧ s.imgDecls m st = .ok ds ∧ s.strandCode m st l.tracts seat.1 handler.1 = .ok ws ∧
        (t.plot c).code = (if l.warm then p.code else numbered ws) ∧ (l.warm = false → (t.plot c).codeLen = 8 * ws.length) ∧
        (t.plot c).started = false ∧ q.pc = BitVec.ofNat 64 st.entry ∧ q.mode = 0 ∧ q.run = (if l.holdchild then .held else .running) ∧
        (p.gen.toNat + 1 < 0xFF00 → (t.plot c).gen = p.gen + 1 ∧ (t.plot c).stash = p.stash ∧ ∀ k, 3 < k → q.regs.find k = (s.seqOf c).regs.find k) ∧
        (0xFF00 ≤ p.gen.toNat + 1 → (t.plot c).gen = 1 ∧ (t.plot c).stash = [] ∧ ∀ k, 3 < k → q.regs.find k = none) ∧ let g := (t.plot c).gen
        q.regs.find 1 = some { val := l.args, tag := g } ∧ q.regs.find 2 = some { val := BitVec.ofNat 64 ix, tag := g } ∧
        q.regs.find 3 = some { val := BitVec.ofNat 64 (sh.1 * 256 + sh.2), tag := g } ∧ t.view c = { snap := (s.walkArgs l ds).coherent }) ∧
    (∃ t, exec .holdchildRelease s = .next t ∧ t.launch? a = (s.launch? a).map (fun l => { l with holdchild := false }) ∧ t.plots = s.plots ∧ t.phys = s.phys ∧
      let held := (s.agentsWith fun c => c.launch = a).filter fun c => (s.seqOf c).run == .held;
      (∀ c ∈ held, (t.seqOf c).run = .running ∧ (t.seqOf c).pc = (s.seqOf c).pc) ∧ ∀ c, c ∉ held → t.seqOf c = s.seqOf c) ∧
    (∀ l, s.launch? a = some l → l.id = a → (l.retiring = true → exec .launchRetirement s = .next (s.endLaunch l)) ∧
      (l.retiring = false → s.finished l = false → exec .launchRetirement s = .next s) ∧
      (l.retiring = false → s.finished l = true → s.untaken l = none → let plots := l.tracts.flatMap Tract.plots; let us := (s.tempo.toNat - (l.placedAt.getD s.tempo).toNat) / 1000
        let clash := (s.det.any fun kd => kd.1 / 16 = a && detClash kd.2); let l1 : Launch := { l with residue := s.hasResidue a plots, detconf := l.detconf || clash }
        let u := (s.modLaunch a fun _ => l1).sampleTracts l.tracts; let w := ({ u with phys := u.phys.putDword (l.record + 0x60) l1.status } : State).giveBack l1
        let z := ((w.setDeficit l.queue (w.deficit l.queue - (plots.length * us : Nat))).clearPlots l1).modLaunch a fun l => { l with retiring := true, tracts := [], plotsHeld := 0, stashHeld := 0 }
        exec .launchRetirement s = .next (z.endLaunch l1) ∧ (∀ k x, z.areas.find k = some x → x.seq.ctx.launch ≠ a) ∧
          ∀ c ∈ plots, (w.seqOf c).ctx.launch = a → (z.seqOf c).run = .idle ∧ (z.seqOf c).regs = (w.seqOf c).regs ∧ (z.plot c).ports = [] ∧ (z.plot c).gen = (w.plot c).gen ∧ (z.plot c).stash = (w.plot c).stash) ∧
      ∀ z : State, let r := z.outputEvents l l.outev
        (r.2 = [] → (z.endLaunch l).launch? a = none) ∧ (r.2 ≠ [] → ∀ l2, r.1.launch? a = some l2 → (z.endLaunch l).launch? a = some { l2 with outev := r.2 })) ∧
    (let idle := s.sched.headlands.any (fun h => h.busy.isNone && h.tract.has a) && 0xFE00 ≤ (s.plot a).gen.toNat;
      (idle = false → exec .headlandScrub s = .next s) ∧ (idle = true → ∃ t, exec .headlandScrub s = .next t ∧ (t.plot a).gen = 0 ∧ (t.plot a).stash = [] ∧ (t.plot a).va = [] ∧
        (t.plot a).accs = [] ∧ (t.plot a).code = (s.plot a).code ∧ t.seqOf a = { s.seqOf a with regs := [] } ∧ (∀ c, c ≠ a → t.plot c = s.plot c ∧ t.seqOf c = s.seqOf c))) ∧
    (let u := s.setAcre a { s.acre a with energy := (s.acre a).energy + b, meter := (s.acre a).meter + b };
      exec .energySample s = .next (if u.sampleDue a then u.sampleAcre a else u) ∧ ∀ (z : State) (k : Nat), let t := z.sampleAcre k; let nj := 1000 * (z.acre k).meter;
        (t.acre k).meter = 0 ∧ (t.acre k).energy = (z.acre k).energy ∧ (t.acre k).lastSampleAt = z.tempo ∧ (z.launchesOn k = [] → t.phys = z.phys) ∧
        (∀ l, z.launchesOn k = [l] → t.phys = ((z.modLaunch l.id fun l => { l with energyNj := l.energyNj + nj }).chargePath l.rcb nj).phys)) ∧
    (∀ (z : State) c n, c ∈ z.agentsWith (fun _ => true) → let q := z.seqOf c
      (q.run ≠ .ended → q.run ≠ .failed → q.req.quota = none → (∀ r ∈ q.pend, r.cause ≠ .equota) → z.exhausted? q.ctx.rcb = some n → (z.askQuota.seqOf c).req.quota = some n) ∧
      (q.req.quota = some n → z.exhaustedNode n = false → (z.forgiveQuota.seqOf c).req.quota = none)) ∧
    (exec .quotaPeriodBoundary s = .next s.quotaBoundary ∧ ((∀ kw ∈ s.sched.nodes, s.periodOver kw.1 kw.2 = false) →
        s.quotaBoundary = s.modSched fun c => { c with nodes := c.nodes.map fun kw => (kw.1, s.tempo) }) ∧
      ∀ r last, let period := s.rcb (s.eff r 8) 0x30 4 * 1000000; let m := s.tempo.toNat / period - last.toNat / period; let nj := s.sched.contexts.get 0 r - m * (s.rcb (s.eff r 8) 0x2C 4 * 1000000)
        period ≠ 0 → m ≠ 0 → let t := s.newPeriods r last
          t.sched.contexts.get 0 r = nj ∧ t.seqs = s.seqs ∧ (nj < 2 ^ 32 * 1000000 → t.rcb r 0xD4 4 = nj / 1000000 ∧ t.rcb r 0xD8 4 = nj / 1000000))

/-- A reply echoes the cookie; NOREPLY asks for none. Link up, link down and the sixteenth FEC failure of a millisecond
set the port, the latter two raising NETERR. HELLO with version 1 on offer opens the session, else VERNEG. A message
of an open session with a bad header is answered HOSTMSG; a good one acts, after its waits if it has FENCE: launches,
events, queries and management are answered as R358 says, a query whose words fail their check POISON; a copy whose
pages fail is answered with the cause, one that goes through brings the words in or sends the words read. The journal
takes its oldest report as entry W with CHAIN, or drops it when full and raises JRNLOVF once; a core's eighth
doubleword submits. GAMBIT of a good block starts a trial, STOP ends it; its windows alternate, and its end raises
GAMBITEND. The registers of hub space, dumps, the warning and the stop of the tempo, and its alignment take effect.
(R285, R344, R351, R352, R354, R356, R357, R358, R359, R374, R375, R376) -/
def Obligations.HostAndObservationActions : Prop :=
  ∀ (x : SC) (s : State), let a := s.evt.a; let b := s.evt.b; let ev := s.evt; let sup := hubAgent 0
    let no := fun (i : Instr) (c : Cause) => exec i s = .next (s.reply (some c) [])
    let answers := fun (i : Instr) (pa n : Nat) => let ws := (List.range n).map fun k => s.homeWord 65536 0 (pa + 4 * k);
      (firstBad 0 ws = none → exec i s = .next (s.reply none (ws.map CW.v))) ∧
      (∀ k c, firstBad 0 ws = some (k, c) → exec i s = .next ((s.report 0x2000 0x06 1 c.code (BitVec.ofNat 64 (pa + 4 * k))).reply (some .poison) []));
    (∀ (u : State) c body, u.reply c body = if u.evt.hdr.flags.getLsbD 1 then u else { u with host := { u.host with replies := u.host.replies ++
      [{ session := u.evt.a, kind := u.evt.hdr.kind ||| 0x80, status := match c with | some k => k.code.setWidth 16 | none => 0, cookie := u.evt.hdr.cookie, body := body }] } }) ∧
    (let l := etherLink a; let k := s.link l;
      (a < 2 → b = 8 ∨ b = 4 → exec .ethernetLinkUp s = .next (s.setLink l { k with st := 0, width := b, fecFails := 0, winAt := s.tempo, raised := false })) ∧
      (a < 2 → k.st ≠ 3 → let raises := fun n : Nat => queueRaise (s.seqOf sup).pend { cause := .neterr, t0 := BitVec.ofNat 64 a, t1 := BitVec.ofNat 64 n, unit := 9 };
        (b = 1 → ∃ t, exec .neterr s = .next t ∧ t.link l = { k with st := 3 } ∧ (t.seqOf sup).pend = raises 1) ∧
        (b = 2 → s.tempo.toNat < k.winAt.toNat + 1000000 → (k.fecFails = 15 → k.raised = false → ∃ t, exec .neterr s = .next t ∧ (t.seqOf sup).pend = raises 2) ∧
          (k.fecFails < 15 → exec .neterr s = .next (s.setLink l { k with fecFails := k.fecFails + 1 }))))) ∧
    (messageOk ev 6 [4] = true → s.power.ready = true → a < 512 →
      ((ev.body.getD 0 0).getLsbD 1 = true → exec .gyordHello s = .next (({ s with host := { s.host with sessions := s.host.sessions.set a { part := b, isRoot := ev.ok } } } : State).reply none [1])) ∧
      ((ev.body.getD 0 0).getLsbD 1 = false → exec .gyordHello s = .next ((s.raiseSup .verneg (BitVec.ofNat 64 a) ((ev.body.getD 0 0).setWidth 64)).reply (some .verneg) []))) ∧
    (messageOk ev 6 [4] = false → no .gyordHello .hostmsg) ∧
    (s.host.sessions.find a = none → ∀ i ∈ [Instr.gyordLaunch, .gyordEventSig, .gyordEventWait, .gyordEventRead, .gyordQueryLaunch, .gyordQueryRcb, .gyordManagement, .gyordCopy], no i .hostmsg) ∧
    (∀ q, s.host.sessions.find a = some q → let goes := ev.hdr.flags.getLsbD 0 = false ∨ q.waits = []; let e1 := s.hostSlot q (bodyWord ev 1); let v := bodyWord ev 2;
      (¬ goes → ∀ i ∈ [Instr.gyordLaunch, .gyordEventSig, .gyordEventWait, .gyordEventRead, .gyordQueryLaunch, .gyordQueryRcb, .gyordManagement, .gyordCopy], exec i s = .next s) ∧
      (goes → (messageOk ev 1 [128] = false → no .gyordLaunch .hostmsg) ∧ (messageOk ev 2 [32, 40] = false → no .gyordCopy .hostmsg) ∧
        (messageOk ev 1 [128] = true → let pa := Config.recordBase + 128 * (s.sched.nextLaunch % 0x100000); let z := s.meet (recNum ev.body 0x18 8); let r := z.checkLaunch (if q.isRoot then 0 else q.part) pa ev.body false;
          (z.contextRoom = false → exec .gyordLaunch s = .next (z.reply (some .budget) [])) ∧ (z.contextRoom = true → ∀ c, r = .error c → exec .gyordLaunch s = .next (z.reply (some c) [])) ∧
          (∀ l t id u, z.contextRoom = true → r = .ok l → (z.putRecord pa ev.body).enqueue l = some (t, id) → t.decide id 1 0xFFFF (BitVec.ofNat 64 a) ev.hdr.cookie = .free u →
            exec .gyordLaunch s = .next (u.reply none [BitVec.ofNat 32 id]))) ∧
        (messageOk ev 3 [12] = true → bodyWord ev 0 ≤ 2 → let op := bodyWord ev 0;
          (e1 = none → (op = 0 → no .gyordEventSig .evname) ∧ (op = 1 → no .gyordEventWait .evname) ∧ (op = 2 → no .gyordEventRead .evname)) ∧
          (∀ e, e1 = some e → (op = 2 → exec .gyordEventRead s = .next (s.reply none [BitVec.ofNat 32 e.count])) ∧
            (op = 1 → (v ≤ e.count → exec .gyordEventWait s = .next (s.reply none [BitVec.ofNat 32 e.count])) ∧
              (e.count < v → 1024 ≤ q.waits.length → no .gyordEventWait .evfull) ∧
              (e.count < v → q.waits.length < 1024 → ev.hdr.flags.getLsbD 1 = false → exec .gyordEventWait s = .next { s with host := { s.host with
                sessions := s.host.sessions.set a { q with waits := q.waits ++ [(e.name, v, ev.hdr.cookie)] } } })) ∧
            (op = 0 → (∀ l, s.launch? (e.launch.getD 0) = some l → s.effRep l.rcb = false ∧ s.effRec l.rcb = false) →
              exec .gyordEventSig s = .next ((s.signal e v).reply none [BitVec.ofNat 32 ((e.count + v) % 2 ^ 32)])))) ∧
        (messageOk ev 4 [16] = true → bodyWord ev 1 = 0 → let n := (bodyDword ev 2).toNat;
          (bodyWord ev 0 = 0 → (s.sched.records.find n = none → no .gyordQueryLaunch .hostmsg) ∧ (∀ pa part, s.sched.records.find n = some (pa, part) →
            (q.isRoot = true ∨ part = q.part → answers .gyordQueryLaunch (pa + 0x60) 2) ∧
            (q.isRoot = false → part ≠ q.part → no .gyordQueryLaunch .priv))) ∧
          (bodyWord ev 0 = 1 → s.queueOk n = true →
            (q.isRoot = true ∨ s.partitionOf n = q.part → answers .gyordQueryRcb n 64) ∧
            (q.isRoot = false → s.partitionOf n ≠ q.part → no .gyordQueryRcb .priv))) ∧
        (messageOk ev 5 [ev.hdr.len.toNat] = true → (q.isRoot = false → no .gyordManagement .priv) ∧
          (q.isRoot = true → exec .gyordManagement s = .next (s.raiseSup .hostmsg (BitVec.ofNat 64 a) 5))) ∧
        (messageOk ev 2 [32] = true → bodyWord ev 0 ≤ 1 → bodyWord ev 1 = 0 → let dir := bodyWord ev 0; let va := bodyDword ev 2; let n := bodyWord ev 7; let pages := s.hostPages q.part va n (1 - dir);
          4 ≤ n → n % 4 = 0 → (∀ c, pages = .error c → no .gyordCopy c) ∧ (∀ l u w, pages = .ok (l, u) →
            u.reachAll sup 10 (u.hostAccesses l va n (if dir = 0 then some (pieces va (copiedWords ev n)) else none)) = .ok w →
              exec .gyordCopy s = .next (if dir = 0 then w.copyIn l (pieces va (copiedWords ev n)) none else w.copyOut l va n none))))) ∧
    (∀ (w : State) l va n ps, w.evt.ok2 = false → w.copyIn l ps none = (ps.foldl (fun z y => z.hostWrite l y) w).reply none [] ∧
      (let ws := spanWords (fun y => w.hostRead (tlbFor l y) y) va n; firstBad 0 ws = none → w.copyOut l va n none = ({ w with host := { w.host with
        rdmaOut := w.host.rdmaOut ++ [((bodyDword w.evt 4).toNat, bodyWord w.evt 6, ws.map CW.v)] } } : State).reply none [])) ∧
    (let j := s.obs.journal; s.power.ready = true → ∀ r rest, j.queue = r :: rest →
      (j.w < j.b + Config.journalSlots → j.dropped = 0 → ∃ t, exec .journalAppend s = .next t ∧ t.obs.journal = { j with w := j.w + 1, queue := rest } ∧
        (∀ k, k < 8 → t.phys.dword (journalSlot j.w + 8 * k) = (r.dwords j.w 0 (s.phys.chain j.w)).getD k 0) ∧ t.seqs = s.seqs) ∧
      (j.b + Config.journalSlots ≤ j.w → ∃ t, exec .journalAppend s = .next t ∧ t.obs.journal = { j with queue := rest, dropped := j.dropped + 1 } ∧ t.phys = s.phys ∧
        (t.seqOf sup).pend = if j.dropped = 0 then queueRaise (s.seqOf sup).pend { cause := .jrnlovf, t0 := 1, unit := 9 } else (s.seqOf sup).pend)) ∧
    (a < 32 → let d := fun k : Nat => s.hubRegs.get 0 ((regJournal + 0x40 * a) / 8 + k); 0x80 ≤ bits (d 2) 16 8 → ∃ t r, exec .journalSubmit s = .next t ∧ t.obs.journal = { s.obs.journal with
      queue := s.obs.journal.queue ++ [r] } ∧ r.tempo = (if d 1 = 0 then s.tempo else d 1) ∧ r.kind = (d 2).extractLsb' 16 8 ∧ r.addr = d 3 ∧ t.phys = s.phys) ∧
    (isHub s.cur = false → Traps (exec (.gambit x) s) s .priv (encode (.gambit x)) ∧ Traps (exec (.gambitStop x) s) s .priv (encode (.gambitStop x))) ∧
    (isHub s.cur = true → let v := s.reg x.sa; let w := encode (.gambit x);
      (v.toNat % 8 = 0 → s.reachPages v 64 0 false = .ok () → ∀ l u, s.readBlock v 8 = .ok (l, u) → (trialOf l = none → Traps (exec (.gambit x) s) s .cfgbad w) ∧
        (∀ t, trialOf l = some t → u.runs t.launch = true → u.obs.trials.length < 4 → exec (.gambit x) s = .next ((((u.modObs fun o => { o with
          trials := o.trials ++ [{ t with id := o.nextTrial, core := u.cur - 0x1000, winAt := u.tempo }], nextTrial := o.nextTrial + 1 }).setReg x.sd (BitVec.ofNat 64 u.obs.nextTrial)).watchAccess v 64 false).retire))) ∧
      (∀ t, s.obs.trials.find? (·.id = bits v 0 16) = some t → exec (.gambitStop x) s = .next (((s.endTrial t 1).setReg x.sd (BitVec.ofNat 64 t.id)).retire))) ∧
    (∀ t, s.obs.trials.find? (·.id = a) = some t → let due : Prop := t.winAt.toNat + 1000 * t.winUs ≤ s.tempo.toNat; let n := (s.tempo - t.winAt).toNat;
      (¬ due → exec .gambitWindowSwitch s = .next s) ∧ (due → t.exper = false → ∃ u, exec .gambitWindowSwitch s = .next u ∧ u.phys = s.phys ∧ (∀ y ∈ u.obs.trials, y.id = a →
        y = { t with baseTicks := t.baseTicks + n, winAt := s.tempo, exper := true })) ∧
      (s.launch? t.launch = none → exec .gambitTrialEnd s = .next (s.endTrial t 2)) ∧
      ((s.launch? t.launch).isSome = true → due → t.exper = true → t.win ≤ t.window + 1 → exec .gambitTrialEnd s = .next (s.endTrial t 0) ∧ exec .gambitWindowSwitch s = .next s)) ∧
    (∀ t st, (∀ y ∈ (s.endTrial t st).obs.trials, y.id ≠ t.id) ∧ ((s.endTrial t st).seqOf (hubAgent t.core)).pend = queueRaise (s.seqOf (hubAgent t.core)).pend
      { cause := .gambitend, t0 := BitVec.ofNat 64 t.id, unit := 9 }) ∧
    (a < 64 → exec .scopeCheckControlWrite s = .next { s with obs := { s.obs with scopeCtl := s.obs.scopeCtl.set a (ev.v &&& 0x800000000001FFFF) } }) ∧
    (∃ t, exec .traceRingWrite s = .next t ∧ t.phys = s.phys ∧ (a = 0 → t.obs.ringBase = ev.v) ∧ (a = 1 → t.obs.ringSize = ev.v) ∧ (a = 2 → t.obs.ringOver = ev.v)) ∧
    (hubSpace ≤ a → a < 0x1000000000000 → a % 8 = 0 → ∀ t, s.hubStore sup a ev.v = some t → exec .hubRegisterWrite s = .next t ∧
      (regPodRanges + 1024 ≤ a → a < regScope → t.hubLoad sup a = some ev.v ∧ t.phys = s.phys)) ∧
    (fatalCause a = true → s.power.recovery = false → let pa := Config.dumpBase + 0x1000000 * s.obs.dumps.length; ∃ t d, exec .fatalDump s = .next t ∧ t.obs.dumps = s.obs.dumps ++ [d] ∧ d.pa = pa ∧
      d.cause = BitVec.ofNat 64 a ∧ t.phys.dword pa = 0x44554D31 ∧ t.phys.dword (pa + 8) = s.tempo ∧ t.phys.dword (pa + 16) = BitVec.ofNat 64 a ∧
      ∃ r, t.obs.journal.queue = s.obs.journal.queue ++ [r] ∧ r.kind = 0x12 ∧ r.addr = BitVec.ofNat 64 pa ∧ r.syn0 = s.tempo) ∧
    (∀ t0, s.power.stopAt = some t0 →
      (s.power.warned = true ∨ s.tempo.toNat + 1000 < t0.toNat → exec .tempostopWarning s = .next s) ∧
      (s.power.warned = false → t0.toNat ≤ s.tempo.toNat + 1000 → ∃ t, exec .tempostopWarning s = .next t ∧ t.power = { s.power with warned := true } ∧
        ∀ c, c < 32 → (t.seqOf (hubAgent c)).pend = queueRaise (s.seqOf (hubAgent c)).pend { cause := .tempostop, t0 := t0, unit := 9 }) ∧
      exec .tempoStop s = .next (if s.tempo.toNat < t0.toNat then s else { s with power := { s.power with gated := true } })) ∧
    (ev.v.toNat < s.tempo.toNat → exec .podTempoAlign s = .next s) ∧
    (s.tempo.toNat ≤ ev.v.toNat → ∃ t, exec .podTempoAlign s = .next t ∧ t.tempo = ev.v ∧ (∀ c, (s.seqs.find c).isSome = true → t.cycleOf c = s.cycleOf c) ∧ t.phys = s.phys)

/-- A Knabry port with version 1 in common comes up at its lanes, without it stays down with VERNEG. A flit of an unused
type is dropped and journalled; credits are added and used; a request joins the directory's queue, or is refused with
REMPROT; a response brings its line, permission or refusal; a snoop takes or shares this module's copy; the owner's
reply serves the request that asked. The directory serves the head of a sector's queue by its state: I and S give S
with the requester added, RDX gives E, WRH gives I, OL the owner-lost reply; other holders are snooped first; a full
set recalls its oldest entry that is not lost, or raises DIRFULL. An owner's release gives I, a late one is dropped; a
first write makes M. A silent sharer leaves the mask with PODPART; a silent owner makes the entry OL with SNOOPTMO and
a journal entry. Retries are counted, a threshold passed raises LNKRETRY once, a flit failed 16 times FLITCHK. SNPTMO,
pod ranges, the collective path and the retry register take their writes. (R291, R315, R316, R341, R343, R360, R361,
R362, R363, R366, R367, R397) -/
def Obligations.FabricAndDirectoryActions : Prop :=
  ∀ (s : State), let a := s.evt.a; let b := s.evt.b; let f := s.evt.flit; let v := s.evt.v; let sup := hubAgent 0; let F := s.fabric; let me := F.podIndex
    let sups := fun (c : Cause) (t0 t1 : Nat) => queueRaise (s.seqOf sup).pend { cause := c, t0 := BitVec.ofNat 64 t0, t1 := BitVec.ofNat 64 t1, unit := 9 };
    (a < 16 → let l := knabryLink a; let k := s.link l;
      (b.testBit 1 = true → s.evt.c = 8 ∨ s.evt.c = 4 ∨ s.evt.c = 2 → exec .knabryTraining s = .next (s.setLink l { k with st := 0, width := s.evt.c, version := 1, reduce := s.evt.ok, flitFails := 0 })) ∧
      (b.testBit 1 = false → ∃ t, exec .knabryTraining s = .next t ∧ t.link l = { k with st := 3 } ∧ (t.seqOf sup).pend = sups .verneg l b)) ∧
    (a < 16 → s.portUp a = true → let l := knabryLink a; let u := s.setLink l (s.link l);
      (9 ≤ f.typ → ∀ i ∈ [Instr.flitRequest, .flitResponse, .flitSnoop, .flitSnoopReply, .flitCredit], exec i s = .next (s.report (0x3000 + l % 4096) 0x0C 0 0 0 (BitVec.ofNat 64 f.typ))) ∧
      ((s.link l).replay = 0 →
        (f.typ = 8 → exec .flitCredit s = .next ((u.modFabric fun g => { g with credits := g.credits.set a (g.credits.get 0 a + f.req) }).sendFlits a)) ∧
        (f.typ = 0 → f.index ≤ 8 → f.index ≠ 6 → ∃ t r, (t = u.modFabric fun g => { g with dirQ := g.dirQ ++ [r], nextReq := g.nextReq + 1 }) ∧ r.id = F.nextReq ∧ r.kind = f.index ∧ r.sector = f.target ∧ r.modl = f.src ∧
          r.agent = f.req ∧ exec .flitRequest s = .next (if f.index = 3 ∨ u.remoteOk f.part f.target = true then t else t.answerReq r (some .remprot) false [])) ∧
        (f.typ = 0 → f.index = 6 → let e := F.dir.get {} f.target; e.st = 2 → e.owner = f.src → exec .flitRequest s = .next (u.setDir f.target { e with st := 3 })) ∧
        (∀ r, f.typ = 1 → F.dirQ.find? (fun r => 10 ≤ r.kind && r.id = f.req && r.sector = f.target) = some r → ∃ t, exec .flitResponse s = .next t ∧ (∀ q ∈ t.fabric.dirQ, q.id ≠ r.id) ∧ t.phys = s.phys ∧
          (f.status ≠ 0 → (t.seqOf r.agent).replies = (s.seqOf r.agent).replies ++ [{ unit := r.unit, sector := r.sector, cause := replyCause f.status }]) ∧
          (f.status = 0 → r.kind = 10 → t.fabric.lines.find r.sector = some { st := 1, words := f.payload }) ∧
          (f.status = 0 → r.kind = 11 → t.fabric.lines.find r.sector = some { st := if f.part = 1 then 3 else 2, words := f.payload }) ∧
          (f.status = 0 → r.kind = 12 → (r.agent * 16 + r.unit, 2, r.sector) ∈ t.fabric.granted)) ∧
        (f.typ = 2 → f.index = 7 → ∃ t, exec .flitSnoop s = .next t ∧ t.fabric.lines.find f.target = none ∧ ∀ c ∈ s.agentsWith (fun _ => true), (c, f.target) ∈ t.fabric.lostTo) ∧
        (∀ n, f.typ = 2 → f.index = 1 ∨ f.index = 2 → F.lines.find f.target = some n → ∃ t g, exec .flitSnoop s = .next t ∧ t.fabric.lines.find f.target = none ∧ t.fabric.out = F.out ++ [g] ∧ g.dst = f.src ∧ g.typ = 3 ∧
          g.target = f.target ∧ g.req = f.req ∧ g.status = (if n.st = 3 then 0 else 1) ∧ g.payload = if n.st = 3 then n.words else []) ∧
        (∀ r, f.typ = 3 → s.dirHead f.target = some r → r.id = f.req → r.snooped.isSome = true → let e := F.dir.get {} f.target; (e.st = 2 ∨ e.st = 3 → f.src = e.owner → let y := u.lateEvict f.target e.owner
            exec .flitSnoopReply s = .next (y.2.finishServe r e (if f.status = 0 then some f.payload else y.1))) ∧
          (e.st = 2 ∨ e.st = 3 ∨ e.st = 4 → f.src ≠ e.owner ∨ e.st = 4 → exec .flitSnoopReply s = .next u)) ∧
        (f.typ = 3 → s.dirHead f.target = none → exec .flitSnoopReply s = .next u))) ∧
    (∀ r, s.dirHead a = some r → s.grantBusy a = false → let e := F.dir.get {} a; let ord := if e.st = 0 then F.dirOrd else e.ord; let ways := s.dirWays a
      let rds := Instr.directoryRds; let rdx := Instr.directoryRdx; let wrh := Instr.directoryWrh
      let gives := fun (i : Instr) (d : DirEntry) => ∃ t, exec i s = .next t ∧ t.fabric.dir.get {} a = d ∧ ∀ q ∈ t.fabric.dirQ, q.id ≠ r.id;
      (r.kind = 0 → e.st = 1 ∨ (e.st = 0 ∧ ways.length < 16) → gives rds { st := 1, sharers := (e.sharers ++ [r.modl]).eraseDups, ord := ord } ∧
        (r.modl = me → ∃ t, exec rds s = .next t ∧ t.fabric.lines.find a = some { st := 1, words := (List.range 16).map fun k => s.phys.word false (a * 64 + 4 * k) } ∧ t.phys = s.phys)) ∧
      (r.kind = 4 → e.st = 1 → gives rds e) ∧ (r.kind = 1 → e.st = 0 → ways.length < 16 → gives rdx { st := 2, owner := r.modl, ord := ord }) ∧
      (r.kind = 2 ∨ r.kind = 9 → e.st = 0 → gives wrh {}) ∧ (r.kind = 5 ∨ r.kind = 7 ∨ r.kind = 8 → e.st = 0 → gives wrh {}) ∧
      (r.kind = 0 ∨ r.kind = 1 → e.st = 0 → 16 ≤ ways.length → let i := if r.kind = 0 then rds else rdx;
        ((∀ y ∈ ways, y.2.st = 4) → r.snooped = none → ∃ t, exec i s = .next t ∧ (t.seqOf sup).pend = sups .dirfull (a * 64) 0) ∧
        ((∃ y ∈ ways, y.2.st ≠ 4) → ∃ y ∈ ways, y.2.st ≠ 4 ∧ (∀ z ∈ ways, z.2.st ≠ 4 → y.2.ord ≤ z.2.ord) ∧ ((∀ q ∈ F.dirQ, ¬ (q.kind = 9 ∧ q.sector = y.1)) →
          ∃ t q, exec i s = .next t ∧ t.fabric.dirQ = F.dirQ ++ [q] ∧ q.kind = 9 ∧ q.sector = y.1 ∧ t.fabric.dir = F.dir))) ∧
      (e.st = 1 → r.kind = 1 ∨ r.kind = 2 ∨ r.kind = 9 → let others := e.sharers.filter fun m => m != r.modl && m != me; let i := if r.kind = 1 then rdx else wrh;
        (others = [] → gives i (if r.kind = 1 then { st := 2, owner := r.modl, ord := ord } else {})) ∧ (others ≠ [] → r.snooped = none → ∃ t, exec i s = .next t ∧ t.fabric.dir = F.dir ∧
          t.fabric.out = F.out ++ others.map fun m => snoopFlit s m a r.kind r.id)) ∧
      (e.st = 2 ∨ e.st = 3 → r.kind = 0 → (e.owner = me → ∀ n, F.lines.find a = some n → gives rds { st := 1, sharers := [me, r.modl].eraseDups, ord := ord }) ∧
        (e.owner ≠ me → r.snooped = none → ∃ t, exec rds s = .next t ∧ t.fabric.dir = F.dir ∧ t.fabric.out = F.out ++ [snoopFlit s e.owner a r.kind r.id])) ∧
      (e.st = 4 → r.modl = me → (r.kind = 0 → ∃ t, exec rds s = .next t ∧ (t.seqOf r.agent).replies = (s.seqOf r.agent).replies ++ [{ unit := r.unit, sector := r.sector, cause := .ownlost }]) ∧
        (r.kind = 1 → ∃ t, exec rdx s = .next t ∧ { unit := r.unit, sector := r.sector, cause := .ownlost } ∈ (t.seqOf r.agent).replies) ∧
        (r.kind = 2 → ∃ t, exec wrh s = .next t ∧ { unit := r.unit, sector := r.sector, cause := .ownlost } ∈ (t.seqOf r.agent).replies))) ∧
    (∀ r, s.dirHead a = some r → r.kind = 3 → let e := F.dir.get {} a; ∃ t, exec .directoryEvict s = .next t ∧ (∀ q ∈ t.fabric.dirQ, q.id ≠ r.id) ∧
      (e.st = 2 ∨ e.st = 3 → e.owner = r.modl → t.fabric.dir.get {} a = {} ∧ (r.words ≠ [] → s.fwins = [] → (∀ k, k < 16 → s.roBits (a * 64 + 4 * k) = 0) → ∀ k, k < 16 → t.phys.word false (a * 64 + 4 * k) = r.words.getD k CW.zero)) ∧
      (e.st = 4 ∨ e.owner ≠ r.modl → t.fabric.dir = F.dir ∧ t.phys = s.phys)) ∧
    (s.homedHere (a * 64) = true → let e := F.dir.get {} a; e.st = 2 → e.owner ≠ me → exec .dirtyNotice s = .next (s.setDir a { e with st := 3 })) ∧
    (∀ n, s.homedHere (a * 64) = false → F.lines.find a = some n → n.st = 3 → ∃ t g, exec .dirtyNotice s = .next t ∧ t.fabric.out = F.out ++ [g] ∧ g.dst = s.podHome (a * 64) ∧ g.typ = 0 ∧ g.index = 6 ∧ g.target = a) ∧
    (∀ r t0, s.dirHead a = some r → r.snooped = some t0 → let e := F.dir.get {} a; let late : Prop := t0.toNat + 1000 * F.snptmo ≤ s.tempo.toNat;
      (¬ late → exec .invalidationTimeout s = .next s ∧ exec .snoopTimeout s = .next s) ∧
      (late → e.st = 1 → b ∈ e.sharers → ∃ t, exec .invalidationTimeout s = .next t ∧ t.fabric.dir.get {} a = { e with sharers := e.sharers.filter (· != b) } ∧ (t.seqOf sup).pend = sups .podpart b 0) ∧
      (late → e.st = 2 ∨ e.st = 3 → ∃ t w, exec .snoopTimeout s = .next t ∧ t.fabric.dir.get {} a = { e with st := 4, poison := true } ∧ t.fabric.ownersLost = F.ownersLost ++ [(e.owner, a)] ∧ t.phys = s.phys ∧
        (∀ q ∈ t.fabric.dirQ, ¬ (q.kind < 10 ∧ q.sector = a)) ∧ t.obs.journal.queue = s.obs.journal.queue ++ [w] ∧ w.kind = 0x0E ∧ w.addr = BitVec.ofNat 64 (a * 64) ∧
        { cause := .snooptmo, t0 := BitVec.ofNat 64 (a * 64), t1 := BitVec.ofNat 64 e.owner, unit := 9 } ∈ (t.seqOf sup).pend)) ∧
    (let mine := F.ownersLost.filter fun y => y.1 = a; ∃ t, exec .ownerReachable s = .next t ∧ t.fabric.out = F.out ++ mine.map (fun y => snoopFlit s y.1 y.2 7 0) ∧ t.fabric.ownersLost = F.ownersLost.filter fun y => y.1 != a) ∧
    (let k := s.link a; ∀ l, linkOf (BitVec.ofNat 64 a) = some l → isEther a = false → k.st = 0 →
      (s.tempo.toNat < k.winAt.toNat + s.retryLimit.2 → isUcie a = true ∨ k.flitFails < 15 → ∃ t, exec .flitCrcRetry s = .next t ∧
        t.link a = { k with retries := k.retries + 1, flitFails := k.flitFails + 1, replay := if isUcie a then Nat.min b 512 else k.replay }) ∧
      (isUcie a = false → k.flitFails = 15 → ∃ t, exec .flitCrcRetry s = .next t ∧ (t.link a).st = 3 ∧ (t.seqOf sup).pend = sups .flitchk a 0) ∧
      (isUcie a = true → (s.evt.ok = true → ∃ t, exec .ucieFlitFail s = .next t ∧ t.link a = { k with flitFails := 0 } ∧ (t.seqOf sup).pend = sups .flitchk a 0) ∧
        (s.evt.ok = false → ∃ t, exec .ucieFlitFail s = .next t ∧ t.link a = { k with st := 3, flitFails := 0 }))) ∧
    (let k := s.linkNow a; isUcie a = true → (s.retryLimit.1 < k.retries → k.raised = false → ∃ t, exec .ucieRetryThreshold s = .next t ∧ t.link a = { k with raised := true } ∧ (t.seqOf sup).pend = sups .lnkretry a k.retries) ∧
      (k.retries ≤ s.retryLimit.1 ∨ k.raised = true → exec .ucieRetryThreshold s = .next s)) ∧
    exec .snptmoWrite s = .next (if 10 ≤ v.toNat ∧ v.toNat ≤ 10000 then s.modFabric fun g => { g with snptmo := v.toNat } else s) ∧
    exec .collPathWrite s = .next (if v &&& 0xFFFFFFFFFFFFFFCC = 0 then s.modFabric fun g => { g with collPath := v } else s) ∧
    exec .ucieRetryConfigWrite s = .next (s.modFabric fun g => { g with retryCfg := v }) ∧
    (a < 64 → b < 2 → ∃ t, exec .podRangeWrite s = .next t ∧ let p := F.podRanges.get {} a; t.fabric.podRanges.get {} a = (if b = 0 then { p with w0 := v &&& 0x000FFFFFE0000000 } else { p with w1 := v &&& 0x8000000F007FFFFF }) ∧
      ∀ k, k ≠ a → t.fabric.podRanges.get {} k = F.podRanges.get {} k)

/-- POWER_ON_RESET gives the reset state with the memory that stands, goes on with a good image and its digest, and
without one stays in recovery with core 0 held. Acres power up in order, at most one every 2 ms, scrubbed, or are left
off and excluded; cores 1 to 31 leave reset with the first. Groups of links and memories train in order, a UCIe link
at its widest segment that trains (log entry 83); an acre with power, its hub links and its stack becomes usable.
MODULE_READY loads the indices, reports POWERON and the digest, and declares the module ready. An operating point
change leaves CYCLE where it stands; heat, overtemperature, a power cap and a board signal raise their causes, and
overtemperature turns the module off. DBGHALT is raised once; the resume command returns; sessions act on what is
theirs; a debugger reads state with its tag and writes it only in debug mode. Management reads change nothing but the
answer; acknowledgements move an archive base up; resets and dumps are raised. (R284, R319, R323, R390, R391, R392,
R393, R394, R395, R396) -/
def Obligations.BringUpDebugAndManagement : Prop :=
  ∀ (s : State), let ev := s.evt; let a := ev.a; let b := ev.b; let c := ev.c; let sup := hubAgent 0; let P := s.power
    let sups := fun (k : Cause) (t0 t1 : Word) => queueRaise (s.seqOf sup).pend { cause := k, t0 := t0, t1 := t1, unit := 9 };
    (∃ t, exec .powerOnReset s = .next t ∧ t.phys = s.phys ∧ t.poisoned = s.poisoned ∧ t.agenda = s.agenda ∧ t.fresh = s.fresh ∧ t.plots = State.reset.plots ∧ t.fabric = State.reset.fabric ∧ t.sched = State.reset.sched ∧ t.tempo = State.reset.tempo ∧
      (ev.ok = true ∧ ev.ok2 = true → t.power = { State.reset.power with stage := 2, digest := ev.ds } ∧ t.seqs = State.reset.seqs) ∧
      (ev.ok = false ∨ ev.ok2 = false → t.power = { State.reset.power with recovery := true } ∧ (t.seqOf sup).run = .held)) ∧
    (let late : Prop := ∀ t0, P.lastAcreAt = some t0 → t0.toNat + 2000000 ≤ s.tempo.toNat; let on : Prop := (P.stage = 2 ∨ P.stage = 3) ∧ a = P.acresUp ∧ a < 12 ∧ late;
      (¬ on → exec .acrePowerUp s = .next s) ∧ (on → ∃ t, exec .acrePowerUp s = .next t ∧ t.power = { P with stage := 3, acresUp := a + 1, lastAcreAt := some s.tempo } ∧ t.phys = s.phys ∧
        (ev.ok = true → t.acre a = { powered := true } ∧ ∀ k, acreOf k = a → t.plot k = {} ∧ (isHub k = false → t.seqOf k = {})) ∧
        (ev.ok = false → t.acre a = {} ∧ t.obs.journal.queue.length = s.obs.journal.queue.length + 1) ∧ (P.stage = 2 → ∀ k, 0 < k → k < 32 → (t.seqOf (hubAgent k)).run = .running))) ∧
    (let on : Prop := P.acresUp = 12 ∧ P.ready = false ∧ a = P.trained ∧ a < 5;
      (¬ on → exec .linkMemoryTraining s = .next s) ∧ (on → ∃ t, exec .linkMemoryTraining s = .next t ∧ t.power.trained = a + 1 ∧ t.power.stage = 4 ∧
        (a = 0 → ∀ k i, k < 12 → i < 8 → (s.acre k).powered = true → let l := ucieLink k i; let y := { s.link l with badLanes := BitVec.ofNat 64 (match ev.pairs.find? (fun (p : Nat × Nat) => p.1 = l) with | some p => p.2 | none => 0) }
          let up := fun w : Nat => ∃ j, j < 64 / w ∧ y.segmentBad w j = false; let at_ := fun st w : Nat => t.link l = { y with st := st, width := w };
          (l ∈ ev.ns → at_ 3 0) ∧ (l ∉ ev.ns → (up 64 → at_ 0 64) ∧ (¬ up 64 → up 32 → at_ 0 32) ∧ (¬ up 64 → ¬ up 32 → up 16 → at_ 0 16) ∧ (¬ up 64 → ¬ up 32 → ¬ up 16 → at_ 3 0))) ∧
        (a = 1 → ∀ k, k < 12 → (s.acre k).powered = true → (∀ i, i < 4 → (s.link (ucieLink k i)).st ≠ 3) → k ∉ ev.ns → t.acre k = { s.acre k with usable := true }) ∧
        (a = 1 → ∀ k, k < 12 → (s.acre k).powered = true → (∃ i, i < 4 ∧ (s.link (ucieLink k i)).st = 3) ∨ k ∈ ev.ns → t.acre k = {}) ∧
        (a = 2 → t.power.absent2 = ev.ns) ∧ (a = 3 → t.power.portsDown = P.portsDown ++ ev.ns.map knabryLink) ∧ (a = 4 → t.power.portsDown = P.portsDown ++ ev.ns.map etherLink))) ∧
    (let on : Prop := P.trained = 5 ∧ P.ready = false ∧ P.recovery = false ∧ ∃ k, k < 12 ∧ (s.acre k).usable = true;
      (¬ on → exec .moduleReady s = .next s) ∧ (on → ∃ t, exec .moduleReady s = .next t ∧ t.power = { P with stage := 6, ready := true } ∧ t.obs.journal.w = a ∧ t.obs.journal.b = b ∧ t.obs.seedW = c ∧ t.obs.seedB = ev.d ∧
        (∃ l, t.obs.journal.queue = l ++ s.obs.journal.queue ∧ l.length = 5 ∧ (l.map (·.kind)) = [0x10, 0x85, 0x85, 0x85, 0x85]) ∧ (P.portsDown = [] → t.seqs = s.seqs) ∧
        (∀ l, P.portsDown = [l] → (t.seqOf sup).pend = if isEther l then sups .neterr (BitVec.ofNat 64 (l - 0x2000)) 1 else sups .lnkdown (BitVec.ofNat 64 l) 0))) ∧
    ((s.acre a).powered = true → a < 12 → b = 10 ∨ b = 8 ∨ b = 6 → ∃ t, exec .operatingPointChange s = .next t ∧ t.acre a = { s.acre a with point := b } ∧ t.plots = s.plots ∧ t.phys = s.phys ∧
      ∀ k, (s.seqs.find k).isSome = true → t.cycleOf k = s.cycleOf k) ∧
    (let die : Prop := a < 12 ∨ (0x10 ≤ a ∧ a < 0x14);
      (die → 1520 < b → ∃ t, exec .dieWarm s = .next t ∧ (t.seqOf sup).pend = sups .therm (BitVec.ofNat 64 a) (BitVec.ofNat 64 b)) ∧ (¬ die ∨ b ≤ 1520 → exec .dieWarm s = .next s) ∧
      (a < 12 → 1680 < b → ∃ t, exec .acreHot s = .next t ∧ (t.acre a).point = 6 ∧ (t.seqOf sup).pend = sups .therm (BitVec.ofNat 64 a) (BitVec.ofNat 64 b)) ∧
      (die → ∃ t, exec .dieOvertemp s = .next t ∧ t.power = { P with gated := true, off := true }) ∧ (¬ die → exec .dieOvertemp s = .next s)) ∧
    (P.recovery = false → ev.ns = [] → (∃ t, exec .powerCapSet s = .next t ∧ t.power = { P with cap := a } ∧ (t.seqOf sup).pend = sups .pwrcap (BitVec.ofNat 64 a) 0) ∧
      (∃ t, exec .ctxrst s = .next t ∧ (t.seqOf sup).pend = sups .ctxrst (BitVec.ofNat 64 a) 0) ∧ (∃ t, exec .dumpreq s = .next t ∧ (t.seqOf sup).pend = sups .dumpreq ev.v 0)) ∧
    (P.recovery = true ∨ ev.ns ≠ [] → exec .powerCapSet s = .next s ∧ exec .ctxrst s = .next s ∧ exec .dumpreq s = .next s) ∧
    (let q := s.seqOf a; let asks := q.pend.any (·.cause == .dbghalt); let acts := P.recovery = false ∧ sessionSees ev.ns q.ctx.part = true;
      (¬ acts → exec .dbghalt s = .next s ∧ exec .debugResume s = .next s) ∧ (acts → q.run ≠ .idle → q.run ≠ .ended → q.run ≠ .failed → q.mode ≠ 2 → asks = false → exec .dbghalt s = .next (s.setSeqOf a { q with pend := q.pend ++ [{ cause := .dbghalt }] })) ∧
      (q.run = .idle ∨ q.run = .ended ∨ q.mode = 2 ∨ asks = true → exec .dbghalt s = .next s) ∧
      (q.mode ≠ 2 → exec .debugResume s = .next s) ∧ (acts → q.mode = 2 → exec .debugResume s = .next (((s.returnFrom a).resumeWdog q.ctx.launch).letGoColls a) ∧
        (isHub a = true ∨ q.pmode ≠ 0 → ∃ z, s.returnFrom a = s.setSeqOf a z ∧ z.mode = (if isHub a then 1 else q.pmode) ∧ z.pc = q.epc ∧ z.regs = q.regs))) ∧
    (let q := s.seqOf b; let item := c; let i := ev.d; let full := ev.ok2 && ev.ns.isEmpty; let sees := sessionSees ev.ns q.ctx.part;
      (P.recovery = true ∨ sees = false → ∃ t, exec .debuggerAccess s = .next t ∧ t = { s with obs := { s.obs with readOut := [] } }) ∧
      (∀ v g, P.recovery = false → sees = true → s.raw b item i = some (v, g) →
        (ev.ok = false → ∃ t, exec .debuggerAccess s = .next t ∧ t.obs.readOut = [if isHub b = true ∨ g = (s.plot b).gen ∨ full = true then v else 0, g.setWidth 64] ∧ t.plots = s.plots ∧ t.phys = s.phys ∧
          (t.seqOf b).regs = q.regs ∧ (t.seqOf b).pc = q.pc) ∧
        (ev.ok = true → q.mode ≠ 2 → ∃ t, exec .debuggerAccess s = .next t ∧ t.plots = s.plots ∧ t.phys = s.phys ∧ (t.seqOf b).regs = q.regs) ∧
        (ev.ok = true → q.mode = 2 → ∃ t, exec .debuggerAccess s = .next t ∧ t.phys = s.phys ∧ (item = 0 → i ≠ 0 → (t.seqOf b).regs.find i = some { val := ev.v, tag := s.genOf b }) ∧
          (item = 1 → s.granuleSector b (i / 8) = none → ∀ n, ((t.plot b).word (8 * i + 4 * (n % 2))).v = ev.v.extractLsb' (32 * (n % 2)) 32)))) ∧
    (exec .managementRead s = .next (if P.recovery then s else { s with obs := { s.obs with readOut := s.portRead ev.ns b c } })) ∧
    (P.recovery = false → ev.ns = [] → (b = 0 → s.obs.journal.b ≤ c → c ≤ s.obs.journal.w → exec .managementAcknowledge s = .next { s with obs := { s.obs with journal := { s.obs.journal with b := c } } }) ∧
      (b = 0 → c < s.obs.journal.b ∨ s.obs.journal.w < c → exec .managementAcknowledge s = .next s) ∧
      (b = 1 → s.obs.seedB ≤ c → c ≤ s.obs.seedW → exec .managementAcknowledge s = .next { s with obs := { s.obs with seedB := c } })) ∧
    exec .recoveryFlashImage s = .next (if P.recovery && ev.ok then { s with power := { P with flashPending := true } } else s) ∧
    (∃ t, exec .extint s = .next t ∧ t.plots = s.plots ∧ t.phys = s.phys ∧ ∀ k, k < 32 → (t.seqOf (hubAgent k)).pend = queueRaise (s.seqOf (hubAgent k)).pend { cause := .extint, t0 := BitVec.ofNat 64 a, unit := 9 })
end

