-- ==== Sys2Proof/Laws/Decode.lean ====
section
/-! SUPPORT. The laws of the encoder's words: which class, opcode and fields the decoder finds in them. -/

namespace Sys2Proof

/-- The decoder finds in a word of format S3 the class, the opcode and every field that it was made of. -/
theorem S3.fields_word (c : BitVec 4) (o : BitVec 8) (x : S3) :
    fieldAt 60 4 (x.word c o) = c ∧ fieldAt 52 8 (x.word c o) = o ∧ S3.of (x.word c o) = x := by
  rcases x
  unfold S3.of fieldAt S3.word
  simp (disch := decide) [
    BitVec.extractLsb'_append_eq_of_le (v := 4) (w := 8), BitVec.extractLsb'_append_eq_of_add_le (v := 4) (w := 8),
    BitVec.extractLsb'_append_eq_of_le (v := 12) (w := 5), BitVec.extractLsb'_append_eq_of_add_le (v := 12) (w := 5),
    BitVec.extractLsb'_append_eq_of_le (v := 17) (w := 5), BitVec.extractLsb'_append_eq_of_add_le (v := 17) (w := 5),
    BitVec.extractLsb'_append_eq_of_le (v := 22) (w := 5), BitVec.extractLsb'_append_eq_of_add_le (v := 22) (w := 5),
    BitVec.extractLsb'_append_eq_of_le (v := 27) (w := 5), BitVec.extractLsb'_append_eq_of_add_le (v := 27) (w := 5),
    BitVec.extractLsb'_append_eq_of_le (v := 32) (w := 16), BitVec.extractLsb'_append_eq_of_add_le (v := 32) (w := 16),
    BitVec.extractLsb'_append_eq_of_le (v := 48) (w := 16), BitVec.extractLsb'_append_eq_of_add_le (v := 48) (w := 16)]

/-- The decoder finds in a word of format SI the class, the opcode and every field that it was made of. -/
theorem SI.fields_word (c : BitVec 4) (o : BitVec 8) (x : SI) :
    fieldAt 60 4 (x.word c o) = c ∧ fieldAt 52 8 (x.word c o) = o ∧ SI.of (x.word c o) = x := by
  rcases x
  unfold SI.of fieldAt SI.word
  simp (disch := decide) [
    BitVec.extractLsb'_append_eq_of_le (v := 4) (w := 8), BitVec.extractLsb'_append_eq_of_add_le (v := 4) (w := 8),
    BitVec.extractLsb'_append_eq_of_le (v := 12) (w := 5), BitVec.extractLsb'_append_eq_of_add_le (v := 12) (w := 5),
    BitVec.extractLsb'_append_eq_of_le (v := 17) (w := 5), BitVec.extractLsb'_append_eq_of_add_le (v := 17) (w := 5),
    BitVec.extractLsb'_append_eq_of_le (v := 22) (w := 10), BitVec.extractLsb'_append_eq_of_add_le (v := 22) (w := 10),
    BitVec.extractLsb'_append_eq_of_le (v := 32) (w := 32), BitVec.extractLsb'_append_eq_of_add_le (v := 32) (w := 32)]

/-- The decoder finds in a word of format SM the class, the opcode and every field that it was made of. -/
theorem SM.fields_word (c : BitVec 4) (o : BitVec 6) (x : SM) :
    fieldAt 60 4 (x.word c o) = c ∧ fieldAt 52 6 (x.word c o) = o ∧ SM.of (x.word c o) = x := by
  rcases x
  unfold SM.of fieldAt SM.word
  simp (disch := decide) [
    BitVec.extractLsb'_append_eq_of_le (v := 4) (w := 1), BitVec.extractLsb'_append_eq_of_add_le (v := 4) (w := 1),
    BitVec.extractLsb'_append_eq_of_le (v := 5) (w := 1), BitVec.extractLsb'_append_eq_of_add_le (v := 5) (w := 1),
    BitVec.extractLsb'_append_eq_of_le (v := 6) (w := 6), BitVec.extractLsb'_append_eq_of_add_le (v := 6) (w := 6),
    BitVec.extractLsb'_append_eq_of_le (v := 12) (w := 5), BitVec.extractLsb'_append_eq_of_add_le (v := 12) (w := 5),
    BitVec.extractLsb'_append_eq_of_le (v := 17) (w := 5), BitVec.extractLsb'_append_eq_of_add_le (v := 17) (w := 5),
    BitVec.extractLsb'_append_eq_of_le (v := 22) (w := 4), BitVec.extractLsb'_append_eq_of_add_le (v := 22) (w := 4),
    BitVec.extractLsb'_append_eq_of_le (v := 26) (w := 3), BitVec.extractLsb'_append_eq_of_add_le (v := 26) (w := 3),
    BitVec.extractLsb'_append_eq_of_le (v := 29) (w := 3), BitVec.extractLsb'_append_eq_of_add_le (v := 29) (w := 3),
    BitVec.extractLsb'_append_eq_of_le (v := 32) (w := 32), BitVec.extractLsb'_append_eq_of_add_le (v := 32) (w := 32)]

/-- The decoder finds in a word of format SB the class, the opcode and every field that it was made of. -/
theorem SB.fields_word (c : BitVec 4) (o : BitVec 8) (x : SB) :
    fieldAt 60 4 (x.word c o) = c ∧ fieldAt 52 8 (x.word c o) = o ∧ SB.of (x.word c o) = x := by
  rcases x
  unfold SB.of fieldAt SB.word
  simp (disch := decide) [
    BitVec.extractLsb'_append_eq_of_le (v := 4) (w := 8), BitVec.extractLsb'_append_eq_of_add_le (v := 4) (w := 8),
    BitVec.extractLsb'_append_eq_of_le (v := 12) (w := 5), BitVec.extractLsb'_append_eq_of_add_le (v := 12) (w := 5),
    BitVec.extractLsb'_append_eq_of_le (v := 17) (w := 5), BitVec.extractLsb'_append_eq_of_add_le (v := 17) (w := 5),
    BitVec.extractLsb'_append_eq_of_le (v := 22) (w := 2), BitVec.extractLsb'_append_eq_of_add_le (v := 22) (w := 2),
    BitVec.extractLsb'_append_eq_of_le (v := 24) (w := 8), BitVec.extractLsb'_append_eq_of_add_le (v := 24) (w := 8),
    BitVec.extractLsb'_append_eq_of_le (v := 32) (w := 32), BitVec.extractLsb'_append_eq_of_add_le (v := 32) (w := 32)]

/-- The decoder finds in a word of format SC the class, the opcode and every field that it was made of. -/
theorem SC.fields_word (c : BitVec 4) (o : BitVec 8) (x : SC) :
    fieldAt 60 4 (x.word c o) = c ∧ fieldAt 52 8 (x.word c o) = o ∧ SC.of (x.word c o) = x := by
  rcases x
  unfold SC.of fieldAt SC.word
  simp (disch := decide) [
    BitVec.extractLsb'_append_eq_of_le (v := 4) (w := 8), BitVec.extractLsb'_append_eq_of_add_le (v := 4) (w := 8),
    BitVec.extractLsb'_append_eq_of_le (v := 12) (w := 5), BitVec.extractLsb'_append_eq_of_add_le (v := 12) (w := 5),
    BitVec.extractLsb'_append_eq_of_le (v := 17) (w := 5), BitVec.extractLsb'_append_eq_of_add_le (v := 17) (w := 5),
    BitVec.extractLsb'_append_eq_of_le (v := 22) (w := 5), BitVec.extractLsb'_append_eq_of_add_le (v := 22) (w := 5),
    BitVec.extractLsb'_append_eq_of_le (v := 27) (w := 5), BitVec.extractLsb'_append_eq_of_add_le (v := 27) (w := 5),
    BitVec.extractLsb'_append_eq_of_le (v := 32) (w := 32), BitVec.extractLsb'_append_eq_of_add_le (v := 32) (w := 32)]

/-- The decoder finds in a word of format V the class, the opcode and every field that it was made of. -/
theorem V.fields_word (c : BitVec 4) (o : BitVec 8) (x : V) :
    fieldAt 60 4 (x.word c o) = c ∧ fieldAt 52 8 (x.word c o) = o ∧ V.of (x.word c o) = x := by
  rcases x
  unfold V.of fieldAt V.word
  simp (disch := decide) [
    BitVec.extractLsb'_append_eq_of_le (v := 4) (w := 8), BitVec.extractLsb'_append_eq_of_add_le (v := 4) (w := 8),
    BitVec.extractLsb'_append_eq_of_le (v := 12) (w := 7), BitVec.extractLsb'_append_eq_of_add_le (v := 12) (w := 7),
    BitVec.extractLsb'_append_eq_of_le (v := 19) (w := 7), BitVec.extractLsb'_append_eq_of_add_le (v := 19) (w := 7),
    BitVec.extractLsb'_append_eq_of_le (v := 26) (w := 7), BitVec.extractLsb'_append_eq_of_add_le (v := 26) (w := 7),
    BitVec.extractLsb'_append_eq_of_le (v := 33) (w := 7), BitVec.extractLsb'_append_eq_of_add_le (v := 33) (w := 7),
    BitVec.extractLsb'_append_eq_of_le (v := 40) (w := 4), BitVec.extractLsb'_append_eq_of_add_le (v := 40) (w := 4),
    BitVec.extractLsb'_append_eq_of_le (v := 44) (w := 3), BitVec.extractLsb'_append_eq_of_add_le (v := 44) (w := 3),
    BitVec.extractLsb'_append_eq_of_le (v := 47) (w := 3), BitVec.extractLsb'_append_eq_of_add_le (v := 47) (w := 3),
    BitVec.extractLsb'_append_eq_of_le (v := 50) (w := 1), BitVec.extractLsb'_append_eq_of_add_le (v := 50) (w := 1),
    BitVec.extractLsb'_append_eq_of_le (v := 51) (w := 5), BitVec.extractLsb'_append_eq_of_add_le (v := 51) (w := 5),
    BitVec.extractLsb'_append_eq_of_le (v := 56) (w := 8), BitVec.extractLsb'_append_eq_of_add_le (v := 56) (w := 8)]

/-- The decoder finds in a word of format D the class, the opcode and every field that it was made of. -/
theorem D.fields_word (c : BitVec 4) (o : BitVec 8) (x : D) :
    fieldAt 60 4 (x.word c o) = c ∧ fieldAt 52 8 (x.word c o) = o ∧ D.of (x.word c o) = x := by
  rcases x
  unfold D.of fieldAt D.word
  simp (disch := decide) [
    BitVec.extractLsb'_append_eq_of_le (v := 4) (w := 8), BitVec.extractLsb'_append_eq_of_add_le (v := 4) (w := 8),
    BitVec.extractLsb'_append_eq_of_le (v := 12) (w := 8), BitVec.extractLsb'_append_eq_of_add_le (v := 12) (w := 8),
    BitVec.extractLsb'_append_eq_of_le (v := 20) (w := 8), BitVec.extractLsb'_append_eq_of_add_le (v := 20) (w := 8),
    BitVec.extractLsb'_append_eq_of_le (v := 28) (w := 8), BitVec.extractLsb'_append_eq_of_add_le (v := 28) (w := 8),
    BitVec.extractLsb'_append_eq_of_le (v := 36) (w := 8), BitVec.extractLsb'_append_eq_of_add_le (v := 36) (w := 8),
    BitVec.extractLsb'_append_eq_of_le (v := 44) (w := 20), BitVec.extractLsb'_append_eq_of_add_le (v := 44) (w := 20)]

/-- The top twelve bits of a word are its class and its opcode. -/
theorem top_fields (w : BitVec 64) : (fieldAt 52 12 w).toNat = (fieldAt 60 4 w).toNat * 256 + (fieldAt 52 8 w).toNat := by
  simp only [fieldAt, BitVec.extractLsb'_toNat, Nat.shiftRight_eq_div_pow]
  omega

/-- A word with none of the fixed opcodes is no fixed word. -/
theorem fixedWord_none {w : BitVec 64}
    (h : ∀ k ∈ [0x40B, 0x40C, 0x40D, 0x507, 0x602, 0xE07], (fieldAt 60 4 w).toNat * 256 + (fieldAt 52 8 w).toNat ≠ k) :
    fixedWord w = none := by
  simp only [List.forall_mem_cons, List.not_mem_nil, false_implies, implies_true, and_true] at h
  unfold fixedWord
  rw [top_fields]
  split <;> first | omega | rfl

/-- Nor is an ISTREAM with its lowest bit clear. -/
theorem fixedWord_istream {w : BitVec 64} (h : (fieldAt 52 12 w).toNat = 0xE07) (h0 : w.getLsbD 0 = false) : fixedWord w = none := by
  unfold fixedWord
  rw [h]
  simp only [h0]; rfl

theorem class0_word (op : BitVec 8) (x : S3) :
    fixedWord (x.word 0x0 op) = none ∧ opcodeOf (x.word 0x0 op) = pick class0 op.toNat x := by
  obtain ⟨h1, h2, h3⟩ := S3.fields_word 0x0 op x
  refine ⟨fixedWord_none ?_, ?_⟩
  · rw [h1, h2]; have := op.isLt; simp; omega
  · unfold opcodeOf; rw [h1, h2, h3]; rfl

theorem class1_word (op : BitVec 8) (x : SI) :
    fixedWord (x.word 0x1 op) = none ∧ opcodeOf (x.word 0x1 op) = pick class1 op.toNat x := by
  obtain ⟨h1, h2, h3⟩ := SI.fields_word 0x1 op x
  refine ⟨fixedWord_none ?_, ?_⟩
  · rw [h1, h2]; have := op.isLt; simp; omega
  · unfold opcodeOf; rw [h1, h2, h3]; rfl

theorem class2_word (op : BitVec 6) (x : SM) :
    fixedWord (x.word 0x2 op) = none ∧ opcodeOf (x.word 0x2 op) = pick class2 op.toNat x := by
  obtain ⟨h1, h2, h3⟩ := SM.fields_word 0x2 op x
  refine ⟨fixedWord_none ?_, ?_⟩
  · rw [h1]; have := (fieldAt 52 8 (x.word 0x2 op)).isLt; simp; omega
  · unfold opcodeOf; rw [h1, h2, h3]; rfl

theorem class3_word (op : BitVec 6) (x : SM) :
    fixedWord (x.word 0x3 op) = none ∧ opcodeOf (x.word 0x3 op) = pick class3 op.toNat x := by
  obtain ⟨h1, h2, h3⟩ := SM.fields_word 0x3 op x
  refine ⟨fixedWord_none ?_, ?_⟩
  · rw [h1]; have := (fieldAt 52 8 (x.word 0x3 op)).isLt; simp; omega
  · unfold opcodeOf; rw [h1, h2, h3]; rfl

theorem class4_word (op : BitVec 8) (x : SB) (h : ∀ k ∈ [0xb, 0xc, 0xd], op.toNat ≠ k) :
    fixedWord (x.word 0x4 op) = none ∧ opcodeOf (x.word 0x4 op) = pick class4 op.toNat x := by
  obtain ⟨h1, h2, h3⟩ := SB.fields_word 0x4 op x
  refine ⟨fixedWord_none ?_, ?_⟩
  · rw [h1, h2]; have := op.isLt; simp at h ⊢; omega
  · unfold opcodeOf; rw [h1, h2, h3]; rfl

theorem class5_word (op : BitVec 8) (x : SC) (h : ∀ k ∈ [0x7], op.toNat ≠ k) :
    fixedWord (x.word 0x5 op) = none ∧ opcodeOf (x.word 0x5 op) = pick class5 op.toNat x := by
  obtain ⟨h1, h2, h3⟩ := SC.fields_word 0x5 op x
  refine ⟨fixedWord_none ?_, ?_⟩
  · rw [h1, h2]; have := op.isLt; simp at h ⊢; omega
  · unfold opcodeOf; rw [h1, h2, h3]; rfl

theorem class6_word (op : BitVec 8) (x : SC) (h : ∀ k ∈ [0x2], op.toNat ≠ k) :
    fixedWord (x.word 0x6 op) = none ∧ opcodeOf (x.word 0x6 op) = pick class6 op.toNat x := by
  obtain ⟨h1, h2, h3⟩ := SC.fields_word 0x6 op x
  refine ⟨fixedWord_none ?_, ?_⟩
  · rw [h1, h2]; have := op.isLt; simp at h ⊢; omega
  · unfold opcodeOf; rw [h1, h2, h3]; rfl

theorem class8_word (op : BitVec 8) (x : V) :
    fixedWord (x.word 0x8 op) = none ∧ opcodeOf (x.word 0x8 op) = pick class8 op.toNat x := by
  obtain ⟨h1, h2, h3⟩ := V.fields_word 0x8 op x
  refine ⟨fixedWord_none ?_, ?_⟩
  · rw [h1, h2]; have := op.isLt; simp; omega
  · unfold opcodeOf; rw [h1, h2, h3]; rfl

theorem class9_word (op : BitVec 8) (x : V) :
    fixedWord (x.word 0x9 op) = none ∧ opcodeOf (x.word 0x9 op) = pick class9 op.toNat x := by
  obtain ⟨h1, h2, h3⟩ := V.fields_word 0x9 op x
  refine ⟨fixedWord_none ?_, ?_⟩
  · rw [h1, h2]; have := op.isLt; simp; omega
  · unfold opcodeOf; rw [h1, h2, h3]; rfl

theorem classA_word (op : BitVec 8) (x : V) :
    fixedWord (x.word 0xA op) = none ∧ opcodeOf (x.word 0xA op) = pick classA op.toNat x := by
  obtain ⟨h1, h2, h3⟩ := V.fields_word 0xA op x
  refine ⟨fixedWord_none ?_, ?_⟩
  · rw [h1, h2]; have := op.isLt; simp; omega
  · unfold opcodeOf; rw [h1, h2, h3]; rfl

theorem classB_word (op : BitVec 8) (x : D) :
    fixedWord (x.word 0xB op) = none ∧ opcodeOf (x.word 0xB op) = pick classB op.toNat x := by
  obtain ⟨h1, h2, h3⟩ := D.fields_word 0xB op x
  refine ⟨fixedWord_none ?_, ?_⟩
  · rw [h1, h2]; have := op.isLt; simp; omega
  · unfold opcodeOf; rw [h1, h2, h3]; rfl

theorem classC_word (op : BitVec 8) (x : D) :
    fixedWord (x.word 0xC op) = none ∧ opcodeOf (x.word 0xC op) = pick classC op.toNat x := by
  obtain ⟨h1, h2, h3⟩ := D.fields_word 0xC op x
  refine ⟨fixedWord_none ?_, ?_⟩
  · rw [h1, h2]; have := op.isLt; simp; omega
  · unfold opcodeOf; rw [h1, h2, h3]; rfl

theorem classD_word (op : BitVec 8) (x : D) :
    fixedWord (x.word 0xD op) = none ∧ opcodeOf (x.word 0xD op) = pick classD op.toNat x := by
  obtain ⟨h1, h2, h3⟩ := D.fields_word 0xD op x
  refine ⟨fixedWord_none ?_, ?_⟩
  · rw [h1, h2]; have := op.isLt; simp; omega
  · unfold opcodeOf; rw [h1, h2, h3]; rfl

theorem classE_word (op : BitVec 8) (x : D) (h : ∀ k ∈ [0x7], op.toNat ≠ k) :
    fixedWord (x.word 0xE op) = none ∧ opcodeOf (x.word 0xE op) = pick classE op.toNat x := by
  obtain ⟨h1, h2, h3⟩ := D.fields_word 0xE op x
  refine ⟨fixedWord_none ?_, ?_⟩
  · rw [h1, h2]; have := op.isLt; simp at h ⊢; omega
  · unfold opcodeOf; rw [h1, h2, h3]; rfl

theorem classF_word (op : BitVec 8) (x : D) :
    fixedWord (x.word 0xF op) = none ∧ opcodeOf (x.word 0xF op) = pick classF op.toNat x := by
  obtain ⟨h1, h2, h3⟩ := D.fields_word 0xF op x
  refine ⟨fixedWord_none ?_, ?_⟩
  · rw [h1, h2]; have := op.isLt; simp; omega
  · unfold opcodeOf; rw [h1, h2, h3]; rfl

end Sys2Proof
end

