-- ==== Sys2Proof/Laws/Map.lean ====
section
/-! SUPPORT. The laws of the finite map, and the canonical form that its operations keep. -/

namespace Sys2Proof

namespace NMap

variable {α : Type}

theorem get_cons (d : α) (k : Nat) (v : α) (m : NMap α) (i : Nat) :
    NMap.get d ((k, v) :: m) i = if k = i then v else NMap.get d m i := by
  by_cases h : k = i
  · subst h; simp [get]
  · have : Nat.beq k i = false := by rw [← Bool.not_eq_true, Nat.beq_eq]; exact h
    simp [get, this, h]

theorem find_cons (k : Nat) (v : α) (m : NMap α) (i : Nat) :
    NMap.find ((k, v) :: m) i = if k = i then some v else NMap.find m i := by
  by_cases h : k = i
  · subst h; simp [find]
  · have : Nat.beq k i = false := by rw [← Bool.not_eq_true, Nat.beq_eq]; exact h
    simp [find, this, h]

@[simp] theorem find_set_same (m : NMap α) (i : Nat) (v : α) : NMap.find (NMap.set m i v) i = some v := by
  induction m with
  | nil => simp [set, find_cons]
  | cons x m ih =>
    obtain ⟨k, w⟩ := x
    simp only [set]
    split
    · simp [find_cons]
    · split
      · simp [find_cons]
      · simp [find_cons, *]

theorem find_set_ne (m : NMap α) {i j : Nat} (h : i ≠ j) (v : α) : NMap.find (NMap.set m i v) j = NMap.find m j := by
  induction m with
  | nil => simp [set, find_cons, find, h]
  | cons x m ih =>
    obtain ⟨k, w⟩ := x
    simp only [set]
    split
    · subst k; simp [find_cons, h]
    · split
      · simp [find_cons, h]
      · simp [find_cons, ih]

@[simp] theorem get_set_same (d : α) (m : NMap α) (i : Nat) (v : α) : NMap.get d (NMap.set m i v) i = v := by
  induction m with
  | nil => simp [set, get_cons]
  | cons x m ih =>
    obtain ⟨k, w⟩ := x
    simp only [set]
    split
    · simp [get_cons]
    · split
      · simp [get_cons]
      · simp [get_cons, *]

theorem get_set_ne (d : α) (m : NMap α) {i j : Nat} (h : i ≠ j) (v : α) :
    NMap.get d (NMap.set m i v) j = NMap.get d m j := by
  induction m with
  | nil => simp [set, get_cons, get, h]
  | cons x m ih =>
    obtain ⟨k, w⟩ := x
    simp only [set]
    split
    · subst k; simp [get_cons, h]
    · split
      · simp [get_cons, h]
      · simp [get_cons, ih]

@[simp] theorem find_del_same (m : NMap α) (i : Nat) : NMap.find (NMap.del m i) i = none := by
  induction m with
  | nil => rfl
  | cons x m ih =>
    obtain ⟨k, w⟩ := x
    simp only [del]
    split
    · exact ih
    · simp [find_cons, *]

theorem find_del_ne (m : NMap α) {i j : Nat} (h : i ≠ j) : NMap.find (NMap.del m i) j = NMap.find m j := by
  induction m with
  | nil => rfl
  | cons x m ih =>
    obtain ⟨k, w⟩ := x
    simp only [del]
    split
    · subst k; simp [find_cons, h, ih]
    · simp [find_cons, ih]

theorem set_set (m : NMap α) (i : Nat) (v w : α) : NMap.set (NMap.set m i v) i w = NMap.set m i w := by
  induction m with
  | nil => simp [set]
  | cons x m ih =>
    obtain ⟨k, y⟩ := x
    simp only [set]
    by_cases h1 : k = i
    · simp [h1, set]
    · by_cases h2 : i < k
      · simp [h1, h2, set]
      · simp [h1, h2, set, ih]

end NMap

namespace Machine

variable {α : Type}

theorem rising_tail {x : Nat × α} {m : List (Nat × α)} (h : rising (x :: m) = true) : rising m = true := by
  cases m with
  | nil => rfl
  | cons y m => simp [rising] at h; exact h.2

/-- Every key of a rising list is above the first. -/
theorem rising_above {k : Nat} {v : α} {m : List (Nat × α)} (h : rising ((k, v) :: m) = true) : ∀ x ∈ m, k < x.1 := by
  induction m generalizing k v with
  | nil => simp
  | cons y m ih =>
    obtain ⟨j, w⟩ := y
    simp only [rising, Bool.and_eq_true, decide_eq_true_eq] at h
    intro x hx
    rcases List.mem_cons.1 hx with rfl | hx
    · exact h.1
    · exact Nat.lt_trans h.1 (ih h.2 x hx)

theorem rising_cons {k : Nat} {v : α} {m : List (Nat × α)} (h : rising m = true) (hk : ∀ x ∈ m, k < x.1) :
    rising ((k, v) :: m) = true := by
  cases m with
  | nil => rfl
  | cons y m =>
    obtain ⟨j, w⟩ := y
    simp only [rising, Bool.and_eq_true, decide_eq_true_eq]
    exact ⟨hk (j, w) (by simp), h⟩

theorem mem_set {m : List (Nat × α)} {i : Nat} {v : α} {x : Nat × α} (h : x ∈ NMap.set m i v) : x = (i, v) ∨ x ∈ m := by
  induction m with
  | nil => simpa [NMap.set] using h
  | cons y m ih =>
    obtain ⟨k, w⟩ := y
    simp only [NMap.set] at h
    split at h
    · rcases List.mem_cons.1 h with h | h
      · exact .inl h
      · exact .inr (List.mem_cons_of_mem _ h)
    · split at h
      · rcases List.mem_cons.1 h with h | h
        · exact .inl h
        · exact .inr h
      · rcases List.mem_cons.1 h with h | h
        · exact .inr (h ▸ List.mem_cons_self)
        · rcases ih h with h | h
          · exact .inl h
          · exact .inr (List.mem_cons_of_mem _ h)

theorem mem_del {m : List (Nat × α)} {i : Nat} {x : Nat × α} (h : x ∈ NMap.del m i) : x ∈ m := by
  induction m with
  | nil => exact h
  | cons y m ih =>
    obtain ⟨k, w⟩ := y
    simp only [NMap.del] at h
    split at h
    · exact List.mem_cons_of_mem _ (ih h)
    · rcases List.mem_cons.1 h with h | h
      · exact h ▸ List.mem_cons_self
      · exact List.mem_cons_of_mem _ (ih h)

/-- Setting an entry keeps the keys rising. -/
theorem rising_set {m : List (Nat × α)} (h : rising m = true) (i : Nat) (v : α) : rising (NMap.set m i v) = true := by
  induction m with
  | nil => rfl
  | cons y m ih =>
    obtain ⟨k, w⟩ := y
    have above := rising_above h
    have tail := rising_tail h
    simp only [NMap.set]
    split
    · subst k; exact rising_cons tail above
    · split
      · rename_i hik
        refine rising_cons h fun x hx => ?_
        rcases List.mem_cons.1 hx with rfl | hx
        · exact hik
        · exact Nat.lt_trans hik (above x hx)
      · rename_i hne hlt
        refine rising_cons (ih tail) fun x hx => ?_
        rcases mem_set hx with rfl | hx
        · simp only; omega
        · exact above x hx

/-- Deleting an entry keeps the keys rising. -/
theorem rising_del {m : List (Nat × α)} (h : rising m = true) (i : Nat) : rising (NMap.del m i) = true := by
  induction m with
  | nil => rfl
  | cons y m ih =>
    obtain ⟨k, w⟩ := y
    simp only [NMap.del]
    split
    · exact ih (rising_tail h)
    · exact rising_cons (ih (rising_tail h)) fun x hx => rising_above h x (mem_del hx)

end Machine

end Sys2Proof
end

