-- ==== Sys2Proof/Laws/Memory.lean ====
section
/-! SUPPORT. The laws of memory: a read after a write, and the canonical form that every memory operation keeps. -/

namespace Sys2Proof.Machine

theorem wordOf_byteOf (v : BitVec 32) : wordOf (byteOf v 0) (byteOf v 1) (byteOf v 2) (byteOf v 3) = v := by
  apply BitVec.eq_of_getLsbD_eq
  intro i hi
  simp only [wordOf, byteOf, BitVec.getLsbD_append, BitVec.getLsbD_extractLsb']
  by_cases h0 : i < 8
  · simp [h0]
  · by_cases h1 : i < 16
    · have : i - 8 < 8 := by omega
      simp [h0, this, show 8 + (i - 8) = i by omega]
    · by_cases h2 : i < 24
      · have a : ¬ i - 8 < 8 := by omega
        have b : i - 8 - 8 < 8 := by omega
        simp [h0, a, b, show 16 + (i - 8 - 8) = i by omega]
      · have a : ¬ i - 8 < 8 := by omega
        have b : ¬ i - 8 - 8 < 8 := by omega
        have c : i - 8 - 8 - 8 < 8 := by omega
        simp [h0, a, b, c, show 24 + (i - 8 - 8 - 8) = i by omega]

theorem find_putCell_same (alt : Bool) (l : List Host.Cell) (a : Nat) (b : Byte) :
    (NMap.find (putCell alt l a b) a).getD (Mem.blank alt a) = b := by
  unfold putCell
  split
  · rename_i h
    simp at h
    simp [Mem.blank, h]
  · simp

theorem find_putCell_ne (alt : Bool) (l : List Host.Cell) {a c : Nat} (h : a ≠ c) (b : Byte) :
    NMap.find (putCell alt l a b) c = NMap.find l c := by
  unfold putCell
  split
  · exact NMap.find_del_ne _ h
  · exact NMap.find_set_ne _ h _

theorem Mem.byte_put (alt : Bool) (m : Mem) (a : Nat) (w : CW) (b : Nat) :
    (m.put alt a w).byte alt b = if b / 4 = a / 4 then byteOf w.v (b % 4) else m.byte alt b := by
  have f (l : List Host.Cell) (x : Nat) (v : Byte) : (NMap.find (putCell alt l x v) b).getD (Mem.blank alt b) =
      if b = x then v else (NMap.find l b).getD (Mem.blank alt b) := by
    by_cases h : b = x
    · subst h; simp [find_putCell_same]
    · simp [h, find_putCell_ne alt l (Ne.symm h)]
  simp only [Mem.put, Mem.byte, f]
  by_cases h : b / 4 = a / 4
  · rw [if_pos h]
    have hb : b = 4 * (a / 4) + b % 4 := by omega
    have hr : b % 4 < 4 := Nat.mod_lt _ (by decide)
    generalize b % 4 = r at hb hr
    have : r = 0 ∨ r = 1 ∨ r = 2 ∨ r = 3 := by omega
    rcases this with rfl | rfl | rfl | rfl <;> simp [hb]
  · rw [if_neg h, if_neg (by omega), if_neg (by omega), if_neg (by omega), if_neg (by omega)]

theorem Mem.value_put (alt : Bool) (m : Mem) (a : Nat) (w : CW) (k : Nat) :
    (m.put alt a w).value alt k = if k = a / 4 then w.v else m.value alt k := by
  simp only [Mem.value, Mem.byte_put]
  by_cases h : k = a / 4
  · rw [if_pos h, if_pos (by omega), if_pos (by omega), if_pos (by omega), if_pos (by omega),
      show 4 * k % 4 = 0 by omega, show (4 * k + 1) % 4 = 1 by omega, show (4 * k + 2) % 4 = 2 by omega,
      show (4 * k + 3) % 4 = 3 by omega, wordOf_byteOf]
  · rw [if_neg h, if_neg (by omega), if_neg (by omega), if_neg (by omega), if_neg (by omega)]

/-- Reading the word that was written gives it back, code and all. -/
theorem Mem.word_put_same (alt : Bool) (m : Mem) {a b : Nat} (h : b / 4 = a / 4) (w : CW) : (m.put alt a w).word alt b = w := by
  have hv := m.value_put alt a w (b / 4)
  rw [if_pos h] at hv
  simp only [Mem.word, hv]
  simp only [Mem.put, h]
  by_cases hc : w.c = lcc w.v
  · rw [if_pos hc]; simp [← hc]
  · rw [if_neg hc]; simp

/-- A write leaves every other word as it was. -/
theorem Mem.word_put_ne (alt : Bool) (m : Mem) {a b : Nat} (h : b / 4 ≠ a / 4) (w : CW) :
    (m.put alt a w).word alt b = m.word alt b := by
  have hv := m.value_put alt a w (b / 4)
  rw [if_neg h] at hv
  simp only [Mem.word, hv]
  congr 2
  simp only [Mem.put]
  split
  · exact NMap.find_del_ne _ (Ne.symm h)
  · exact NMap.find_set_ne _ (Ne.symm h) _

theorem mem_putCell {alt : Bool} {l : List Host.Cell} {a : Nat} {b : Byte} {c : Host.Cell} (h : c ∈ putCell alt l a b) :
    (c = (a, b) ∧ (alt = true ∨ b ≠ Config.blankByte)) ∨ c ∈ l := by
  unfold putCell at h
  split at h
  · exact .inr (mem_del h)
  · rename_i hb
    rcases mem_set h with h | h
    · refine .inl ⟨h, ?_⟩
      cases alt <;> simp_all
    · exact .inr h

theorem rising_putCell {alt : Bool} {l : List Host.Cell} (h : rising l = true) (a : Nat) (b : Byte) :
    rising (putCell alt l a b) = true := by
  unfold putCell
  split
  · exact rising_del h a
  · exact rising_set h a b

theorem blank_putCell {alt : Bool} {l : List Host.Cell} (h : (alt || l.all fun c => c.2 != Config.blankByte) = true) (a : Nat)
    (b : Byte) : (alt || (putCell alt l a b).all fun c => c.2 != Config.blankByte) = true := by
  cases alt with
  | true => rfl
  | false =>
    simp only [Bool.false_or, List.all_eq_true, bne_iff_ne] at h ⊢
    intro c hc
    rcases mem_putCell hc with ⟨rfl, h'⟩ | hc
    · simpa using h'
    · exact h c hc

/-- A listed key of a map from which `i` was deleted is not `i`. -/
theorem ne_of_mem_del {α : Type} {m : NMap α} {i : Nat} {x : Nat × α} (h : x ∈ NMap.del m i) : x.1 ≠ i := by
  induction m with
  | nil => simp [NMap.del] at h
  | cons y m ih =>
    obtain ⟨k, w⟩ := y
    simp only [NMap.del] at h
    split at h
    · exact ih h
    · rename_i hk
      rcases List.mem_cons.1 h with rfl | h
      · exact hk
      · exact ih h

/-- Of a rising map, an entry that stays beside the one set has another key. -/
theorem ne_or_eq_of_mem_set {α : Type} {m : NMap α} (hm : rising m = true) {i : Nat} {v : α} {x : Nat × α}
    (h : x ∈ NMap.set m i v) : x = (i, v) ∨ (x ∈ m ∧ x.1 ≠ i) := by
  have hs := rising_set hm i v
  rcases mem_set h with h' | h'
  · exact .inl h'
  · by_cases hx : x.1 = i
    · refine .inl ?_
      have key : ∀ l : NMap α, rising l = true → ∀ y ∈ l, NMap.find l y.1 = some y.2 := by
        intro l hl
        induction l with
        | nil => simp
        | cons z l ih =>
          obtain ⟨k, w⟩ := z
          intro y hy
          rcases List.mem_cons.1 hy with rfl | hy
          · simp [NMap.find_cons]
          · have := rising_above hl y hy
            rw [NMap.find_cons, if_neg (by omega)]
            exact ih (rising_tail hl) y hy
      have e := key _ hs x h
      rw [hx, NMap.find_set_same] at e
      obtain ⟨k, w⟩ := x
      simp at hx e
      simp [hx, e]
    · exact .inr ⟨h', hx⟩

/-- A write keeps a face in its canonical form. -/
theorem Mem.wf_put {alt : Bool} {m : Mem} (h : m.wf alt = true) (a : Nat) (w : CW) : (m.put alt a w).wf alt = true := by
  simp only [Mem.wf, Bool.and_eq_true] at h ⊢
  obtain ⟨⟨⟨h1, h2⟩, h3⟩, h4⟩ := h
  refine ⟨⟨⟨?_, ?_⟩, ?_⟩, ?_⟩
  · exact rising_putCell (rising_putCell (rising_putCell (rising_putCell h1 _ _) _ _) _ _) _ _
  · exact blank_putCell (blank_putCell (blank_putCell (blank_putCell h2 _ _) _ _) _ _) _ _
  · simp only [Mem.put]
    split
    · exact rising_del h3 _
    · exact rising_set h3 _ _
  · simp only [List.all_eq_true, bne_iff_ne] at h4 ⊢
    intro c hc
    rw [Mem.value_put]
    simp only [Mem.put] at hc
    split at hc
    · rw [if_neg (ne_of_mem_del hc)]; exact h4 c (mem_del hc)
    · rename_i hne
      rcases ne_or_eq_of_mem_set h3 hc with rfl | ⟨hm, hk⟩
      · rw [if_pos rfl]; exact hne
      · rw [if_neg hk]; exact h4 c hm

/-! ### Physical memory -/

theorem Phys.second_put (p : Phys) (hidden : Bool) (a : Nat) (w : CW) (x : Bool) (b : Nat) :
    (p.put hidden a w).second x b = p.second x b := by
  unfold Phys.put; split <;> rfl

theorem Phys.wf_put {p : Phys} (h : p.wf = true) (hidden : Bool) (a : Nat) (w : CW) : (p.put hidden a w).wf = true := by
  simp only [Phys.wf, Bool.and_eq_true] at h
  unfold Phys.put
  split <;> simp only [Phys.wf, Bool.and_eq_true]
  · exact ⟨⟨h.1.1, Mem.wf_put h.1.2 a w⟩, h.2⟩
  · exact ⟨⟨Mem.wf_put h.1.1 a w, h.1.2⟩, h.2⟩

/-- A word read back from the face it was written to. -/
theorem Phys.word_put_same (p : Phys) (hidden : Bool) (a : Nat) (w : CW) : (p.put hidden a w).word hidden a = w := by
  unfold Phys.word
  rw [Phys.second_put]
  unfold Phys.put
  split
  · simp only [Mem.word_put_same]
  · simp only [Mem.word_put_same]

/-- A write leaves every other word of that face as it was. -/
theorem Phys.word_put_ne (p : Phys) (hidden : Bool) {a b : Nat} (h : b / 4 ≠ a / 4) (w : CW) (x : Bool) :
    (p.put hidden a w).word x b = p.word x b := by
  unfold Phys.word
  rw [Phys.second_put]
  unfold Phys.put
  split <;> split <;> simp [Mem.word_put_ne _ _ h]

/-- A write to one face leaves the other face as it was. -/
theorem Phys.word_put_face (p : Phys) (hidden : Bool) (a b : Nat) (w : CW) (h : b / 65536 = a / 65536) :
    (p.put hidden a w).word (!hidden) b = p.word (!hidden) b := by
  unfold Phys.word
  rw [Phys.second_put]
  have e : p.second (!hidden) b = !(p.second hidden a) := by
    unfold Phys.second; rw [h]; cases (NMap.find p.flipped (a / 65536)).isSome <;> cases hidden <;> rfl
  rw [e]
  unfold Phys.put
  cases p.second hidden a <;> simp

theorem Phys.wf_flip {p : Phys} (h : p.wf = true) (f : Nat) : (p.flip f).wf = true := by
  simp only [Phys.wf, Phys.flip, Bool.and_eq_true] at h ⊢
  refine ⟨h.1, ?_⟩
  split
  · exact rising_del h.2 f
  · exact rising_set h.2 f ()

theorem Phys.wf_putDword {p : Phys} (h : p.wf = true) (a : Nat) (v : Word) : (p.putDword a v).wf = true :=
  Phys.wf_put (Phys.wf_put h _ _ _) _ _ _

/-- A fold whose every step keeps a property keeps it. -/
theorem foldl_keeps {α β : Type} (P : α → Prop) (f : α → β → α) (h : ∀ a b, P a → P (f a b)) (l : List β) :
    ∀ a, P a → P (l.foldl f a) := by
  induction l with
  | nil => intro a ha; exact ha
  | cons b l ih => intro a ha; exact ih _ (h a b ha)

theorem Phys.wf_putNum {p : Phys} (h : p.wf = true) (a n v : Nat) : (p.putNum a n v).wf = true :=
  foldl_keeps (fun q : Phys => q.wf = true) _ (fun _ _ hq => Phys.wf_put hq _ _ _) _ p h

/-- A flip exchanges the two faces of its frame. -/
theorem Phys.word_flip (p : Phys) (f : Nat) (x : Bool) (b : Nat) (h : b / 65536 = f) : (p.flip f).word x b = p.word (!x) b := by
  unfold Phys.word Phys.second Phys.flip
  subst h
  by_cases hf : (NMap.find p.flipped (b / 65536)).isSome = true
  · simp only [hf, if_true, NMap.find_del_same]; cases x <;> rfl
  · simp only [if_neg hf, NMap.find_set_same]; simp only [Bool.not_eq_true] at hf; rw [hf]; cases x <;> rfl

/-- It leaves every other frame as it was. -/
theorem Phys.word_flip_ne (p : Phys) (f : Nat) (x : Bool) (b : Nat) (h : b / 65536 ≠ f) : (p.flip f).word x b = p.word x b := by
  unfold Phys.word Phys.second Phys.flip
  by_cases hf : (NMap.find p.flipped f).isSome = true
  · simp only [if_pos hf, NMap.find_del_ne _ (Ne.symm h)]
  · simp only [if_neg hf, NMap.find_set_ne _ (Ne.symm h)]

/-- A byte of memory is the byte of the word that holds it. -/
theorem Phys.byteOf_word (p : Phys) (a : Nat) : byteOf (p.word false a).v (a % 4) = p.byte a := by
  have h : ∀ (alt : Bool) (m : Mem), byteOf (m.word alt a).v (a % 4) = m.byte alt a := by
    intro alt m
    have hr : a % 4 = 0 ∨ a % 4 = 1 ∨ a % 4 = 2 ∨ a % 4 = 3 := by omega
    have ha : a = 4 * (a / 4) + a % 4 := by omega
    have hb : byteOf (wordOf (m.byte alt (4 * (a / 4))) (m.byte alt (4 * (a / 4) + 1)) (m.byte alt (4 * (a / 4) + 2))
        (m.byte alt (4 * (a / 4) + 3))) (a % 4) = m.byte alt (4 * (a / 4) + a % 4) := by
      rcases hr with h | h | h | h <;> rw [h] <;> apply BitVec.eq_of_getLsbD_eq <;> intro i hi <;>
        simp only [byteOf, wordOf, BitVec.getLsbD_extractLsb', BitVec.getLsbD_append, hi, decide_true, Bool.true_and]
      · simp [hi]
      · simp [show ¬ 8 * 1 + i < 8 by omega, show 8 * 1 + i - 8 = i by omega]; omega
      · simp [show ¬ 8 * 2 + i < 8 by omega, show ¬ 8 * 2 + i - 8 < 8 by omega, show 8 * 2 + i - 8 - 8 = i by omega]; omega
      · simp [show ¬ 8 * 3 + i < 8 by omega, show ¬ 8 * 3 + i - 8 < 8 by omega, show ¬ 8 * 3 + i - 8 - 8 < 8 by omega,
          show 8 * 3 + i - 8 - 8 - 8 = i by omega]
    rw [← ha] at hb; exact hb
  unfold Phys.word Phys.byte; split <;> exact h _ _

end Sys2Proof.Machine
end

