-- ==== Sys2Proof/Laws/State.lean ====
section
/-! SUPPORT. What each update of the state leaves as it was: one lemma for each field of each update. -/

namespace Sys2Proof.Machine

@[simp] theorem State.setSeqOf_cur (s : State) (a : Nat) (q : Seq) : (s.setSeqOf a q).cur = s.cur := rfl
@[simp] theorem State.setSeqOf_agenda (s : State) (a : Nat) (q : Seq) : (s.setSeqOf a q).agenda = s.agenda := rfl
@[simp] theorem State.setSeqOf_evt (s : State) (a : Nat) (q : Seq) : (s.setSeqOf a q).evt = s.evt := rfl
@[simp] theorem State.setSeqOf_fresh (s : State) (a : Nat) (q : Seq) : (s.setSeqOf a q).fresh = s.fresh := rfl
@[simp] theorem State.setSeqOf_tempo (s : State) (a : Nat) (q : Seq) : (s.setSeqOf a q).tempo = s.tempo := rfl
@[simp] theorem State.setSeqOf_views (s : State) (a : Nat) (q : Seq) : (s.setSeqOf a q).views = s.views := rfl
@[simp] theorem State.setSeqOf_plots (s : State) (a : Nat) (q : Seq) : (s.setSeqOf a q).plots = s.plots := rfl
@[simp] theorem State.setSeqOf_acres (s : State) (a : Nat) (q : Seq) : (s.setSeqOf a q).acres = s.acres := rfl
@[simp] theorem State.setSeqOf_phys (s : State) (a : Nat) (q : Seq) : (s.setSeqOf a q).phys = s.phys := rfl
@[simp] theorem State.setSeqOf_misses (s : State) (a : Nat) (q : Seq) : (s.setSeqOf a q).misses = s.misses := rfl
@[simp] theorem State.setSeqOf_windows (s : State) (a : Nat) (q : Seq) : (s.setSeqOf a q).windows = s.windows := rfl
@[simp] theorem State.setSeqOf_winMisses (s : State) (a : Nat) (q : Seq) : (s.setSeqOf a q).winMisses = s.winMisses := rfl
@[simp] theorem State.setSeqOf_fwins (s : State) (a : Nat) (q : Seq) : (s.setSeqOf a q).fwins = s.fwins := rfl
@[simp] theorem State.setSeqOf_cache (s : State) (a : Nat) (q : Seq) : (s.setSeqOf a q).cache = s.cache := rfl
@[simp] theorem State.setSeqOf_poisoned (s : State) (a : Nat) (q : Seq) : (s.setSeqOf a q).poisoned = s.poisoned := rfl
@[simp] theorem State.setSeqOf_tiles (s : State) (a : Nat) (q : Seq) : (s.setSeqOf a q).tiles = s.tiles := rfl
@[simp] theorem State.setSeqOf_flips (s : State) (a : Nat) (q : Seq) : (s.setSeqOf a q).flips = s.flips := rfl
@[simp] theorem State.setSeqOf_flight (s : State) (a : Nat) (q : Seq) : (s.setSeqOf a q).flight = s.flight := rfl
@[simp] theorem State.setSeqOf_det (s : State) (a : Nat) (q : Seq) : (s.setSeqOf a q).det = s.det := rfl
@[simp] theorem State.setSeqOf_epBytes (s : State) (a : Nat) (q : Seq) : (s.setSeqOf a q).epBytes = s.epBytes := rfl
@[simp] theorem State.setSeqOf_areas (s : State) (a : Nat) (q : Seq) : (s.setSeqOf a q).areas = s.areas := rfl
@[simp] theorem State.setSeqOf_sched (s : State) (a : Nat) (q : Seq) : (s.setSeqOf a q).sched = s.sched := rfl
@[simp] theorem State.setSeqOf_fabric (s : State) (a : Nat) (q : Seq) : (s.setSeqOf a q).fabric = s.fabric := rfl
@[simp] theorem State.setSeqOf_obs (s : State) (a : Nat) (q : Seq) : (s.setSeqOf a q).obs = s.obs := rfl
@[simp] theorem State.setSeqOf_host (s : State) (a : Nat) (q : Seq) : (s.setSeqOf a q).host = s.host := rfl
@[simp] theorem State.setSeqOf_power (s : State) (a : Nat) (q : Seq) : (s.setSeqOf a q).power = s.power := rfl
@[simp] theorem State.setSeqOf_hubRegs (s : State) (a : Nat) (q : Seq) : (s.setSeqOf a q).hubRegs = s.hubRegs := rfl

@[simp] theorem State.setPlot_cur (s : State) (a : Nat) (p : Plot) : (s.setPlot a p).cur = s.cur := rfl
@[simp] theorem State.setPlot_agenda (s : State) (a : Nat) (p : Plot) : (s.setPlot a p).agenda = s.agenda := rfl
@[simp] theorem State.setPlot_evt (s : State) (a : Nat) (p : Plot) : (s.setPlot a p).evt = s.evt := rfl
@[simp] theorem State.setPlot_fresh (s : State) (a : Nat) (p : Plot) : (s.setPlot a p).fresh = s.fresh := rfl
@[simp] theorem State.setPlot_tempo (s : State) (a : Nat) (p : Plot) : (s.setPlot a p).tempo = s.tempo := rfl
@[simp] theorem State.setPlot_seqs (s : State) (a : Nat) (p : Plot) : (s.setPlot a p).seqs = s.seqs := rfl
@[simp] theorem State.setPlot_views (s : State) (a : Nat) (p : Plot) : (s.setPlot a p).views = s.views := rfl
@[simp] theorem State.setPlot_acres (s : State) (a : Nat) (p : Plot) : (s.setPlot a p).acres = s.acres := rfl
@[simp] theorem State.setPlot_phys (s : State) (a : Nat) (p : Plot) : (s.setPlot a p).phys = s.phys := rfl
@[simp] theorem State.setPlot_misses (s : State) (a : Nat) (p : Plot) : (s.setPlot a p).misses = s.misses := rfl
@[simp] theorem State.setPlot_windows (s : State) (a : Nat) (p : Plot) : (s.setPlot a p).windows = s.windows := rfl
@[simp] theorem State.setPlot_winMisses (s : State) (a : Nat) (p : Plot) : (s.setPlot a p).winMisses = s.winMisses := rfl
@[simp] theorem State.setPlot_fwins (s : State) (a : Nat) (p : Plot) : (s.setPlot a p).fwins = s.fwins := rfl
@[simp] theorem State.setPlot_cache (s : State) (a : Nat) (p : Plot) : (s.setPlot a p).cache = s.cache := rfl
@[simp] theorem State.setPlot_poisoned (s : State) (a : Nat) (p : Plot) : (s.setPlot a p).poisoned = s.poisoned := rfl
@[simp] theorem State.setPlot_tiles (s : State) (a : Nat) (p : Plot) : (s.setPlot a p).tiles = s.tiles := rfl
@[simp] theorem State.setPlot_flips (s : State) (a : Nat) (p : Plot) : (s.setPlot a p).flips = s.flips := rfl
@[simp] theorem State.setPlot_flight (s : State) (a : Nat) (p : Plot) : (s.setPlot a p).flight = s.flight := rfl
@[simp] theorem State.setPlot_det (s : State) (a : Nat) (p : Plot) : (s.setPlot a p).det = s.det := rfl
@[simp] theorem State.setPlot_epBytes (s : State) (a : Nat) (p : Plot) : (s.setPlot a p).epBytes = s.epBytes := rfl
@[simp] theorem State.setPlot_areas (s : State) (a : Nat) (p : Plot) : (s.setPlot a p).areas = s.areas := rfl
@[simp] theorem State.setPlot_sched (s : State) (a : Nat) (p : Plot) : (s.setPlot a p).sched = s.sched := rfl
@[simp] theorem State.setPlot_fabric (s : State) (a : Nat) (p : Plot) : (s.setPlot a p).fabric = s.fabric := rfl
@[simp] theorem State.setPlot_obs (s : State) (a : Nat) (p : Plot) : (s.setPlot a p).obs = s.obs := rfl
@[simp] theorem State.setPlot_host (s : State) (a : Nat) (p : Plot) : (s.setPlot a p).host = s.host := rfl
@[simp] theorem State.setPlot_power (s : State) (a : Nat) (p : Plot) : (s.setPlot a p).power = s.power := rfl
@[simp] theorem State.setPlot_hubRegs (s : State) (a : Nat) (p : Plot) : (s.setPlot a p).hubRegs = s.hubRegs := rfl

@[simp] theorem State.setView_cur (s : State) (a : Nat) (v : View) : (s.setView a v).cur = s.cur := rfl
@[simp] theorem State.setView_agenda (s : State) (a : Nat) (v : View) : (s.setView a v).agenda = s.agenda := rfl
@[simp] theorem State.setView_evt (s : State) (a : Nat) (v : View) : (s.setView a v).evt = s.evt := rfl
@[simp] theorem State.setView_fresh (s : State) (a : Nat) (v : View) : (s.setView a v).fresh = s.fresh := rfl
@[simp] theorem State.setView_tempo (s : State) (a : Nat) (v : View) : (s.setView a v).tempo = s.tempo := rfl
@[simp] theorem State.setView_seqs (s : State) (a : Nat) (v : View) : (s.setView a v).seqs = s.seqs := rfl
@[simp] theorem State.setView_plots (s : State) (a : Nat) (v : View) : (s.setView a v).plots = s.plots := rfl
@[simp] theorem State.setView_acres (s : State) (a : Nat) (v : View) : (s.setView a v).acres = s.acres := rfl
@[simp] theorem State.setView_phys (s : State) (a : Nat) (v : View) : (s.setView a v).phys = s.phys := rfl
@[simp] theorem State.setView_misses (s : State) (a : Nat) (v : View) : (s.setView a v).misses = s.misses := rfl
@[simp] theorem State.setView_windows (s : State) (a : Nat) (v : View) : (s.setView a v).windows = s.windows := rfl
@[simp] theorem State.setView_winMisses (s : State) (a : Nat) (v : View) : (s.setView a v).winMisses = s.winMisses := rfl
@[simp] theorem State.setView_fwins (s : State) (a : Nat) (v : View) : (s.setView a v).fwins = s.fwins := rfl
@[simp] theorem State.setView_cache (s : State) (a : Nat) (v : View) : (s.setView a v).cache = s.cache := rfl
@[simp] theorem State.setView_poisoned (s : State) (a : Nat) (v : View) : (s.setView a v).poisoned = s.poisoned := rfl
@[simp] theorem State.setView_tiles (s : State) (a : Nat) (v : View) : (s.setView a v).tiles = s.tiles := rfl
@[simp] theorem State.setView_flips (s : State) (a : Nat) (v : View) : (s.setView a v).flips = s.flips := rfl
@[simp] theorem State.setView_flight (s : State) (a : Nat) (v : View) : (s.setView a v).flight = s.flight := rfl
@[simp] theorem State.setView_det (s : State) (a : Nat) (v : View) : (s.setView a v).det = s.det := rfl
@[simp] theorem State.setView_epBytes (s : State) (a : Nat) (v : View) : (s.setView a v).epBytes = s.epBytes := rfl
@[simp] theorem State.setView_areas (s : State) (a : Nat) (v : View) : (s.setView a v).areas = s.areas := rfl
@[simp] theorem State.setView_sched (s : State) (a : Nat) (v : View) : (s.setView a v).sched = s.sched := rfl
@[simp] theorem State.setView_fabric (s : State) (a : Nat) (v : View) : (s.setView a v).fabric = s.fabric := rfl
@[simp] theorem State.setView_obs (s : State) (a : Nat) (v : View) : (s.setView a v).obs = s.obs := rfl
@[simp] theorem State.setView_host (s : State) (a : Nat) (v : View) : (s.setView a v).host = s.host := rfl
@[simp] theorem State.setView_power (s : State) (a : Nat) (v : View) : (s.setView a v).power = s.power := rfl
@[simp] theorem State.setView_hubRegs (s : State) (a : Nat) (v : View) : (s.setView a v).hubRegs = s.hubRegs := rfl

@[simp] theorem State.setAcre_cur (s : State) (k : Nat) (x : Acre) : (s.setAcre k x).cur = s.cur := rfl
@[simp] theorem State.setAcre_agenda (s : State) (k : Nat) (x : Acre) : (s.setAcre k x).agenda = s.agenda := rfl
@[simp] theorem State.setAcre_evt (s : State) (k : Nat) (x : Acre) : (s.setAcre k x).evt = s.evt := rfl
@[simp] theorem State.setAcre_fresh (s : State) (k : Nat) (x : Acre) : (s.setAcre k x).fresh = s.fresh := rfl
@[simp] theorem State.setAcre_tempo (s : State) (k : Nat) (x : Acre) : (s.setAcre k x).tempo = s.tempo := rfl
@[simp] theorem State.setAcre_seqs (s : State) (k : Nat) (x : Acre) : (s.setAcre k x).seqs = s.seqs := rfl
@[simp] theorem State.setAcre_views (s : State) (k : Nat) (x : Acre) : (s.setAcre k x).views = s.views := rfl
@[simp] theorem State.setAcre_plots (s : State) (k : Nat) (x : Acre) : (s.setAcre k x).plots = s.plots := rfl
@[simp] theorem State.setAcre_phys (s : State) (k : Nat) (x : Acre) : (s.setAcre k x).phys = s.phys := rfl
@[simp] theorem State.setAcre_misses (s : State) (k : Nat) (x : Acre) : (s.setAcre k x).misses = s.misses := rfl
@[simp] theorem State.setAcre_windows (s : State) (k : Nat) (x : Acre) : (s.setAcre k x).windows = s.windows := rfl
@[simp] theorem State.setAcre_winMisses (s : State) (k : Nat) (x : Acre) : (s.setAcre k x).winMisses = s.winMisses := rfl
@[simp] theorem State.setAcre_fwins (s : State) (k : Nat) (x : Acre) : (s.setAcre k x).fwins = s.fwins := rfl
@[simp] theorem State.setAcre_cache (s : State) (k : Nat) (x : Acre) : (s.setAcre k x).cache = s.cache := rfl
@[simp] theorem State.setAcre_poisoned (s : State) (k : Nat) (x : Acre) : (s.setAcre k x).poisoned = s.poisoned := rfl
@[simp] theorem State.setAcre_tiles (s : State) (k : Nat) (x : Acre) : (s.setAcre k x).tiles = s.tiles := rfl
@[simp] theorem State.setAcre_flips (s : State) (k : Nat) (x : Acre) : (s.setAcre k x).flips = s.flips := rfl
@[simp] theorem State.setAcre_flight (s : State) (k : Nat) (x : Acre) : (s.setAcre k x).flight = s.flight := rfl
@[simp] theorem State.setAcre_det (s : State) (k : Nat) (x : Acre) : (s.setAcre k x).det = s.det := rfl
@[simp] theorem State.setAcre_epBytes (s : State) (k : Nat) (x : Acre) : (s.setAcre k x).epBytes = s.epBytes := rfl
@[simp] theorem State.setAcre_areas (s : State) (k : Nat) (x : Acre) : (s.setAcre k x).areas = s.areas := rfl
@[simp] theorem State.setAcre_sched (s : State) (k : Nat) (x : Acre) : (s.setAcre k x).sched = s.sched := rfl
@[simp] theorem State.setAcre_fabric (s : State) (k : Nat) (x : Acre) : (s.setAcre k x).fabric = s.fabric := rfl
@[simp] theorem State.setAcre_obs (s : State) (k : Nat) (x : Acre) : (s.setAcre k x).obs = s.obs := rfl
@[simp] theorem State.setAcre_host (s : State) (k : Nat) (x : Acre) : (s.setAcre k x).host = s.host := rfl
@[simp] theorem State.setAcre_power (s : State) (k : Nat) (x : Acre) : (s.setAcre k x).power = s.power := rfl
@[simp] theorem State.setAcre_hubRegs (s : State) (k : Nat) (x : Acre) : (s.setAcre k x).hubRegs = s.hubRegs := rfl

@[simp] theorem State.modSched_cur (s : State) (f : Sched → Sched) : (s.modSched f).cur = s.cur := rfl
@[simp] theorem State.modSched_agenda (s : State) (f : Sched → Sched) : (s.modSched f).agenda = s.agenda := rfl
@[simp] theorem State.modSched_evt (s : State) (f : Sched → Sched) : (s.modSched f).evt = s.evt := rfl
@[simp] theorem State.modSched_fresh (s : State) (f : Sched → Sched) : (s.modSched f).fresh = s.fresh := rfl
@[simp] theorem State.modSched_tempo (s : State) (f : Sched → Sched) : (s.modSched f).tempo = s.tempo := rfl
@[simp] theorem State.modSched_seqs (s : State) (f : Sched → Sched) : (s.modSched f).seqs = s.seqs := rfl
@[simp] theorem State.modSched_views (s : State) (f : Sched → Sched) : (s.modSched f).views = s.views := rfl
@[simp] theorem State.modSched_plots (s : State) (f : Sched → Sched) : (s.modSched f).plots = s.plots := rfl
@[simp] theorem State.modSched_acres (s : State) (f : Sched → Sched) : (s.modSched f).acres = s.acres := rfl
@[simp] theorem State.modSched_phys (s : State) (f : Sched → Sched) : (s.modSched f).phys = s.phys := rfl
@[simp] theorem State.modSched_misses (s : State) (f : Sched → Sched) : (s.modSched f).misses = s.misses := rfl
@[simp] theorem State.modSched_windows (s : State) (f : Sched → Sched) : (s.modSched f).windows = s.windows := rfl
@[simp] theorem State.modSched_winMisses (s : State) (f : Sched → Sched) : (s.modSched f).winMisses = s.winMisses := rfl
@[simp] theorem State.modSched_fwins (s : State) (f : Sched → Sched) : (s.modSched f).fwins = s.fwins := rfl
@[simp] theorem State.modSched_cache (s : State) (f : Sched → Sched) : (s.modSched f).cache = s.cache := rfl
@[simp] theorem State.modSched_poisoned (s : State) (f : Sched → Sched) : (s.modSched f).poisoned = s.poisoned := rfl
@[simp] theorem State.modSched_tiles (s : State) (f : Sched → Sched) : (s.modSched f).tiles = s.tiles := rfl
@[simp] theorem State.modSched_flips (s : State) (f : Sched → Sched) : (s.modSched f).flips = s.flips := rfl
@[simp] theorem State.modSched_flight (s : State) (f : Sched → Sched) : (s.modSched f).flight = s.flight := rfl
@[simp] theorem State.modSched_det (s : State) (f : Sched → Sched) : (s.modSched f).det = s.det := rfl
@[simp] theorem State.modSched_epBytes (s : State) (f : Sched → Sched) : (s.modSched f).epBytes = s.epBytes := rfl
@[simp] theorem State.modSched_areas (s : State) (f : Sched → Sched) : (s.modSched f).areas = s.areas := rfl
@[simp] theorem State.modSched_fabric (s : State) (f : Sched → Sched) : (s.modSched f).fabric = s.fabric := rfl
@[simp] theorem State.modSched_obs (s : State) (f : Sched → Sched) : (s.modSched f).obs = s.obs := rfl
@[simp] theorem State.modSched_host (s : State) (f : Sched → Sched) : (s.modSched f).host = s.host := rfl
@[simp] theorem State.modSched_power (s : State) (f : Sched → Sched) : (s.modSched f).power = s.power := rfl
@[simp] theorem State.modSched_hubRegs (s : State) (f : Sched → Sched) : (s.modSched f).hubRegs = s.hubRegs := rfl

@[simp] theorem State.modFabric_cur (s : State) (f : Fabric → Fabric) : (s.modFabric f).cur = s.cur := rfl
@[simp] theorem State.modFabric_agenda (s : State) (f : Fabric → Fabric) : (s.modFabric f).agenda = s.agenda := rfl
@[simp] theorem State.modFabric_evt (s : State) (f : Fabric → Fabric) : (s.modFabric f).evt = s.evt := rfl
@[simp] theorem State.modFabric_fresh (s : State) (f : Fabric → Fabric) : (s.modFabric f).fresh = s.fresh := rfl
@[simp] theorem State.modFabric_tempo (s : State) (f : Fabric → Fabric) : (s.modFabric f).tempo = s.tempo := rfl
@[simp] theorem State.modFabric_seqs (s : State) (f : Fabric → Fabric) : (s.modFabric f).seqs = s.seqs := rfl
@[simp] theorem State.modFabric_views (s : State) (f : Fabric → Fabric) : (s.modFabric f).views = s.views := rfl
@[simp] theorem State.modFabric_plots (s : State) (f : Fabric → Fabric) : (s.modFabric f).plots = s.plots := rfl
@[simp] theorem State.modFabric_acres (s : State) (f : Fabric → Fabric) : (s.modFabric f).acres = s.acres := rfl
@[simp] theorem State.modFabric_phys (s : State) (f : Fabric → Fabric) : (s.modFabric f).phys = s.phys := rfl
@[simp] theorem State.modFabric_misses (s : State) (f : Fabric → Fabric) : (s.modFabric f).misses = s.misses := rfl
@[simp] theorem State.modFabric_windows (s : State) (f : Fabric → Fabric) : (s.modFabric f).windows = s.windows := rfl
@[simp] theorem State.modFabric_winMisses (s : State) (f : Fabric → Fabric) : (s.modFabric f).winMisses = s.winMisses := rfl
@[simp] theorem State.modFabric_fwins (s : State) (f : Fabric → Fabric) : (s.modFabric f).fwins = s.fwins := rfl
@[simp] theorem State.modFabric_cache (s : State) (f : Fabric → Fabric) : (s.modFabric f).cache = s.cache := rfl
@[simp] theorem State.modFabric_poisoned (s : State) (f : Fabric → Fabric) : (s.modFabric f).poisoned = s.poisoned := rfl
@[simp] theorem State.modFabric_tiles (s : State) (f : Fabric → Fabric) : (s.modFabric f).tiles = s.tiles := rfl
@[simp] theorem State.modFabric_flips (s : State) (f : Fabric → Fabric) : (s.modFabric f).flips = s.flips := rfl
@[simp] theorem State.modFabric_flight (s : State) (f : Fabric → Fabric) : (s.modFabric f).flight = s.flight := rfl
@[simp] theorem State.modFabric_det (s : State) (f : Fabric → Fabric) : (s.modFabric f).det = s.det := rfl
@[simp] theorem State.modFabric_epBytes (s : State) (f : Fabric → Fabric) : (s.modFabric f).epBytes = s.epBytes := rfl
@[simp] theorem State.modFabric_areas (s : State) (f : Fabric → Fabric) : (s.modFabric f).areas = s.areas := rfl
@[simp] theorem State.modFabric_sched (s : State) (f : Fabric → Fabric) : (s.modFabric f).sched = s.sched := rfl
@[simp] theorem State.modFabric_obs (s : State) (f : Fabric → Fabric) : (s.modFabric f).obs = s.obs := rfl
@[simp] theorem State.modFabric_host (s : State) (f : Fabric → Fabric) : (s.modFabric f).host = s.host := rfl
@[simp] theorem State.modFabric_power (s : State) (f : Fabric → Fabric) : (s.modFabric f).power = s.power := rfl
@[simp] theorem State.modFabric_hubRegs (s : State) (f : Fabric → Fabric) : (s.modFabric f).hubRegs = s.hubRegs := rfl

@[simp] theorem State.modObs_cur (s : State) (f : Observe → Observe) : (s.modObs f).cur = s.cur := rfl
@[simp] theorem State.modObs_agenda (s : State) (f : Observe → Observe) : (s.modObs f).agenda = s.agenda := rfl
@[simp] theorem State.modObs_evt (s : State) (f : Observe → Observe) : (s.modObs f).evt = s.evt := rfl
@[simp] theorem State.modObs_fresh (s : State) (f : Observe → Observe) : (s.modObs f).fresh = s.fresh := rfl
@[simp] theorem State.modObs_tempo (s : State) (f : Observe → Observe) : (s.modObs f).tempo = s.tempo := rfl
@[simp] theorem State.modObs_seqs (s : State) (f : Observe → Observe) : (s.modObs f).seqs = s.seqs := rfl
@[simp] theorem State.modObs_views (s : State) (f : Observe → Observe) : (s.modObs f).views = s.views := rfl
@[simp] theorem State.modObs_plots (s : State) (f : Observe → Observe) : (s.modObs f).plots = s.plots := rfl
@[simp] theorem State.modObs_acres (s : State) (f : Observe → Observe) : (s.modObs f).acres = s.acres := rfl
@[simp] theorem State.modObs_phys (s : State) (f : Observe → Observe) : (s.modObs f).phys = s.phys := rfl
@[simp] theorem State.modObs_misses (s : State) (f : Observe → Observe) : (s.modObs f).misses = s.misses := rfl
@[simp] theorem State.modObs_windows (s : State) (f : Observe → Observe) : (s.modObs f).windows = s.windows := rfl
@[simp] theorem State.modObs_winMisses (s : State) (f : Observe → Observe) : (s.modObs f).winMisses = s.winMisses := rfl
@[simp] theorem State.modObs_fwins (s : State) (f : Observe → Observe) : (s.modObs f).fwins = s.fwins := rfl
@[simp] theorem State.modObs_cache (s : State) (f : Observe → Observe) : (s.modObs f).cache = s.cache := rfl
@[simp] theorem State.modObs_poisoned (s : State) (f : Observe → Observe) : (s.modObs f).poisoned = s.poisoned := rfl
@[simp] theorem State.modObs_tiles (s : State) (f : Observe → Observe) : (s.modObs f).tiles = s.tiles := rfl
@[simp] theorem State.modObs_flips (s : State) (f : Observe → Observe) : (s.modObs f).flips = s.flips := rfl
@[simp] theorem State.modObs_flight (s : State) (f : Observe → Observe) : (s.modObs f).flight = s.flight := rfl
@[simp] theorem State.modObs_det (s : State) (f : Observe → Observe) : (s.modObs f).det = s.det := rfl
@[simp] theorem State.modObs_epBytes (s : State) (f : Observe → Observe) : (s.modObs f).epBytes = s.epBytes := rfl
@[simp] theorem State.modObs_areas (s : State) (f : Observe → Observe) : (s.modObs f).areas = s.areas := rfl
@[simp] theorem State.modObs_sched (s : State) (f : Observe → Observe) : (s.modObs f).sched = s.sched := rfl
@[simp] theorem State.modObs_fabric (s : State) (f : Observe → Observe) : (s.modObs f).fabric = s.fabric := rfl
@[simp] theorem State.modObs_host (s : State) (f : Observe → Observe) : (s.modObs f).host = s.host := rfl
@[simp] theorem State.modObs_power (s : State) (f : Observe → Observe) : (s.modObs f).power = s.power := rfl
@[simp] theorem State.modObs_hubRegs (s : State) (f : Observe → Observe) : (s.modObs f).hubRegs = s.hubRegs := rfl

@[simp] theorem State.modSeqOf_cur (s : State) (a : Nat) (f : Seq → Seq) : (s.modSeqOf a f).cur = s.cur := rfl
@[simp] theorem State.modSeqOf_agenda (s : State) (a : Nat) (f : Seq → Seq) : (s.modSeqOf a f).agenda = s.agenda := rfl
@[simp] theorem State.modSeqOf_evt (s : State) (a : Nat) (f : Seq → Seq) : (s.modSeqOf a f).evt = s.evt := rfl
@[simp] theorem State.modSeqOf_fresh (s : State) (a : Nat) (f : Seq → Seq) : (s.modSeqOf a f).fresh = s.fresh := rfl
@[simp] theorem State.modSeqOf_tempo (s : State) (a : Nat) (f : Seq → Seq) : (s.modSeqOf a f).tempo = s.tempo := rfl
@[simp] theorem State.modSeqOf_views (s : State) (a : Nat) (f : Seq → Seq) : (s.modSeqOf a f).views = s.views := rfl
@[simp] theorem State.modSeqOf_plots (s : State) (a : Nat) (f : Seq → Seq) : (s.modSeqOf a f).plots = s.plots := rfl
@[simp] theorem State.modSeqOf_acres (s : State) (a : Nat) (f : Seq → Seq) : (s.modSeqOf a f).acres = s.acres := rfl
@[simp] theorem State.modSeqOf_phys (s : State) (a : Nat) (f : Seq → Seq) : (s.modSeqOf a f).phys = s.phys := rfl
@[simp] theorem State.modSeqOf_misses (s : State) (a : Nat) (f : Seq → Seq) : (s.modSeqOf a f).misses = s.misses := rfl
@[simp] theorem State.modSeqOf_windows (s : State) (a : Nat) (f : Seq → Seq) : (s.modSeqOf a f).windows = s.windows := rfl
@[simp] theorem State.modSeqOf_winMisses (s : State) (a : Nat) (f : Seq → Seq) : (s.modSeqOf a f).winMisses = s.winMisses := rfl
@[simp] theorem State.modSeqOf_fwins (s : State) (a : Nat) (f : Seq → Seq) : (s.modSeqOf a f).fwins = s.fwins := rfl
@[simp] theorem State.modSeqOf_cache (s : State) (a : Nat) (f : Seq → Seq) : (s.modSeqOf a f).cache = s.cache := rfl
@[simp] theorem State.modSeqOf_poisoned (s : State) (a : Nat) (f : Seq → Seq) : (s.modSeqOf a f).poisoned = s.poisoned := rfl
@[simp] theorem State.modSeqOf_tiles (s : State) (a : Nat) (f : Seq → Seq) : (s.modSeqOf a f).tiles = s.tiles := rfl
@[simp] theorem State.modSeqOf_flips (s : State) (a : Nat) (f : Seq → Seq) : (s.modSeqOf a f).flips = s.flips := rfl
@[simp] theorem State.modSeqOf_flight (s : State) (a : Nat) (f : Seq → Seq) : (s.modSeqOf a f).flight = s.flight := rfl
@[simp] theorem State.modSeqOf_det (s : State) (a : Nat) (f : Seq → Seq) : (s.modSeqOf a f).det = s.det := rfl
@[simp] theorem State.modSeqOf_epBytes (s : State) (a : Nat) (f : Seq → Seq) : (s.modSeqOf a f).epBytes = s.epBytes := rfl
@[simp] theorem State.modSeqOf_areas (s : State) (a : Nat) (f : Seq → Seq) : (s.modSeqOf a f).areas = s.areas := rfl
@[simp] theorem State.modSeqOf_sched (s : State) (a : Nat) (f : Seq → Seq) : (s.modSeqOf a f).sched = s.sched := rfl
@[simp] theorem State.modSeqOf_fabric (s : State) (a : Nat) (f : Seq → Seq) : (s.modSeqOf a f).fabric = s.fabric := rfl
@[simp] theorem State.modSeqOf_obs (s : State) (a : Nat) (f : Seq → Seq) : (s.modSeqOf a f).obs = s.obs := rfl
@[simp] theorem State.modSeqOf_host (s : State) (a : Nat) (f : Seq → Seq) : (s.modSeqOf a f).host = s.host := rfl
@[simp] theorem State.modSeqOf_power (s : State) (a : Nat) (f : Seq → Seq) : (s.modSeqOf a f).power = s.power := rfl
@[simp] theorem State.modSeqOf_hubRegs (s : State) (a : Nat) (f : Seq → Seq) : (s.modSeqOf a f).hubRegs = s.hubRegs := rfl

@[simp] theorem State.modSeq_cur (s : State) (f : Seq → Seq) : (s.modSeq f).cur = s.cur := rfl
@[simp] theorem State.modSeq_agenda (s : State) (f : Seq → Seq) : (s.modSeq f).agenda = s.agenda := rfl
@[simp] theorem State.modSeq_evt (s : State) (f : Seq → Seq) : (s.modSeq f).evt = s.evt := rfl
@[simp] theorem State.modSeq_fresh (s : State) (f : Seq → Seq) : (s.modSeq f).fresh = s.fresh := rfl
@[simp] theorem State.modSeq_tempo (s : State) (f : Seq → Seq) : (s.modSeq f).tempo = s.tempo := rfl
@[simp] theorem State.modSeq_views (s : State) (f : Seq → Seq) : (s.modSeq f).views = s.views := rfl
@[simp] theorem State.modSeq_plots (s : State) (f : Seq → Seq) : (s.modSeq f).plots = s.plots := rfl
@[simp] theorem State.modSeq_acres (s : State) (f : Seq → Seq) : (s.modSeq f).acres = s.acres := rfl
@[simp] theorem State.modSeq_phys (s : State) (f : Seq → Seq) : (s.modSeq f).phys = s.phys := rfl
@[simp] theorem State.modSeq_misses (s : State) (f : Seq → Seq) : (s.modSeq f).misses = s.misses := rfl
@[simp] theorem State.modSeq_windows (s : State) (f : Seq → Seq) : (s.modSeq f).windows = s.windows := rfl
@[simp] theorem State.modSeq_winMisses (s : State) (f : Seq → Seq) : (s.modSeq f).winMisses = s.winMisses := rfl
@[simp] theorem State.modSeq_fwins (s : State) (f : Seq → Seq) : (s.modSeq f).fwins = s.fwins := rfl
@[simp] theorem State.modSeq_cache (s : State) (f : Seq → Seq) : (s.modSeq f).cache = s.cache := rfl
@[simp] theorem State.modSeq_poisoned (s : State) (f : Seq → Seq) : (s.modSeq f).poisoned = s.poisoned := rfl
@[simp] theorem State.modSeq_tiles (s : State) (f : Seq → Seq) : (s.modSeq f).tiles = s.tiles := rfl
@[simp] theorem State.modSeq_flips (s : State) (f : Seq → Seq) : (s.modSeq f).flips = s.flips := rfl
@[simp] theorem State.modSeq_flight (s : State) (f : Seq → Seq) : (s.modSeq f).flight = s.flight := rfl
@[simp] theorem State.modSeq_det (s : State) (f : Seq → Seq) : (s.modSeq f).det = s.det := rfl
@[simp] theorem State.modSeq_epBytes (s : State) (f : Seq → Seq) : (s.modSeq f).epBytes = s.epBytes := rfl
@[simp] theorem State.modSeq_areas (s : State) (f : Seq → Seq) : (s.modSeq f).areas = s.areas := rfl
@[simp] theorem State.modSeq_sched (s : State) (f : Seq → Seq) : (s.modSeq f).sched = s.sched := rfl
@[simp] theorem State.modSeq_fabric (s : State) (f : Seq → Seq) : (s.modSeq f).fabric = s.fabric := rfl
@[simp] theorem State.modSeq_obs (s : State) (f : Seq → Seq) : (s.modSeq f).obs = s.obs := rfl
@[simp] theorem State.modSeq_host (s : State) (f : Seq → Seq) : (s.modSeq f).host = s.host := rfl
@[simp] theorem State.modSeq_power (s : State) (f : Seq → Seq) : (s.modSeq f).power = s.power := rfl
@[simp] theorem State.modSeq_hubRegs (s : State) (f : Seq → Seq) : (s.modSeq f).hubRegs = s.hubRegs := rfl

@[simp] theorem State.setSeq_cur (s : State) (q : Seq) : (s.setSeq q).cur = s.cur := rfl
@[simp] theorem State.setSeq_agenda (s : State) (q : Seq) : (s.setSeq q).agenda = s.agenda := rfl
@[simp] theorem State.setSeq_evt (s : State) (q : Seq) : (s.setSeq q).evt = s.evt := rfl
@[simp] theorem State.setSeq_fresh (s : State) (q : Seq) : (s.setSeq q).fresh = s.fresh := rfl
@[simp] theorem State.setSeq_tempo (s : State) (q : Seq) : (s.setSeq q).tempo = s.tempo := rfl
@[simp] theorem State.setSeq_views (s : State) (q : Seq) : (s.setSeq q).views = s.views := rfl
@[simp] theorem State.setSeq_plots (s : State) (q : Seq) : (s.setSeq q).plots = s.plots := rfl
@[simp] theorem State.setSeq_acres (s : State) (q : Seq) : (s.setSeq q).acres = s.acres := rfl
@[simp] theorem State.setSeq_phys (s : State) (q : Seq) : (s.setSeq q).phys = s.phys := rfl
@[simp] theorem State.setSeq_misses (s : State) (q : Seq) : (s.setSeq q).misses = s.misses := rfl
@[simp] theorem State.setSeq_windows (s : State) (q : Seq) : (s.setSeq q).windows = s.windows := rfl
@[simp] theorem State.setSeq_winMisses (s : State) (q : Seq) : (s.setSeq q).winMisses = s.winMisses := rfl
@[simp] theorem State.setSeq_fwins (s : State) (q : Seq) : (s.setSeq q).fwins = s.fwins := rfl
@[simp] theorem State.setSeq_cache (s : State) (q : Seq) : (s.setSeq q).cache = s.cache := rfl
@[simp] theorem State.setSeq_poisoned (s : State) (q : Seq) : (s.setSeq q).poisoned = s.poisoned := rfl
@[simp] theorem State.setSeq_tiles (s : State) (q : Seq) : (s.setSeq q).tiles = s.tiles := rfl
@[simp] theorem State.setSeq_flips (s : State) (q : Seq) : (s.setSeq q).flips = s.flips := rfl
@[simp] theorem State.setSeq_flight (s : State) (q : Seq) : (s.setSeq q).flight = s.flight := rfl
@[simp] theorem State.setSeq_det (s : State) (q : Seq) : (s.setSeq q).det = s.det := rfl
@[simp] theorem State.setSeq_epBytes (s : State) (q : Seq) : (s.setSeq q).epBytes = s.epBytes := rfl
@[simp] theorem State.setSeq_areas (s : State) (q : Seq) : (s.setSeq q).areas = s.areas := rfl
@[simp] theorem State.setSeq_sched (s : State) (q : Seq) : (s.setSeq q).sched = s.sched := rfl
@[simp] theorem State.setSeq_fabric (s : State) (q : Seq) : (s.setSeq q).fabric = s.fabric := rfl
@[simp] theorem State.setSeq_obs (s : State) (q : Seq) : (s.setSeq q).obs = s.obs := rfl
@[simp] theorem State.setSeq_host (s : State) (q : Seq) : (s.setSeq q).host = s.host := rfl
@[simp] theorem State.setSeq_power (s : State) (q : Seq) : (s.setSeq q).power = s.power := rfl
@[simp] theorem State.setSeq_hubRegs (s : State) (q : Seq) : (s.setSeq q).hubRegs = s.hubRegs := rfl

@[simp] theorem State.modPlot_cur (s : State) (c : Nat) (f : Plot → Plot) : (s.modPlot c f).cur = s.cur := rfl
@[simp] theorem State.modPlot_agenda (s : State) (c : Nat) (f : Plot → Plot) : (s.modPlot c f).agenda = s.agenda := rfl
@[simp] theorem State.modPlot_evt (s : State) (c : Nat) (f : Plot → Plot) : (s.modPlot c f).evt = s.evt := rfl
@[simp] theorem State.modPlot_fresh (s : State) (c : Nat) (f : Plot → Plot) : (s.modPlot c f).fresh = s.fresh := rfl
@[simp] theorem State.modPlot_tempo (s : State) (c : Nat) (f : Plot → Plot) : (s.modPlot c f).tempo = s.tempo := rfl
@[simp] theorem State.modPlot_seqs (s : State) (c : Nat) (f : Plot → Plot) : (s.modPlot c f).seqs = s.seqs := rfl
@[simp] theorem State.modPlot_views (s : State) (c : Nat) (f : Plot → Plot) : (s.modPlot c f).views = s.views := rfl
@[simp] theorem State.modPlot_acres (s : State) (c : Nat) (f : Plot → Plot) : (s.modPlot c f).acres = s.acres := rfl
@[simp] theorem State.modPlot_phys (s : State) (c : Nat) (f : Plot → Plot) : (s.modPlot c f).phys = s.phys := rfl
@[simp] theorem State.modPlot_misses (s : State) (c : Nat) (f : Plot → Plot) : (s.modPlot c f).misses = s.misses := rfl
@[simp] theorem State.modPlot_windows (s : State) (c : Nat) (f : Plot → Plot) : (s.modPlot c f).windows = s.windows := rfl
@[simp] theorem State.modPlot_winMisses (s : State) (c : Nat) (f : Plot → Plot) : (s.modPlot c f).winMisses = s.winMisses := rfl
@[simp] theorem State.modPlot_fwins (s : State) (c : Nat) (f : Plot → Plot) : (s.modPlot c f).fwins = s.fwins := rfl
@[simp] theorem State.modPlot_cache (s : State) (c : Nat) (f : Plot → Plot) : (s.modPlot c f).cache = s.cache := rfl
@[simp] theorem State.modPlot_poisoned (s : State) (c : Nat) (f : Plot → Plot) : (s.modPlot c f).poisoned = s.poisoned := rfl
@[simp] theorem State.modPlot_tiles (s : State) (c : Nat) (f : Plot → Plot) : (s.modPlot c f).tiles = s.tiles := rfl
@[simp] theorem State.modPlot_flips (s : State) (c : Nat) (f : Plot → Plot) : (s.modPlot c f).flips = s.flips := rfl
@[simp] theorem State.modPlot_flight (s : State) (c : Nat) (f : Plot → Plot) : (s.modPlot c f).flight = s.flight := rfl
@[simp] theorem State.modPlot_det (s : State) (c : Nat) (f : Plot → Plot) : (s.modPlot c f).det = s.det := rfl
@[simp] theorem State.modPlot_epBytes (s : State) (c : Nat) (f : Plot → Plot) : (s.modPlot c f).epBytes = s.epBytes := rfl
@[simp] theorem State.modPlot_areas (s : State) (c : Nat) (f : Plot → Plot) : (s.modPlot c f).areas = s.areas := rfl
@[simp] theorem State.modPlot_sched (s : State) (c : Nat) (f : Plot → Plot) : (s.modPlot c f).sched = s.sched := rfl
@[simp] theorem State.modPlot_fabric (s : State) (c : Nat) (f : Plot → Plot) : (s.modPlot c f).fabric = s.fabric := rfl
@[simp] theorem State.modPlot_obs (s : State) (c : Nat) (f : Plot → Plot) : (s.modPlot c f).obs = s.obs := rfl
@[simp] theorem State.modPlot_host (s : State) (c : Nat) (f : Plot → Plot) : (s.modPlot c f).host = s.host := rfl
@[simp] theorem State.modPlot_power (s : State) (c : Nat) (f : Plot → Plot) : (s.modPlot c f).power = s.power := rfl
@[simp] theorem State.modPlot_hubRegs (s : State) (c : Nat) (f : Plot → Plot) : (s.modPlot c f).hubRegs = s.hubRegs := rfl

/-! ### What the updates read back as -/

theorem State.seqOf_setSeqOf (s : State) (a b : Nat) (q : Seq) :
    (s.setSeqOf a q).seqOf b = if a = b then q else s.seqOf b := by
  unfold State.seqOf State.setSeqOf
  split
  · subst b; simp
  · exact NMap.get_set_ne _ _ ‹_› _

@[simp] theorem State.seqOf_setSeqOf_same (s : State) (a : Nat) (q : Seq) : (s.setSeqOf a q).seqOf a = q := by
  simp [State.seqOf_setSeqOf]

@[simp] theorem State.seq_setSeq (s : State) (q : Seq) : (s.setSeq q).seq = q := by
  simp [State.seq, State.setSeq]

@[simp] theorem State.seq_modSeq (s : State) (f : Seq → Seq) : (s.modSeq f).seq = f s.seq := by
  simp [State.modSeq]

/-- Two updates of the current sequencer are one. -/
theorem State.modSeq_modSeq (s : State) (f g : Seq → Seq) : (s.modSeq f).modSeq g = s.modSeq fun q => g (f q) := by
  simp only [State.modSeq, State.seq_setSeq]
  simp [State.setSeq, State.setSeqOf, NMap.set_set]

theorem State.seqOf_modSeq_ne (s : State) (f : Seq → Seq) {b : Nat} (h : s.cur ≠ b) : (s.modSeq f).seqOf b = s.seqOf b := by
  simp [State.modSeq, State.setSeq, State.seqOf_setSeqOf, h]

theorem State.seqOf_modSeqOf (s : State) (a b : Nat) (f : Seq → Seq) :
    (s.modSeqOf a f).seqOf b = if a = b then f (s.seqOf a) else s.seqOf b := by
  simp [State.modSeqOf, State.seqOf_setSeqOf]

theorem State.plot_setPlot (s : State) (a b : Nat) (p : Plot) : (s.setPlot a p).plot b = if a = b then p else s.plot b := by
  unfold State.plot State.setPlot
  split
  · subst b; simp
  · exact NMap.get_set_ne _ _ ‹_› _

@[simp] theorem State.plot_setPlot_same (s : State) (a : Nat) (p : Plot) : (s.setPlot a p).plot a = p := by
  simp [State.plot_setPlot]

@[simp] theorem State.plot_modPlot_same (s : State) (a : Nat) (f : Plot → Plot) : (s.modPlot a f).plot a = f (s.plot a) := by
  simp [State.modPlot]

theorem State.view_setView (s : State) (a b : Nat) (v : View) : (s.setView a v).view b = if a = b then v else s.view b := by
  unfold State.view State.setView
  split
  · subst b; simp
  · exact NMap.get_set_ne _ _ ‹_› _

@[simp] theorem State.view_setView_same (s : State) (a : Nat) (v : View) : (s.setView a v).view a = v := by
  simp [State.view_setView]

@[simp] theorem State.plot_modSeq (s : State) (f : Seq → Seq) (a : Nat) : (s.modSeq f).plot a = s.plot a := rfl
@[simp] theorem State.view_modSeq (s : State) (f : Seq → Seq) (a : Nat) : (s.modSeq f).view a = s.view a := rfl
@[simp] theorem State.seqOf_setPlot (s : State) (a b : Nat) (p : Plot) : (s.setPlot a p).seqOf b = s.seqOf b := rfl
@[simp] theorem State.seq_setPlot (s : State) (a : Nat) (p : Plot) : (s.setPlot a p).seq = s.seq := rfl
@[simp] theorem State.seqOf_setView (s : State) (a b : Nat) (v : View) : (s.setView a v).seqOf b = s.seqOf b := rfl
@[simp] theorem State.seq_setView (s : State) (a : Nat) (v : View) : (s.setView a v).seq = s.seq := rfl
@[simp] theorem State.seq_modSched (s : State) (f : Sched → Sched) : (s.modSched f).seq = s.seq := rfl
@[simp] theorem State.seq_modFabric (s : State) (f : Fabric → Fabric) : (s.modFabric f).seq = s.seq := rfl
@[simp] theorem State.seq_modObs (s : State) (f : Observe → Observe) : (s.modObs f).seq = s.seq := rfl

end Sys2Proof.Machine
end

