-- ==== Sys2Proof/Laws/Ops.lean ====
section
/-! SUPPORT. The laws of the shared operations: what a meaning answers, reading and writing registers, completing. -/

namespace Sys2Proof.Machine

@[simp] theorem settle_ok (s t : State) : settle s (.ok t) = .next t := rfl
@[simp] theorem settle_pure (s t : State) : settle s (pure t) = .next t := rfl
@[simp] theorem settle_trap (s : State) (r : Raise) : settle s (.error (.trap r)) = .next (s.takeFault r) := rfl
@[simp] theorem settle_stall (s t : State) : settle s (.error (.stall t)) = .next t := rfl
@[simp] theorem bind_ok {α β : Type} (a : α) (f : α → Res β) : (Except.ok a >>= f : Res β) = f a := rfl
@[simp] theorem bind_error {α β : Type} (e : Stop) (f : α → Res β) : (Except.error e >>= f : Res β) = .error e := rfl
@[simp] theorem map_ok {α β : Type} (f : α → β) (a : α) : (f <$> Except.ok a : Res β) = .ok (f a) := rfl
@[simp] theorem map_error {α β : Type} (f : α → β) (e : Stop) : (f <$> Except.error e : Res β) = .error e := rfl
@[simp] theorem need_true (c : Cause) (t0 t1 : Word) : need true c t0 t1 = .ok () := rfl
@[simp] theorem need_false (c : Cause) (t0 t1 : Word) : need false c t0 t1 = .error (.trap { cause := c, t0 := t0, t1 := t1 }) := rfl

/-- A meaning that answers a result answers a next state: no fault, no refusal. -/
theorem settle_next (s : State) (r : Res State) : ∃ t, settle s r = .next t := by
  match r with
  | .ok t => exact ⟨t, rfl⟩
  | .error (.trap x) => exact ⟨_, rfl⟩
  | .error (.stall t) => exact ⟨t, rfl⟩

theorem State.sources_ok {s : State} {rs : List (BitVec 5)} (h : Readable s rs) (word : Word) : s.sources word rs = .ok () := by
  unfold State.sources need
  cases hg : s.seq.gstrict with
  | false => simp
  | true =>
    have : rs.any s.stale = false := by
      simp only [List.any_eq_false, Bool.not_eq_true]
      exact h hg
    simp [this]

theorem State.sources_stale {s : State} {rs : List (BitVec 5)} (h : ¬ Readable s rs) (word : Word) :
    s.sources word rs = .error (.trap { cause := .genstale, t0 := word }) := by
  unfold State.sources need
  by_cases hg : s.seq.gstrict = true
  · have : rs.any s.stale = true := by
      apply Classical.byContradiction
      intro hn
      apply h
      intro _ r hr
      simp only [List.any_eq_true, not_exists, not_and, Bool.not_eq_true] at hn
      exact hn r hr
    simp [hg, this, trap]
  · exact absurd (fun hg' => absurd hg' hg) h

theorem State.scalar_ok {s : State} {rs : List (BitVec 5)} (h : Readable s rs) (word : Word) (sd : BitVec 5) (v : Word) :
    Writes (s.scalar word rs sd v) s sd v := by
  simp [Writes, State.scalar, State.sources_ok h]

theorem State.scalarExact_wraps {s : State} {rs : List (BitVec 5)} (h : Readable s rs) (word : Word) (sd : BitVec 5) {sat : Bool}
    {e : Int} (hs : sat = false ∨ sat64 e = e) : Writes (s.scalarExact word rs sd sat e) s sd (BitVec.ofInt 64 e) := by
  rcases hs with rfl | hs <;> simp [Writes, State.scalarExact, State.sources_ok h, *]

/-! ### Registers -/

@[simp] theorem State.reg_zero (s : State) : s.reg 0#5 = 0 := rfl
@[simp] theorem State.setReg_zero (s : State) (v : Word) : s.setReg 0#5 v = s := rfl

theorem State.fresh?_setReg (s : State) (r : BitVec 5) (v : Word) (t : BitVec 16) : (s.setReg r v).fresh? t = s.fresh? t := by
  unfold State.setReg
  split <;> rfl

theorem State.fresh?_own (s : State) : s.fresh? (s.genOf s.cur) = true := by simp [State.fresh?]

theorem State.regs_setReg {s : State} {r : BitVec 5} (h : r ≠ 0) (v : Word) :
    (s.setReg r v).seq.regs = s.seq.regs.set r.toNat { val := v, tag := s.genOf s.cur } := by
  unfold State.setReg; rw [if_neg h]; simp

/-- A register written reads back its value. -/
theorem State.reg_setReg_same {s : State} {r : BitVec 5} (h : r ≠ 0) (v : Word) : (s.setReg r v).reg r = v := by
  unfold State.reg
  rw [if_neg h, State.regs_setReg h]
  simp [State.fresh?_setReg, State.fresh?_own]

theorem State.stale_setReg_same {s : State} {r : BitVec 5} (h : r ≠ 0) (v : Word) : (s.setReg r v).stale r = false := by
  unfold State.stale
  rw [State.fresh?_setReg, State.regs_setReg h]
  simp [State.fresh?_own]

theorem State.get_setReg_ne (s : State) {r q : BitVec 5} (h : q ≠ r) (v : Word) (d : Reg) :
    (s.setReg r v).seq.regs.get d q.toNat = s.seq.regs.get d q.toNat := by
  by_cases hr : r = 0
  · subst hr; rfl
  · rw [State.regs_setReg hr]
    refine NMap.get_set_ne _ _ (fun e => h ?_) _
    exact (BitVec.eq_of_toNat_eq e).symm

/-- Every other register reads as before. -/
theorem State.reg_setReg_ne (s : State) {r q : BitVec 5} (h : q ≠ r) (v : Word) : (s.setReg r v).reg q = s.reg q := by
  simp only [State.reg, State.fresh?_setReg, State.get_setReg_ne s h]

theorem State.stale_setReg_ne (s : State) {r q : BitVec 5} (h : q ≠ r) (v : Word) : (s.setReg r v).stale q = s.stale q := by
  unfold State.stale
  rw [State.fresh?_setReg, State.get_setReg_ne s h]

/-- Writing a register touches the sequencer's registers alone. -/
theorem State.setReg_eq (s : State) (r : BitVec 5) (v : Word) :
    s.setReg r v = s ∨ ∃ m, s.setReg r v = s.modSeq fun q => { q with regs := m } := by
  by_cases h : r = 0
  · exact .inl (if_pos h)
  · exact .inr ⟨s.seq.regs.set r.toNat { val := v, tag := s.genOf s.cur }, by unfold State.setReg; rw [if_neg h]; rfl⟩

/-! ### Completing -/

@[simp] theorem Seq.mode_setLoops (q : Seq) (l : List LoopLevel) : (q.setLoops l).mode = q.mode := by
  unfold Seq.setLoops; split <;> rfl
@[simp] theorem Seq.loops_setLoops (q : Seq) (l : List LoopLevel) : (q.setLoops l).loops = l := by
  unfold Seq.loops Seq.setLoops; by_cases h : q.mode = 0 <;> simp [h]
@[simp] theorem Seq.settled_loops (q : Seq) : q.settled.loops = q.loops := rfl

/-- What an instruction that completes may change: the current sequencer, and what trials count. -/
structure Completes (s t : State) (f : Seq → Seq) : Prop where
  seq : t.seq = { f s.seq with lastDone := t.seq.lastDone, watch := t.seq.watch }
  rest : ∃ m, t = { s.modSeq f with seqs := s.seqs.set s.cur t.seq, obs := { s.obs with trials := m } }

theorem State.issued_eq (s : State) (pc : Word) : ∃ m, s.issued pc = { s with obs := { s.obs with trials := m } } := by
  unfold State.issued
  split
  · exact ⟨s.obs.trials, rfl⟩
  · exact ⟨_, rfl⟩

/-- With no cause due after it, an instruction completes with its own change of the sequencer, and no other effect. -/
theorem State.completed_quiet {s : State} (h : Quiet s) (f : Seq → Seq) (hm : (f s.seq).mode = s.seq.mode)
    (hw : (f s.seq).watch = s.seq.watch) (hs : (f s.seq).sstep = s.seq.sstep) (pc : Word) :
    Completes s ((s.modSeq f).completed pc) f := by
  obtain ⟨h1, h2⟩ := h
  obtain ⟨m, he⟩ := (s.modSeq f).issued_eq pc
  have hq : ({ s.modSeq f with obs := { (s.modSeq f).obs with trials := m } } : State).seq = f s.seq := State.seq_modSeq s f
  unfold State.completed
  rw [he]
  simp only [hq, hw, h1, hs, hm]
  by_cases hu : s.seq.mode = 0
  · simp only [hu, decide_true, if_true, h2 hu, Bool.and_true, Bool.false_eq_true, if_false]
    refine ⟨?_, m, ?_⟩
    · rw [State.seq_modSeq, hq]
    · rw [State.seq_modSeq, hq]
      simp only [State.modSeq, State.setSeq, State.setSeqOf, State.seq, State.seqOf, NMap.get_set_same, NMap.set_set]
  · simp only [hu, decide_false, if_false, Bool.and_false, Bool.false_eq_true]
    refine ⟨?_, m, ?_⟩
    · rw [hq]
    · rw [hq]; rfl

theorem State.retire_quiet {s : State} (h : Quiet s) : Completes s s.retire Seq.advance :=
  State.completed_quiet h _ (by simp [Seq.advance, Seq.settled]) (by unfold Seq.advance Seq.setLoops; dsimp only; split <;> rfl)
    (by unfold Seq.advance Seq.setLoops; dsimp only; split <;> rfl) _

theorem State.branchTo_quiet {s : State} (h : Quiet s) (target : Word) : Completes s (s.branchTo target) (·.jump target) :=
  State.completed_quiet h _ (by simp [Seq.jump, Seq.settled]) (by unfold Seq.jump Seq.setLoops; split <;> rfl)
    (by unfold Seq.jump Seq.setLoops; split <;> rfl) _

theorem State.callTo_quiet {s : State} (h : Quiet s) (target : Word) : Completes s (s.callTo target) (·.jumpKeep target) :=
  State.completed_quiet h _ rfl rfl rfl _

theorem Completes.memory {s t : State} {f : Seq → Seq} (c : Completes s t f) : MemoryKept s t := by
  obtain ⟨m, h⟩ := c.rest
  refine ⟨fun a => ?_, fun k a => ?_, fun a => ?_⟩ <;> rw [h] <;> rfl

theorem Completes.module {s t : State} {f : Seq → Seq} (c : Completes s t f) : ModuleKept s t := by
  obtain ⟨m, h⟩ := c.rest
  refine ⟨fun b hb => ?_, ?_, ?_, ?_, ?_, ?_, ?_, ?_, ?_, ?_, ?_, ?_, ?_, ?_, ?_, ?_, ?_, ?_, ?_, ?_, ?_, ?_, ?_⟩
  · rw [h]; exact NMap.get_set_ne _ _ (Ne.symm hb) _
  all_goals rw [h] <;> rfl

theorem Completes.reg {s t : State} {f : Seq → Seq} (c : Completes s t f) (hf : (f s.seq).regs = s.seq.regs) (r : BitVec 5) :
    t.reg r = s.reg r := by
  have hq : t.seq.regs = s.seq.regs := by rw [c.seq]; exact hf
  obtain ⟨m, h⟩ := c.rest
  have hfr : ∀ g, t.fresh? g = s.fresh? g := by intro g; rw [h]; rfl
  simp only [State.reg, hq, hfr]

end Sys2Proof.Machine
end

