-- ==== Sys2Proof/Laws/PerInstr.lean ====
section
/-! SUPPORT. What holds of every instruction as syntax: the decoder finds it in its own word. One lemma per constructor. -/

namespace Sys2Proof.Laws.ReadsBack

/-- The decoder finds a well-formed instruction in its own word: the fixed word, or the entry of the word's class and opcode. -/
def Statement (i : Instr) : Prop :=
  WellFormed i = true → hasWord i = true →
    fixedWord (encode i) = some (encode i, i) ∨ fixedWord (encode i) = none ∧ opcodeOf (encode i) = some i

/-- Events, and words that are no instruction, have no word of their own. -/
theorem of_wordless {i : Instr} (h : hasWord i = false) : Statement i := fun _ h' => by rw [h] at h'; cases h'

/-- A check that passed. -/
theorem passed {rsv fmt opn : Bool} (h : (firstFault rsv fmt opn).isNone = true) : rsv = false := by
  cases rsv
  · rfl
  · exact absurd h (by simp [firstFault])

theorem add (x : S3) : Statement (.add x) := fun _ _ => .inr (class0_word 0x01 x)
theorem sub (x : S3) : Statement (.sub x) := fun _ _ => .inr (class0_word 0x02 x)
theorem mul (x : S3) : Statement (.mul x) := fun _ _ => .inr (class0_word 0x03 x)
theorem mulh (x : S3) : Statement (.mulh x) := fun _ _ => .inr (class0_word 0x04 x)
theorem mulhu (x : S3) : Statement (.mulhu x) := fun _ _ => .inr (class0_word 0x05 x)
theorem div (x : S3) : Statement (.div x) := fun _ _ => .inr (class0_word 0x06 x)
theorem divu (x : S3) : Statement (.divu x) := fun _ _ => .inr (class0_word 0x07 x)
theorem mod (x : S3) : Statement (.mod x) := fun _ _ => .inr (class0_word 0x08 x)
theorem modu (x : S3) : Statement (.modu x) := fun _ _ => .inr (class0_word 0x09 x)
theorem and (x : S3) : Statement (.and x) := fun _ _ => .inr (class0_word 0x0A x)
theorem or (x : S3) : Statement (.or x) := fun _ _ => .inr (class0_word 0x0B x)
theorem xor (x : S3) : Statement (.xor x) := fun _ _ => .inr (class0_word 0x0C x)
theorem andn (x : S3) : Statement (.andn x) := fun _ _ => .inr (class0_word 0x0D x)
theorem shl (x : S3) : Statement (.shl x) := fun _ _ => .inr (class0_word 0x0E x)
theorem shr (x : S3) : Statement (.shr x) := fun _ _ => .inr (class0_word 0x0F x)
theorem sra (x : S3) : Statement (.sra x) := fun _ _ => .inr (class0_word 0x10 x)
theorem rol (x : S3) : Statement (.rol x) := fun _ _ => .inr (class0_word 0x11 x)
theorem min (x : S3) : Statement (.min x) := fun _ _ => .inr (class0_word 0x12 x)
theorem max (x : S3) : Statement (.max x) := fun _ _ => .inr (class0_word 0x13 x)
theorem minu (x : S3) : Statement (.minu x) := fun _ _ => .inr (class0_word 0x14 x)
theorem maxu (x : S3) : Statement (.maxu x) := fun _ _ => .inr (class0_word 0x15 x)
theorem slt (x : S3) : Statement (.slt x) := fun _ _ => .inr (class0_word 0x16 x)
theorem sltu (x : S3) : Statement (.sltu x) := fun _ _ => .inr (class0_word 0x17 x)
theorem seq (x : S3) : Statement (.seq x) := fun _ _ => .inr (class0_word 0x18 x)
theorem sel (x : S3) : Statement (.sel x) := fun _ _ => .inr (class0_word 0x19 x)
theorem madd (x : S3) : Statement (.madd x) := fun _ _ => .inr (class0_word 0x1A x)
theorem addsh (x : S3) : Statement (.addsh x) := fun _ _ => .inr (class0_word 0x1B x)
theorem clz (x : S3) : Statement (.clz x) := fun _ _ => .inr (class0_word 0x1C x)
theorem ctz (x : S3) : Statement (.ctz x) := fun _ _ => .inr (class0_word 0x1D x)
theorem popc (x : S3) : Statement (.popc x) := fun _ _ => .inr (class0_word 0x1E x)
theorem brev (x : S3) : Statement (.brev x) := fun _ _ => .inr (class0_word 0x1F x)
theorem sext (x : S3) : Statement (.sext x) := fun _ _ => .inr (class0_word 0x20 x)
theorem zext (x : S3) : Statement (.zext x) := fun _ _ => .inr (class0_word 0x21 x)
theorem bfx (x : S3) : Statement (.bfx x) := fun _ _ => .inr (class0_word 0x22 x)
theorem bfi (x : S3) : Statement (.bfi x) := fun _ _ => .inr (class0_word 0x23 x)
theorem movm (x : S3) : Statement (.movm x) := fun _ _ => .inr (class0_word 0x24 x)
theorem addi (x : SI) : Statement (.addi x) := fun _ _ => .inr (class1_word 0x01 x)
theorem muli (x : SI) : Statement (.muli x) := fun _ _ => .inr (class1_word 0x02 x)
theorem andi (x : SI) : Statement (.andi x) := fun _ _ => .inr (class1_word 0x03 x)
theorem ori (x : SI) : Statement (.ori x) := fun _ _ => .inr (class1_word 0x04 x)
theorem xori (x : SI) : Statement (.xori x) := fun _ _ => .inr (class1_word 0x05 x)
theorem shli (x : SI) : Statement (.shli x) := fun _ _ => .inr (class1_word 0x06 x)
theorem shri (x : SI) : Statement (.shri x) := fun _ _ => .inr (class1_word 0x07 x)
theorem srai (x : SI) : Statement (.srai x) := fun _ _ => .inr (class1_word 0x08 x)
theorem slti (x : SI) : Statement (.slti x) := fun _ _ => .inr (class1_word 0x09 x)
theorem sltiu (x : SI) : Statement (.sltiu x) := fun _ _ => .inr (class1_word 0x0A x)
theorem seqi (x : SI) : Statement (.seqi x) := fun _ _ => .inr (class1_word 0x0B x)
theorem li (x : SI) : Statement (.li x) := fun _ _ => .inr (class1_word 0x0C x)
theorem lih (x : SI) : Statement (.lih x) := fun _ _ => .inr (class1_word 0x0D x)
theorem lea (x : SI) : Statement (.lea x) := fun _ _ => .inr (class1_word 0x0E x)
theorem ldb (x : SM) : Statement (.ldb x) := fun _ _ => .inr (class2_word 0x01 x)
theorem ldbu (x : SM) : Statement (.ldbu x) := fun _ _ => .inr (class2_word 0x02 x)
theorem ldh (x : SM) : Statement (.ldh x) := fun _ _ => .inr (class2_word 0x03 x)
theorem ldhu (x : SM) : Statement (.ldhu x) := fun _ _ => .inr (class2_word 0x04 x)
theorem ldw (x : SM) : Statement (.ldw x) := fun _ _ => .inr (class2_word 0x05 x)
theorem ldwu (x : SM) : Statement (.ldwu x) := fun _ _ => .inr (class2_word 0x06 x)
theorem ldd (x : SM) : Statement (.ldd x) := fun _ _ => .inr (class2_word 0x07 x)
theorem stb (x : SM) : Statement (.stb x) := fun _ _ => .inr (class2_word 0x08 x)
theorem sth (x : SM) : Statement (.sth x) := fun _ _ => .inr (class2_word 0x09 x)
theorem stw (x : SM) : Statement (.stw x) := fun _ _ => .inr (class2_word 0x0A x)
theorem std (x : SM) : Statement (.std x) := fun _ _ => .inr (class2_word 0x0B x)
theorem ldm (x : SM) : Statement (.ldm x) := fun _ _ => .inr (class2_word 0x0C x)
theorem stm (x : SM) : Statement (.stm x) := fun _ _ => .inr (class2_word 0x0D x)
theorem pref (x : SM) : Statement (.pref x) := fun _ _ => .inr (class2_word 0x0E x)
theorem clean (x : SM) : Statement (.clean x) := fun _ _ => .inr (class2_word 0x0F x)
theorem aadd (x : SM) : Statement (.aadd x) := fun _ _ => .inr (class3_word 0x01 x)
theorem aand (x : SM) : Statement (.aand x) := fun _ _ => .inr (class3_word 0x02 x)
theorem aor (x : SM) : Statement (.aor x) := fun _ _ => .inr (class3_word 0x03 x)
theorem axor (x : SM) : Statement (.axor x) := fun _ _ => .inr (class3_word 0x04 x)
theorem amin (x : SM) : Statement (.amin x) := fun _ _ => .inr (class3_word 0x05 x)
theorem amax (x : SM) : Statement (.amax x) := fun _ _ => .inr (class3_word 0x06 x)
theorem aminu (x : SM) : Statement (.aminu x) := fun _ _ => .inr (class3_word 0x07 x)
theorem amaxu (x : SM) : Statement (.amaxu x) := fun _ _ => .inr (class3_word 0x08 x)
theorem aswp (x : SM) : Statement (.aswp x) := fun _ _ => .inr (class3_word 0x09 x)
theorem acas (x : SM) : Statement (.acas x) := fun _ _ => .inr (class3_word 0x0A x)
theorem afadd (x : SM) : Statement (.afadd x) := fun _ _ => .inr (class3_word 0x0B x)
theorem fence (x : SM) : Statement (.fence x) := fun _ _ => .inr (class3_word 0x0C x)
theorem phaseAcq (x : SM) : Statement (.phaseAcq x) := fun hw _ => .inr ⟨(class3_word 0x0D x).1, by
  have e : x.order.toNat = 1 := by have := passed hw; simp at this; exact this.1.2
  have e' : x.order = 1 := BitVec.eq_of_toNat_eq e
  refine (class3_word 0x0D x).2.trans ?_
  simp [pick, class3, e']⟩
theorem phaseRel (x : SM) : Statement (.phaseRel x) := fun hw _ => .inr ⟨(class3_word 0x0D x).1, by
  have e : x.order.toNat = 2 := by have := passed hw; simp at this; exact this.1.2
  have e' : x.order = 2 := BitVec.eq_of_toNat_eq e
  refine (class3_word 0x0D x).2.trans ?_
  simp [pick, class3, e']⟩
theorem phaseAr (x : SM) : Statement (.phaseAr x) := fun hw _ => .inr ⟨(class3_word 0x0D x).1, by
  have e : x.order.toNat = 3 := by have := passed hw; simp at this; exact this.1.2
  have e' : x.order = 3 := BitVec.eq_of_toNat_eq e
  refine (class3_word 0x0D x).2.trans ?_
  simp [pick, class3, e']⟩
theorem publish (x : SM) : Statement (.publish x) := fun _ _ => .inr (class3_word 0x0E x)
theorem beq (x : SB) : Statement (.beq x) := fun _ _ => .inr (class4_word 0x01 x (by decide))
theorem bne (x : SB) : Statement (.bne x) := fun _ _ => .inr (class4_word 0x02 x (by decide))
theorem blt (x : SB) : Statement (.blt x) := fun _ _ => .inr (class4_word 0x03 x (by decide))
theorem bge (x : SB) : Statement (.bge x) := fun _ _ => .inr (class4_word 0x04 x (by decide))
theorem bltu (x : SB) : Statement (.bltu x) := fun _ _ => .inr (class4_word 0x05 x (by decide))
theorem bgeu (x : SB) : Statement (.bgeu x) := fun _ _ => .inr (class4_word 0x06 x (by decide))
theorem j (x : SB) : Statement (.j x) := fun _ _ => .inr (class4_word 0x07 x (by decide))
theorem jal (x : SB) : Statement (.jal x) := fun _ _ => .inr (class4_word 0x08 x (by decide))
theorem jalr (x : SB) : Statement (.jalr x) := fun _ _ => .inr (class4_word 0x09 x (by decide))
theorem loop (x : SB) : Statement (.loop x) := fun _ _ => .inr (class4_word 0x0A x (by decide))
theorem progress (x : SB) : Statement (.progress x) := fun _ _ => .inr (class4_word 0x0E x (by decide))
theorem srd (x : SC) : Statement (.srd x) := fun _ _ => .inr (class5_word 0x01 x (by decide))
theorem swr (x : SC) : Statement (.swr x) := fun _ _ => .inr (class5_word 0x02 x (by decide))
theorem tagwaitany (x : SC) : Statement (.tagwaitany x) := fun _ _ => .inr (class5_word 0x03 x (by decide))
theorem tagwaitall (x : SC) : Statement (.tagwaitall x) := fun _ _ => .inr (class5_word 0x04 x (by decide))
theorem tagff (x : SC) : Statement (.tagff x) := fun _ _ => .inr (class5_word 0x05 x (by decide))
theorem tagclr (x : SC) : Statement (.tagclr x) := fun _ _ => .inr (class5_word 0x06 x (by decide))
theorem cbwait (x : SC) : Statement (.cbwait x) := fun _ _ => .inr (class5_word 0x08 x (by decide))
theorem bararv (x : SC) : Statement (.bararv x) := fun _ _ => .inr (class5_word 0x09 x (by decide))
theorem barwait (x : SC) : Statement (.barwait x) := fun _ _ => .inr (class5_word 0x0A x (by decide))
theorem bar (x : SC) : Statement (.bar x) := fun _ _ => .inr (class5_word 0x0B x (by decide))
theorem evsig (x : SC) : Statement (.evsig x) := fun _ _ => .inr (class5_word 0x0C x (by decide))
theorem evwait (x : SC) : Statement (.evwait x) := fun _ _ => .inr (class5_word 0x0D x (by decide))
theorem evrst (x : SC) : Statement (.evrst x) := fun _ _ => .inr (class5_word 0x0E x (by decide))
theorem evalloc (x : SC) : Statement (.evalloc x) := fun _ _ => .inr (class5_word 0x0F x (by decide))
theorem launch (x : SC) : Statement (.launch x) := fun _ _ => .inr (class5_word 0x10 x (by decide))
theorem seed (x : SC) : Statement (.seed x) := fun _ _ => .inr (class5_word 0x11 x (by decide))
theorem stashdecl (x : SC) : Statement (.stashdecl x) := fun _ _ => .inr (class5_word 0x12 x (by decide))
theorem carryx (x : SC) : Statement (.carryx x) := fun _ _ => .inr (class5_word 0x13 x (by decide))
theorem carryi (x : SC) : Statement (.carryi x) := fun _ _ => .inr (class5_word 0x14 x (by decide))
theorem trap (x : SC) : Statement (.trap x) := fun hw _ => .inr ⟨(class6_word 0x01 x (by decide)).1, by
  have e : x.imm.getLsbD 31 = false := by
    by_cases hb : x.imm.getLsbD 31 = true
    · rw [WellFormed, show formFault (.trap x) = some .rsvfld from if_pos hb] at hw; exact absurd hw (by decide)
    · exact Bool.eq_false_iff.mpr hb
  refine (class6_word 0x01 x (by decide)).2.trans ?_
  simp only [pick, class6, e]; rfl⟩
theorem trapBrkpt (x : SC) : Statement (.trapBrkpt x) := fun hw _ => .inr ⟨(class6_word 0x01 x (by decide)).1, by
  have e : x.imm.getLsbD 31 = true := by
    by_cases hb : x.imm.getLsbD 31 = true
    · exact hb
    · rw [WellFormed, show formFault (.trapBrkpt x) = some .rsvfld from if_neg hb] at hw; exact absurd hw (by decide)
  refine (class6_word 0x01 x (by decide)).2.trans ?_
  simp only [pick, class6, e]; rfl⟩
theorem srdp (x : SC) : Statement (.srdp x) := fun _ _ => .inr (class6_word 0x03 x (by decide))
theorem swrp (x : SC) : Statement (.swrp x) := fun _ _ => .inr (class6_word 0x04 x (by decide))
theorem genbump (x : SC) : Statement (.genbump x) := fun _ _ => .inr (class6_word 0x05 x (by decide))
theorem scrub (x : SC) : Statement (.scrub x) := fun _ _ => .inr (class6_word 0x06 x (by decide))
theorem tmask (x : SC) : Statement (.tmask x) := fun _ _ => .inr (class6_word 0x07 x (by decide))
theorem drainmk (x : SC) : Statement (.drainmk x) := fun _ _ => .inr (class6_word 0x08 x (by decide))
theorem ctxsave (x : SC) : Statement (.ctxsave x) := fun _ _ => .inr (class6_word 0x09 x (by decide))
theorem ctxload (x : SC) : Statement (.ctxload x) := fun _ _ => .inr (class6_word 0x0A x (by decide))
theorem relink (x : SC) : Statement (.relink x) := fun _ _ => .inr (class6_word 0x0B x (by decide))
theorem lnkctlQuiesce (x : SC) : Statement (.lnkctlQuiesce x) := fun hw _ => .inr ⟨(class6_word 0x0C x (by decide)).1, by
  have e : x.imm.toNat = 0 := by have := passed hw; simp at this; exact this.2
  have e' : x.imm = 0 := BitVec.eq_of_toNat_eq e
  refine (class6_word 0x0C x (by decide)).2.trans ?_
  simp [pick, class6, e']⟩
theorem lnkctlRemap (x : SC) : Statement (.lnkctlRemap x) := fun hw _ => .inr ⟨(class6_word 0x0C x (by decide)).1, by
  have e : x.imm.toNat = 1 := by have := passed hw; simp at this; exact this.2
  have e' : x.imm = 1 := BitVec.eq_of_toNat_eq e
  refine (class6_word 0x0C x (by decide)).2.trans ?_
  simp [pick, class6, e']⟩
theorem lnkctlRetrain (x : SC) : Statement (.lnkctlRetrain x) := fun hw _ => .inr ⟨(class6_word 0x0C x (by decide)).1, by
  have e : x.imm.toNat = 2 := by have := passed hw; simp at this; exact this.2
  have e' : x.imm = 2 := BitVec.eq_of_toNat_eq e
  refine (class6_word 0x0C x (by decide)).2.trans ?_
  simp [pick, class6, e']⟩
theorem lnkctlResume (x : SC) : Statement (.lnkctlResume x) := fun hw _ => .inr ⟨(class6_word 0x0C x (by decide)).1, by
  have e : x.imm.toNat = 3 := by have := passed hw; simp at this; exact this.2
  have e' : x.imm = 3 := BitVec.eq_of_toNat_eq e
  refine (class6_word 0x0C x (by decide)).2.trans ?_
  simp [pick, class6, e']⟩
theorem lnkctlMargin (x : SC) : Statement (.lnkctlMargin x) := fun hw _ => .inr ⟨(class6_word 0x0C x (by decide)).1, by
  have e : x.imm.toNat = 4 := by have := passed hw; simp at this; exact this.2
  have e' : x.imm = 4 := BitVec.eq_of_toNat_eq e
  refine (class6_word 0x0C x (by decide)).2.trans ?_
  simp [pick, class6, e']⟩
theorem lnkst (x : SC) : Statement (.lnkst x) := fun _ _ => .inr (class6_word 0x0D x (by decide))
theorem dirq (x : SC) : Statement (.dirq x) := fun _ _ => .inr (class6_word 0x0E x (by decide))
theorem dirreclaim (x : SC) : Statement (.dirreclaim x) := fun _ _ => .inr (class6_word 0x0F x (by decide))
theorem jrnlrd (x : SC) : Statement (.jrnlrd x) := fun _ _ => .inr (class6_word 0x10 x (by decide))
theorem tlbinv (x : SC) : Statement (.tlbinv x) := fun _ _ => .inr (class6_word 0x11 x (by decide))
theorem tempostop (x : SC) : Statement (.tempostop x) := fun _ _ => .inr (class6_word 0x12 x (by decide))
theorem gambit (x : SC) : Statement (.gambit x) := fun hw _ => .inr ⟨(class6_word 0x13 x (by decide)).1, by
  have e : x.imm.getLsbD 0 = false := by
    have := passed hw; simp at this
    have h : x.imm &&& BitVec.allOnes 32 = 0#32 := this.2
    rw [BitVec.and_allOnes] at h; rw [h]; rfl
  refine (class6_word 0x13 x (by decide)).2.trans ?_
  simp only [pick, class6, e]; rfl⟩
theorem gambitStop (x : SC) : Statement (.gambitStop x) := fun hw _ => .inr ⟨(class6_word 0x13 x (by decide)).1, by
  have e : x.imm.getLsbD 0 = true := by
    by_cases hb : x.imm.getLsbD 0 = true
    · exact hb
    · rw [WellFormed, show formFault (.gambitStop x) = some .rsvfld from if_neg hb] at hw; exact absurd hw (by decide)
  refine (class6_word 0x13 x (by decide)).2.trans ?_
  simp only [pick, class6, e]; rfl⟩
theorem mbox (x : SC) : Statement (.mbox x) := fun _ _ => .inr (class6_word 0x14 x (by decide))
theorem vadd (x : V) : Statement (.vadd x) := fun _ _ => .inr (class8_word 0x01 x)
theorem vsub (x : V) : Statement (.vsub x) := fun _ _ => .inr (class8_word 0x02 x)
theorem vmul (x : V) : Statement (.vmul x) := fun _ _ => .inr (class8_word 0x03 x)
theorem vfma (x : V) : Statement (.vfma x) := fun _ _ => .inr (class8_word 0x04 x)
theorem vfms (x : V) : Statement (.vfms x) := fun _ _ => .inr (class8_word 0x05 x)
theorem vfnma (x : V) : Statement (.vfnma x) := fun _ _ => .inr (class8_word 0x06 x)
theorem vdiv (x : V) : Statement (.vdiv x) := fun _ _ => .inr (class8_word 0x07 x)
theorem vsqrt (x : V) : Statement (.vsqrt x) := fun _ _ => .inr (class8_word 0x08 x)
theorem vrcp (x : V) : Statement (.vrcp x) := fun _ _ => .inr (class8_word 0x09 x)
theorem vrsq (x : V) : Statement (.vrsq x) := fun _ _ => .inr (class8_word 0x0A x)
theorem vexp2 (x : V) : Statement (.vexp2 x) := fun _ _ => .inr (class8_word 0x0B x)
theorem vlog2 (x : V) : Statement (.vlog2 x) := fun _ _ => .inr (class8_word 0x0C x)
theorem vmin (x : V) : Statement (.vmin x) := fun _ _ => .inr (class8_word 0x0D x)
theorem vmax (x : V) : Statement (.vmax x) := fun _ _ => .inr (class8_word 0x0E x)
theorem vabs (x : V) : Statement (.vabs x) := fun _ _ => .inr (class8_word 0x0F x)
theorem vneg (x : V) : Statement (.vneg x) := fun _ _ => .inr (class8_word 0x10 x)
theorem vclamp (x : V) : Statement (.vclamp x) := fun _ _ => .inr (class8_word 0x11 x)
theorem vand (x : V) : Statement (.vand x) := fun _ _ => .inr (class8_word 0x12 x)
theorem vor (x : V) : Statement (.vor x) := fun _ _ => .inr (class8_word 0x13 x)
theorem vxor (x : V) : Statement (.vxor x) := fun _ _ => .inr (class8_word 0x14 x)
theorem vshl (x : V) : Statement (.vshl x) := fun _ _ => .inr (class8_word 0x15 x)
theorem vshr (x : V) : Statement (.vshr x) := fun _ _ => .inr (class8_word 0x16 x)
theorem vsra (x : V) : Statement (.vsra x) := fun _ _ => .inr (class8_word 0x17 x)
theorem vcmpeq (x : V) : Statement (.vcmpeq x) := fun _ _ => .inr (class8_word 0x18 x)
theorem vcmplt (x : V) : Statement (.vcmplt x) := fun _ _ => .inr (class8_word 0x19 x)
theorem vcmple (x : V) : Statement (.vcmple x) := fun _ _ => .inr (class8_word 0x1A x)
theorem vsel (x : V) : Statement (.vsel x) := fun _ _ => .inr (class8_word 0x1B x)
theorem vmov (x : V) : Statement (.vmov x) := fun _ _ => .inr (class8_word 0x1C x)
theorem viota (x : V) : Statement (.viota x) := fun _ _ => .inr (class8_word 0x1D x)
theorem vrng (x : V) : Statement (.vrng x) := fun _ _ => .inr (class8_word 0x1E x)
theorem vscale (x : V) : Statement (.vscale x) := fun _ _ => .inr (class8_word 0x1F x)
theorem vcvt (x : V) : Statement (.vcvt x) := fun _ _ => .inr (class9_word 0x01 x)
theorem vqmx (x : V) : Statement (.vqmx x) := fun _ _ => .inr (class9_word 0x02 x)
theorem vdqmx (x : V) : Statement (.vdqmx x) := fun _ _ => .inr (class9_word 0x03 x)
theorem vpack (x : V) : Statement (.vpack x) := fun _ _ => .inr (class9_word 0x04 x)
theorem vunpack (x : V) : Statement (.vunpack x) := fun _ _ => .inr (class9_word 0x05 x)
theorem vshuf (x : V) : Statement (.vshuf x) := fun _ _ => .inr (class9_word 0x06 x)
theorem vbcast (x : V) : Statement (.vbcast x) := fun _ _ => .inr (class9_word 0x07 x)
theorem vredadd (x : V) : Statement (.vredadd x) := fun _ _ => .inr (class9_word 0x08 x)
theorem vredmax (x : V) : Statement (.vredmax x) := fun _ _ => .inr (class9_word 0x09 x)
theorem vredmin (x : V) : Statement (.vredmin x) := fun _ _ => .inr (class9_word 0x0A x)
theorem vacc (x : V) : Statement (.vacc x) := fun _ _ => .inr (class9_word 0x0B x)
theorem varst (x : V) : Statement (.varst x) := fun _ _ => .inr (class9_word 0x0C x)
theorem vaout (x : V) : Statement (.vaout x) := fun _ _ => .inr (class9_word 0x0D x)
theorem vscan (x : V) : Statement (.vscan x) := fun _ _ => .inr (class9_word 0x0E x)
theorem vtos (x : V) : Statement (.vtos x) := fun _ _ => .inr (class9_word 0x0F x)
theorem vsteer (x : V) : Statement (.vsteer x) := fun _ _ => .inr (classA_word 0x01 x)
theorem vmerge (x : V) : Statement (.vmerge x) := fun _ _ => .inr (classA_word 0x02 x)
theorem pand (x : V) : Statement (.pand x) := fun _ _ => .inr (classA_word 0x03 x)
theorem por (x : V) : Statement (.por x) := fun _ _ => .inr (classA_word 0x04 x)
theorem pnot (x : V) : Statement (.pnot x) := fun _ _ => .inr (classA_word 0x05 x)
theorem pgen (x : V) : Statement (.pgen x) := fun _ _ => .inr (classA_word 0x06 x)
theorem pfrom (x : V) : Statement (.pfrom x) := fun _ _ => .inr (classA_word 0x07 x)
theorem pdrop (x : V) : Statement (.pdrop x) := fun _ _ => .inr (classA_word 0x08 x)
theorem agbase (x : D) : Statement (.agbase x) := fun _ _ => .inr (classB_word 0x01 x)
theorem agloop (x : D) : Statement (.agloop x) := fun _ _ => .inr (classB_word 0x02 x)
theorem sloop (x : D) : Statement (.sloop x) := fun _ _ => .inr (classB_word 0x0B x)
theorem agidx (x : D) : Statement (.agidx x) := fun _ _ => .inr (classB_word 0x03 x)
theorem srst (x : D) : Statement (.srst x) := fun _ _ => .inr (classB_word 0x09 x)
theorem sld (x : D) : Statement (.sld x) := fun _ _ => .inr (classB_word 0x04 x)
theorem sst (x : D) : Statement (.sst x) := fun _ _ => .inr (classB_word 0x05 x)
theorem sgath (x : D) : Statement (.sgath x) := fun _ _ => .inr (classB_word 0x06 x)
theorem sscat (x : D) : Statement (.sscat x) := fun _ _ => .inr (classB_word 0x07 x)
theorem sfill (x : D) : Statement (.sfill x) := fun _ _ => .inr (classB_word 0x0A x)
theorem sbar (x : D) : Statement (.sbar x) := fun _ _ => .inr (classB_word 0x08 x)
theorem btgive (x : D) : Statement (.btgive x) := fun _ _ => .inr (classB_word 0x0C x)
theorem bttake (x : D) : Statement (.bttake x) := fun _ _ => .inr (classB_word 0x0D x)
theorem tdset (x : D) : Statement (.tdset x) := fun _ _ => .inr (classC_word 0x01 x)
theorem tld (x : D) : Statement (.tld x) := fun _ _ => .inr (classC_word 0x02 x)
theorem tlda (x : D) : Statement (.tlda x) := fun _ _ => .inr (classC_word 0x03 x)
theorem tst (x : D) : Statement (.tst x) := fun _ _ => .inr (classC_word 0x04 x)
theorem tadd (x : D) : Statement (.tadd x) := fun _ _ => .inr (classC_word 0x05 x)
theorem tcpy (x : D) : Statement (.tcpy x) := fun _ _ => .inr (classC_word 0x06 x)
theorem cpy (x : D) : Statement (.cpy x) := fun _ _ => .inr (classC_word 0x07 x)
theorem cpymm (x : D) : Statement (.cpymm x) := fun _ _ => .inr (classC_word 0x08 x)
theorem coll (x : D) : Statement (.coll x) := fun _ _ => .inr (classC_word 0x09 x)
theorem mma (x : D) : Statement (.mma x) := fun _ _ => .inr (classD_word 0x01 x)
theorem mmaz (x : D) : Statement (.mmaz x) := fun _ _ => .inr (classD_word 0x02 x)
theorem azero (x : D) : Statement (.azero x) := fun _ _ => .inr (classD_word 0x03 x)
theorem adrain (x : D) : Statement (.adrain x) := fun _ _ => .inr (classD_word 0x04 x)
theorem arel (x : D) : Statement (.arel x) := fun _ _ => .inr (classD_word 0x05 x)
theorem wld (x : D) : Statement (.wld x) := fun _ _ => .inr (classD_word 0x06 x)
theorem wrel (x : D) : Statement (.wrel x) := fun _ _ => .inr (classD_word 0x07 x)
theorem cbld (x : D) : Statement (.cbld x) := fun _ _ => .inr (classD_word 0x08 x)
theorem amirror (x : D) : Statement (.amirror x) := fun _ _ => .inr (classD_word 0x09 x)
theorem aspill (x : D) : Statement (.aspill x) := fun _ _ => .inr (classD_word 0x0A x)
theorem icfg (x : D) : Statement (.icfg x) := fun _ _ => .inr (classE_word 0x01 x (by decide))
theorem iset (x : D) : Statement (.iset x) := fun _ _ => .inr (classE_word 0x02 x (by decide))
theorem iwire (x : D) : Statement (.iwire x) := fun _ _ => .inr (classE_word 0x03 x (by decide))
theorem iunwire (x : D) : Statement (.iunwire x) := fun _ _ => .inr (classE_word 0x04 x (by decide))
theorem istep (x : D) : Statement (.istep x) := fun _ _ => .inr (classE_word 0x05 x (by decide))
theorem isample (x : D) : Statement (.isample x) := fun _ _ => .inr (classE_word 0x06 x (by decide))
theorem istream (x : D) : Statement (.istream x) := fun hw _ => .inr (by
  obtain ⟨h1, h2, h3⟩ := D.fields_word 0xE 0x07 x
  have he : x.e = 0 := by have := passed hw; simp at this; exact this.2
  have h4 : (fieldAt 52 12 (x.word 0xE 0x07)).toNat = 0xE07 := by rw [top_fields, h1, h2]; rfl
  have h5 : (x.word 0xE 0x07).getLsbD 0 = false := by
    have : (fieldAt 0 20 (x.word 0xE 0x07)).getLsbD 0 = x.e.getLsbD 0 := congrArg (·.e.getLsbD 0) h3
    rw [he] at this
    simpa [fieldAt] using this
  exact ⟨fixedWord_istream h4 h5, by
    show opcodeOf (x.word 0xE 0x07) = _
    unfold opcodeOf; rw [h1, h2, h3]; rfl⟩)
theorem iinject (x : D) : Statement (.iinject x) := fun hw _ => .inr ⟨(classE_word 0x08 x (by decide)).1, by
  have e : x.b = 0 := by have := passed hw; simp at this; exact this.1
  refine (classE_word 0x08 x (by decide)).2.trans ?_
  simp [pick, classE, e]⟩
theorem iinjectPort (x : D) : Statement (.iinjectPort x) := fun hw _ => .inr ⟨(classE_word 0x08 x (by decide)).1, by
  have e : x.b = 1 := by have := passed hw; simp at this; exact this.1
  refine (classE_word 0x08 x (by decide)).2.trans ?_
  simp [pick, classE, e]⟩
theorem iflags (x : D) : Statement (.iflags x) := fun _ _ => .inr (classE_word 0x09 x (by decide))
theorem isave (x : D) : Statement (.isave x) := fun _ _ => .inr (classE_word 0x0A x (by decide))
theorem iload (x : D) : Statement (.iload x) := fun hw _ => .inr ⟨(classE_word 0x0B x (by decide)).1, by
  have e : x.e = 0 := by have := passed hw; simp at this; exact this.2.2
  refine (classE_word 0x0B x (by decide)).2.trans ?_
  simp [pick, classE, e]⟩
theorem iloadImage (x : D) : Statement (.iloadImage x) := fun hw _ => .inr ⟨(classE_word 0x0B x (by decide)).1, by
  have e : x.e = 1 := by have := passed hw; simp at this; exact this.2.2.2
  refine (classE_word 0x0B x (by decide)).2.trans ?_
  simp [pick, classE, e]⟩
theorem routeLocal (x : D) : Statement (.routeLocal x) := fun hw _ => .inr ⟨(classF_word 0x01 x).1, by
  have e : x.c.toNat % 16 = 0 := by have := passed hw; simp at this; exact this.1
  refine (classF_word 0x01 x).2.trans ?_
  simp [pick, classF, e]⟩
theorem routeRemote (x : D) : Statement (.routeRemote x) := fun hw _ => .inr ⟨(classF_word 0x01 x).1, by
  have e : x.c.toNat % 16 = 1 := by have := passed hw; simp at this; exact this.1
  refine (classF_word 0x01 x).2.trans ?_
  simp [pick, classF, e]⟩
theorem routeRank (x : D) : Statement (.routeRank x) := fun hw _ => .inr ⟨(classF_word 0x01 x).1, by
  have e : x.c.toNat % 16 = 2 := by have := passed hw; simp at this; exact this.1
  refine (classF_word 0x01 x).2.trans ?_
  simp [pick, classF, e]⟩
theorem routeFile (x : D) : Statement (.routeFile x) := fun hw _ => .inr ⟨(classF_word 0x01 x).1, by
  have e : x.c.toNat % 16 = 3 := by have := passed hw; simp at this; exact this.1
  refine (classF_word 0x01 x).2.trans ?_
  simp [pick, classF, e]⟩
theorem routeHold (x : D) : Statement (.routeHold x) := fun hw _ => .inr ⟨(classF_word 0x01 x).1, by
  have e : x.c.toNat % 16 = 4 := by have := passed hw; simp at this; exact this.1
  refine (classF_word 0x01 x).2.trans ?_
  simp [pick, classF, e]⟩
theorem routeExpect (x : D) : Statement (.routeExpect x) := fun hw _ => .inr ⟨(classF_word 0x01 x).1, by
  have e : x.c.toNat % 16 = 5 := by have := passed hw; simp at this; exact this.1
  refine (classF_word 0x01 x).2.trans ?_
  simp [pick, classF, e]⟩
theorem rtab (x : D) : Statement (.rtab x) := fun _ _ => .inr (classF_word 0x02 x)
theorem cfgblk (x : D) : Statement (.cfgblk x) := fun _ _ => .inr (classF_word 0x03 x)
theorem actrate (x : D) : Statement (.actrate x) := fun _ _ => .inr (classF_word 0x04 x)
theorem undefinedWord (w : BitVec 64) : Statement (.undefinedWord w) := of_wordless rfl
theorem halt : Statement .halt := fun _ _ => .inl rfl
theorem nop : Statement .nop := fun _ _ => .inl rfl
theorem yield : Statement .yield := fun _ _ => .inl rfl
theorem cbclose : Statement .cbclose := fun _ _ => .inl rfl
theorem tret : Statement .tret := fun _ _ => .inl rfl
theorem istreamOff : Statement .istreamOff := fun _ _ => .inl rfl
theorem actorFiring : Statement .actorFiring := of_wordless rfl
theorem streamBeat : Statement .streamBeat := of_wordless rfl
theorem beatReplay : Statement .beatReplay := of_wordless rfl
theorem matrixStep : Statement .matrixStep := of_wordless rfl
theorem drainFiring : Statement .drainFiring := of_wordless rfl
theorem accumulatorSpill : Statement .accumulatorSpill := of_wordless rfl
theorem matrixMarkerEffect : Statement .matrixMarkerEffect := of_wordless rfl
theorem weightFillComplete : Statement .weightFillComplete := of_wordless rfl
theorem istepFiring : Statement .istepFiring := of_wordless rfl
theorem bankMarkerEffect : Statement .bankMarkerEffect := of_wordless rfl
theorem tokenSend : Statement .tokenSend := of_wordless rfl
theorem tokenDelivery : Statement .tokenDelivery := of_wordless rfl
theorem tilePerform : Statement .tilePerform := of_wordless rfl
theorem copyPerform : Statement .copyPerform := of_wordless rfl
theorem followOnMmaStart : Statement .followOnMmaStart := of_wordless rfl
theorem publication : Statement .publication := of_wordless rfl
theorem publishFlip : Statement .publishFlip := of_wordless rfl
theorem windowFill : Statement .windowFill := of_wordless rfl
theorem bankTokenSend : Statement .bankTokenSend := of_wordless rfl
theorem bankTokenArrival : Statement .bankTokenArrival := of_wordless rfl
theorem pageWalk : Statement .pageWalk := of_wordless rfl
theorem backgroundScrub : Statement .backgroundScrub := of_wordless rfl
theorem barrierCompletion : Statement .barrierCompletion := of_wordless rfl
theorem supervisorResume : Statement .supervisorResume := of_wordless rfl
theorem schedulerDecision : Statement .schedulerDecision := of_wordless rfl
theorem agingStep : Statement .agingStep := of_wordless rfl
theorem strandRelease : Statement .strandRelease := of_wordless rfl
theorem rankStart : Statement .rankStart := of_wordless rfl
theorem launchRetirement : Statement .launchRetirement := of_wordless rfl
theorem headlandScrub : Statement .headlandScrub := of_wordless rfl
theorem boundaryException : Statement .boundaryException := of_wordless rfl
theorem timer : Statement .timer := of_wordless rfl
theorem timecmpWrite : Statement .timecmpWrite := of_wordless rfl
theorem formatWindowWrite : Statement .formatWindowWrite := of_wordless rfl
theorem agRecordWrite : Statement .agRecordWrite := of_wordless rfl
theorem watchdogExpiry : Statement .watchdogExpiry := of_wordless rfl
theorem preemptionEscalation : Statement .preemptionEscalation := of_wordless rfl
theorem actorPark : Statement .actorPark := of_wordless rfl
theorem drainComplete : Statement .drainComplete := of_wordless rfl
theorem residentSwitch : Statement .residentSwitch := of_wordless rfl
theorem energySample : Statement .energySample := of_wordless rfl
theorem quotaPeriodBoundary : Statement .quotaPeriodBoundary := of_wordless rfl
theorem gyordHello : Statement .gyordHello := of_wordless rfl
theorem gyordLaunch : Statement .gyordLaunch := of_wordless rfl
theorem gyordCopy : Statement .gyordCopy := of_wordless rfl
theorem gyordEventSig : Statement .gyordEventSig := of_wordless rfl
theorem gyordEventWait : Statement .gyordEventWait := of_wordless rfl
theorem gyordEventRead : Statement .gyordEventRead := of_wordless rfl
theorem gyordQueryLaunch : Statement .gyordQueryLaunch := of_wordless rfl
theorem gyordQueryRcb : Statement .gyordQueryRcb := of_wordless rfl
theorem gyordManagement : Statement .gyordManagement := of_wordless rfl
theorem neterr : Statement .neterr := of_wordless rfl
theorem knabryTraining : Statement .knabryTraining := of_wordless rfl
theorem flitRequest : Statement .flitRequest := of_wordless rfl
theorem flitResponse : Statement .flitResponse := of_wordless rfl
theorem flitSnoop : Statement .flitSnoop := of_wordless rfl
theorem flitSnoopReply : Statement .flitSnoopReply := of_wordless rfl
theorem flitContribution : Statement .flitContribution := of_wordless rfl
theorem flitResult : Statement .flitResult := of_wordless rfl
theorem flitHold : Statement .flitHold := of_wordless rfl
theorem flitRelease : Statement .flitRelease := of_wordless rfl
theorem flitCredit : Statement .flitCredit := of_wordless rfl
theorem flitCrcRetry : Statement .flitCrcRetry := of_wordless rfl
theorem directoryRds : Statement .directoryRds := of_wordless rfl
theorem directoryRdx : Statement .directoryRdx := of_wordless rfl
theorem directoryWrh : Statement .directoryWrh := of_wordless rfl
theorem directoryEvict : Statement .directoryEvict := of_wordless rfl
theorem dirtyNotice : Statement .dirtyNotice := of_wordless rfl
theorem invalidationTimeout : Statement .invalidationTimeout := of_wordless rfl
theorem snoopTimeout : Statement .snoopTimeout := of_wordless rfl
theorem ownerReachable : Statement .ownerReachable := of_wordless rfl
theorem snptmoWrite : Statement .snptmoWrite := of_wordless rfl
theorem podRangeWrite : Statement .podRangeWrite := of_wordless rfl
theorem collPathWrite : Statement .collPathWrite := of_wordless rfl
theorem collectiveSuccess : Statement .collectiveSuccess := of_wordless rfl
theorem collectiveTimeout : Statement .collectiveTimeout := of_wordless rfl
theorem ucieRetryThreshold : Statement .ucieRetryThreshold := of_wordless rfl
theorem ucieFlitFail : Statement .ucieFlitFail := of_wordless rfl
theorem quiesceTimeout : Statement .quiesceTimeout := of_wordless rfl
theorem ucieRetryConfigWrite : Statement .ucieRetryConfigWrite := of_wordless rfl
theorem scopeCheckControlWrite : Statement .scopeCheckControlWrite := of_wordless rfl
theorem traceRingWrite : Statement .traceRingWrite := of_wordless rfl
theorem journalSubmit : Statement .journalSubmit := of_wordless rfl
theorem journalAppend : Statement .journalAppend := of_wordless rfl
theorem hubRegisterWrite : Statement .hubRegisterWrite := of_wordless rfl
theorem fatalDump : Statement .fatalDump := of_wordless rfl
theorem gambitWindowSwitch : Statement .gambitWindowSwitch := of_wordless rfl
theorem gambitTrialEnd : Statement .gambitTrialEnd := of_wordless rfl
theorem tempostopWarning : Statement .tempostopWarning := of_wordless rfl
theorem tempoStop : Statement .tempoStop := of_wordless rfl
theorem podTempoAlign : Statement .podTempoAlign := of_wordless rfl
theorem powerOnReset : Statement .powerOnReset := of_wordless rfl
theorem acrePowerUp : Statement .acrePowerUp := of_wordless rfl
theorem linkMemoryTraining : Statement .linkMemoryTraining := of_wordless rfl
theorem moduleReady : Statement .moduleReady := of_wordless rfl
theorem dieWarm : Statement .dieWarm := of_wordless rfl
theorem acreHot : Statement .acreHot := of_wordless rfl
theorem dieOvertemp : Statement .dieOvertemp := of_wordless rfl
theorem powerCapSet : Statement .powerCapSet := of_wordless rfl
theorem operatingPointChange : Statement .operatingPointChange := of_wordless rfl
theorem dbghalt : Statement .dbghalt := of_wordless rfl
theorem debugResume : Statement .debugResume := of_wordless rfl
theorem debuggerAccess : Statement .debuggerAccess := of_wordless rfl
theorem ctxrst : Statement .ctxrst := of_wordless rfl
theorem dumpreq : Statement .dumpreq := of_wordless rfl
theorem managementRead : Statement .managementRead := of_wordless rfl
theorem recoveryFlashImage : Statement .recoveryFlashImage := of_wordless rfl
theorem extint : Statement .extint := of_wordless rfl
theorem entropyBitsReady : Statement .entropyBitsReady := of_wordless rfl
theorem managementAcknowledge : Statement .managementAcknowledge := of_wordless rfl
theorem holdchildRelease : Statement .holdchildRelease := of_wordless rfl
theorem ethernetLinkUp : Statement .ethernetLinkUp := of_wordless rfl

end Sys2Proof.Laws.ReadsBack
end

