-- ==== Sys2Proof/Tests/Slice0.lean ====
section
/-! SUPPORT. The model's own tests: words written out from the spec's encodings, an ill-formed term for each check of an
instruction's form, and states and operands that meet the hypotheses of the statements. -/
open Sys2Proof.Machine
set_option linter.unusedVariables false
namespace Sys2Proof.Tests

-- the tests that the kernel evaluates are checked one after the other, for the memory that they take
set_option Elab.async false

/-! ## Words put together field by field from R116 to R122 and the opcode numbers of the rules of each family (R129): each
decodes to the instruction beside it -/

/-- Every word decodes to the instruction beside it. -/
def reads (l : List (Nat × Instr)) : Bool :=
  l.all fun p => match decodeWord (BitVec.ofNat 64 p.1) with | .ok i => i == p.2 | _ => false
abbrev Reads (l : List (Nat × Instr)) : Prop := reads l = true

theorem test_decode_s3_1 : Reads [
  (0x001ADD6000010000, .add { sd := 21, sa := 23, sb := 11, sc := 0, mod := 1, z := 0 }),
  (0x002D0E0000010000, .sub { sd := 26, sa := 3, sb := 16, sc := 0, mod := 1, z := 0 }),
  (0x003D308000010000, .mul { sd := 26, sa := 12, sb := 4, sc := 0, mod := 1, z := 0 }),
  (0x004794A000000000, .mulh { sd := 15, sa := 5, sb := 5, sc := 0, mod := 0, z := 0 }),
  (0x00532A2000000000, .mulhu { sd := 6, sa := 10, sb := 17, sc := 0, mod := 0, z := 0 }),
  (0x006D408000000000, .div { sd := 26, sa := 16, sb := 4, sc := 0, mod := 0, z := 0 }),
  (0x0071B9C000000000, .divu { sd := 3, sa := 14, sb := 14, sc := 0, mod := 0, z := 0 }),
  (0x00844A2000000000, .mod { sd := 8, sa := 18, sb := 17, sc := 0, mod := 0, z := 0 }),
  (0x0096626000000000, .modu { sd := 12, sa := 24, sb := 19, sc := 0, mod := 0, z := 0 }),
  (0x00AC0EE000000000, .and { sd := 24, sa := 3, sb := 23, sc := 0, mod := 0, z := 0 }),
  (0x00B65C6000000000, .or { sd := 12, sa := 23, sb := 3, sc := 0, mod := 0, z := 0 }),
  (0x00C3AEE000000000, .xor { sd := 7, sa := 11, sb := 23, sc := 0, mod := 0, z := 0 }),
  (0x00DDA06000000000, .andn { sd := 27, sa := 8, sb := 3, sc := 0, mod := 0, z := 0 }),
  (0x00ED06A000000000, .shl { sd := 26, sa := 1, sb := 21, sc := 0, mod := 0, z := 0 }),
  (0x00F99DE000000000, .shr { sd := 19, sa := 7, sb := 15, sc := 0, mod := 0, z := 0 }),
  (0x0104E7C000000000, .sra { sd := 9, sa := 25, sb := 30, sc := 0, mod := 0, z := 0 }),
  (0x01146C6000000000, .rol { sd := 8, sa := 27, sb := 3, sc := 0, mod := 0, z := 0 }),
  (0x012C5F6000000000, .min { sd := 24, sa := 23, sb := 27, sc := 0, mod := 0, z := 0 }),
  (0x0137134000000000, .max { sd := 14, sa := 4, sb := 26, sc := 0, mod := 0, z := 0 }),
  (0x014A9BE000000000, .minu { sd := 21, sa := 6, sb := 31, sc := 0, mod := 0, z := 0 })] := by decide

theorem test_decode_s3_2 : Reads [
  (0x015D676000000000, .maxu { sd := 26, sa := 25, sb := 27, sc := 0, mod := 0, z := 0 }),
  (0x0160BBE000000000, .slt { sd := 1, sa := 14, sb := 31, sc := 0, mod := 0, z := 0 }),
  (0x0172C0E000000000, .sltu { sd := 5, sa := 16, sb := 7, sc := 0, mod := 0, z := 0 }),
  (0x018F362000000000, .seq { sd := 30, sa := 13, sb := 17, sc := 0, mod := 0, z := 0 }),
  (0x0191857600000000, .sel { sd := 3, sa := 1, sb := 11, sc := 22, mod := 0, z := 0 }),
  (0x01A4CC3300010000, .madd { sd := 9, sa := 19, sb := 1, sc := 19, mod := 1, z := 0 }),
  (0x01B16160002F0000, .addsh { sd := 2, sa := 24, sb := 11, sc := 0, mod := 47, z := 0 }),
  (0x01C66C0000000000, .clz { sd := 12, sa := 27, sb := 0, sc := 0, mod := 0, z := 0 }),
  (0x01D43C0000000000, .ctz { sd := 8, sa := 15, sb := 0, sc := 0, mod := 0, z := 0 }),
  (0x01E1880000000000, .popc { sd := 3, sa := 2, sb := 0, sc := 0, mod := 0, z := 0 }),
  (0x01FA980000000000, .brev { sd := 21, sa := 6, sb := 0, sc := 0, mod := 0, z := 0 }),
  (0x020C2000001B0000, .sext { sd := 24, sa := 8, sb := 0, sc := 0, mod := 27, z := 0 }),
  (0x0211C00000050000, .zext { sd := 3, sa := 16, sb := 0, sc := 0, mod := 5, z := 0 }),
  (0x022A9C00000E0000, .bfx { sd := 21, sa := 7, sb := 0, sc := 0, mod := 14, z := 0 }),
  (0x023A100000030000, .bfi { sd := 20, sa := 4, sb := 0, sc := 0, mod := 3, z := 0 }),
  (0x024DDC0000060000, .movm { sd := 27, sa := 23, sb := 0, sc := 0, mod := 6, z := 0 })] := by decide

theorem test_decode_si : Reads [
  (0x1017FC010000009A, .addi { sd := 15, sa := 31, mod := 1, imm := 154 }),
  (0x102114011A88FE00, .muli { sd := 2, sa := 5, mod := 1, imm := 0x1a88fe00 }),
  (0x103860000000000A, .andi { sd := 16, sa := 24, mod := 0, imm := 10 }),
  (0x1042C400000000A7, .ori { sd := 5, sa := 17, mod := 0, imm := 167 }),
  (0x10527400000000E9, .xori { sd := 4, sa := 29, mod := 0, imm := 233 }),
  (0x1067440000000001, .shli { sd := 14, sa := 17, mod := 0, imm := 1 }),
  (0x10745C0000000012, .shri { sd := 8, sa := 23, mod := 0, imm := 18 }),
  (0x108F34000000000F, .srai { sd := 30, sa := 13, mod := 0, imm := 15 }),
  (0x10983000DF319334, .slti { sd := 16, sa := 12, mod := 0, imm := 0xdf319334 }),
  (0x10ABB40000000006, .sltiu { sd := 23, sa := 13, mod := 0, imm := 6 }),
  (0x10B7080000000002, .seqi { sd := 14, sa := 2, mod := 0, imm := 2 }),
  (0x10C500000000008E, .li { sd := 10, sa := 0, mod := 0, imm := 142 }),
  (0x10D6800052B0ACDC, .lih { sd := 13, sa := 0, mod := 0, imm := 0x52b0acdc }),
  (0x10E18000580A0067, .lea { sd := 3, sa := 0, mod := 0, imm := 0x580a0067 })] := by decide

theorem test_decode_loads : Reads [
  (0x28128C0000000075, .ldb { s := 1, zz := 0, rd := 5, sa := 3, cnt := 0, scope := 0, order := 0, off := 117 }),
  (0x2025E02100000005, .ldbu { s := 0, zz := 0, rd := 11, sa := 24, cnt := 0, scope := 4, order := 1, off := 5 }),
  (0x20389001000000D2, .ldh { s := 0, zz := 0, rd := 17, sa := 4, cnt := 0, scope := 0, order := 1, off := 210 }),
  (0x204AD80100000008, .ldhu { s := 0, zz := 0, rd := 21, sa := 22, cnt := 0, scope := 0, order := 1, off := 8 }),
  (0x285964000000000E, .ldw { s := 1, zz := 0, rd := 18, sa := 25, cnt := 0, scope := 0, order := 0, off := 14 }),
  (0x286EF40000000001, .ldwu { s := 1, zz := 0, rd := 29, sa := 29, cnt := 0, scope := 0, order := 0, off := 1 }),
  (0x287EB000000000A4, .ldd { s := 1, zz := 0, rd := 29, sa := 12, cnt := 0, scope := 0, order := 0, off := 164 }),
  (0x288CD40000000092, .stb { s := 1, zz := 0, rd := 25, sa := 21, cnt := 0, scope := 0, order := 0, off := 146 }),
  (0x289CB8000000000E, .sth { s := 1, zz := 0, rd := 25, sa := 14, cnt := 0, scope := 0, order := 0, off := 14 }),
  (0x28ACF00000000034, .stw { s := 1, zz := 0, rd := 25, sa := 28, cnt := 0, scope := 0, order := 0, off := 52 }),
  (0x28B3F4000000000C, .std { s := 1, zz := 0, rd := 7, sa := 29, cnt := 0, scope := 0, order := 0, off := 12 }),
  (0x28C08DC010000000, .ldm { s := 1, zz := 0, rd := 1, sa := 3, cnt := 7, scope := 0, order := 0, off := 0x10000000 }),
  (0x28D8718000000019, .stm { s := 1, zz := 0, rd := 16, sa := 28, cnt := 6, scope := 0, order := 0, off := 25 }),
  (0x20E0240140000000, .pref { s := 0, zz := 0, rd := 0, sa := 9, cnt := 0, scope := 0, order := 1, off := 0x40000000 }),
  (0x20F03C0000000032, .clean { s := 0, zz := 0, rd := 0, sa := 15, cnt := 0, scope := 0, order := 0, off := 50 })] := by decide

theorem test_decode_atomics : Reads [
  (0x3C1CDC180000006E, .aadd { s := 1, zz := 1, rd := 25, sa := 23, cnt := 0, scope := 3, order := 0, off := 110 }),
  (0x3C24402200000010, .aand { s := 1, zz := 1, rd := 8, sa := 16, cnt := 0, scope := 4, order := 2, off := 16 }),
  (0x3C337C1801130FE4, .aor { s := 1, zz := 1, rd := 6, sa := 31, cnt := 0, scope := 3, order := 0, off := 0x1130fe4 }),
  (0x3C41C40800000072, .axor { s := 1, zz := 1, rd := 3, sa := 17, cnt := 0, scope := 1, order := 0, off := 114 }),
  (0x385B702300000018, .amin { s := 1, zz := 0, rd := 22, sa := 28, cnt := 0, scope := 4, order := 3, off := 24 }),
  (0x3C659C100000000D, .amax { s := 1, zz := 1, rd := 11, sa := 7, cnt := 0, scope := 2, order := 0, off := 13 }),
  (0x3C7BF00B00000007, .aminu { s := 1, zz := 1, rd := 23, sa := 28, cnt := 0, scope := 1, order := 3, off := 7 }),
  (0x38840C21000000E5, .amaxu { s := 1, zz := 0, rd := 8, sa := 3, cnt := 0, scope := 4, order := 1, off := 229 }),
  (0x3C9E8022365A2FCE, .aswp { s := 1, zz := 1, rd := 29, sa := 0, cnt := 0, scope := 4, order := 2, off := 0x365a2fce }),
  (0x3CA11C1200000003, .acas { s := 1, zz := 1, rd := 2, sa := 7, cnt := 0, scope := 2, order := 2, off := 3 }),
  (0x38B52C0200000800, .afadd { s := 1, zz := 0, rd := 10, sa := 11, cnt := 0, scope := 0, order := 2, off := 2048 }),
  (0x30C000000000000A, .fence { s := 0, zz := 0, rd := 0, sa := 0, cnt := 0, scope := 0, order := 0, off := 10 }),
  (0x30D0000100000000, .phaseAcq { s := 0, zz := 0, rd := 0, sa := 0, cnt := 0, scope := 0, order := 1, off := 0 }),
  (0x30D0002200000000, .phaseRel { s := 0, zz := 0, rd := 0, sa := 0, cnt := 0, scope := 4, order := 2, off := 0 }),
  (0x30D0001300000000, .phaseAr { s := 0, zz := 0, rd := 0, sa := 0, cnt := 0, scope := 2, order := 3, off := 0 }),
  (0x30EB780000000003, .publish { s := 0, zz := 0, rd := 22, sa := 30, cnt := 0, scope := 0, order := 0, off := 3 })] := by decide

theorem test_decode_control : Reads [
  (0x40127A000000000A, .beq { sa := 4, sb := 30, hint := 2, z := 0, off := 10 }),
  (0x402DDE0000000032, .bne { sa := 27, sb := 23, hint := 2, z := 0, off := 50 }),
  (0x40368A0000000020, .blt { sa := 13, sb := 2, hint := 2, z := 0, off := 32 }),
  (0x40449D0000000001, .bge { sa := 9, sb := 7, hint := 1, z := 0, off := 1 }),
  (0x4050D90000000003, .bltu { sa := 1, sb := 22, hint := 1, z := 0, off := 3 }),
  (0x40685A000000005D, .bgeu { sa := 16, sb := 22, hint := 2, z := 0, off := 93 }),
  (0x407000000000002C, .j { sa := 0, sb := 0, hint := 0, z := 0, off := 44 }),
  (0x40800000000000C7, .jal { sa := 0, sb := 0, hint := 0, z := 0, off := 199 }),
  (0x4091180000000001, .jalr { sa := 2, sb := 6, hint := 0, z := 0, off := 1 }),
  (0x40A8820000000003, .loop { sa := 17, sb := 0, hint := 2, z := 0, off := 3 }),
  (0x40E0000000000001, .progress { sa := 0, sb := 0, hint := 0, z := 0, off := 1 }),
  (0x40B0000000000000, .halt),
  (0x40C0000000000000, .nop),
  (0x40D0000000000000, .yield)] := by decide

theorem test_decode_sync : Reads [
  (0x5012800000000002, .srd { sd := 5, sa := 0, sb := 0, scope := 0, imm := 2 }),
  (0x50200C0000000003, .swr { sd := 0, sa := 3, sb := 0, scope := 0, imm := 3 }),
  (0x5034000000000001, .tagwaitany { sd := 8, sa := 0, sb := 0, scope := 0, imm := 1 }),
  (0x5040000000000001, .tagwaitall { sd := 0, sa := 0, sb := 0, scope := 0, imm := 1 }),
  (0x5052800000000001, .tagff { sd := 5, sa := 0, sb := 0, scope := 0, imm := 1 }),
  (0x5060000000000002, .tagclr { sd := 0, sa := 0, sb := 0, scope := 0, imm := 2 }),
  (0x5080000000000007, .cbwait { sd := 0, sa := 0, sb := 0, scope := 0, imm := 7 }),
  (0x509F800300000001, .bararv { sd := 31, sa := 0, sb := 0, scope := 3, imm := 1 }),
  (0x50A0000400000000, .barwait { sd := 0, sa := 0, sb := 0, scope := 4, imm := 0 }),
  (0x50B380010000000B, .bar { sd := 7, sa := 0, sb := 0, scope := 1, imm := 11 }),
  (0x50C9C0000000003A, .evsig { sd := 19, sa := 16, sb := 0, scope := 0, imm := 58 }),
  (0x50DA1FA000000000, .evwait { sd := 20, sa := 7, sb := 29, scope := 0, imm := 0 }),
  (0x50E3F80000000000, .evrst { sd := 7, sa := 30, sb := 0, scope := 0, imm := 0 }),
  (0x50F1000000000000, .evalloc { sd := 2, sa := 0, sb := 0, scope := 0, imm := 0 }),
  (0x5103640000000000, .launch { sd := 6, sa := 25, sb := 0, scope := 0, imm := 0 }),
  (0x5114800000000000, .seed { sd := 9, sa := 0, sb := 0, scope := 0, imm := 0 }),
  (0x512673E000000002, .stashdecl { sd := 12, sa := 28, sb := 31, scope := 0, imm := 2 }),
  (0x513054000000000B, .carryx { sd := 0, sa := 21, sb := 0, scope := 0, imm := 11 }),
  (0x51405B6000000003, .carryi { sd := 0, sa := 22, sb := 27, scope := 0, imm := 3 }),
  (0x5070000000000000, .cbclose)] := by decide

theorem test_decode_system_1 : Reads [
  (0x6010000000000012, .trap { sd := 0, sa := 0, sb := 0, scope := 0, imm := 18 }),
  (0x60100000B85E48E7, .trapBrkpt { sd := 0, sa := 0, sb := 0, scope := 0, imm := 0xb85e48e7 }),
  (0x603C80000000000A, .srdp { sd := 25, sa := 0, sb := 0, scope := 0, imm := 10 }),
  (0x60404C0000000009, .swrp { sd := 0, sa := 19, sb := 0, scope := 0, imm := 9 }),
  (0x6055540000000000, .genbump { sd := 10, sa := 21, sb := 0, scope := 0, imm := 0 }),
  (0x6065880000000000, .scrub { sd := 11, sa := 2, sb := 0, scope := 0, imm := 0 }),
  (0x6079270000000001, .tmask { sd := 18, sa := 9, sb := 24, scope := 0, imm := 1 }),
  (0x608A68000000003A, .drainmk { sd := 20, sa := 26, sb := 0, scope := 0, imm := 58 }),
  (0x6098494000000000, .ctxsave { sd := 16, sa := 18, sb := 10, scope := 0, imm := 0 }),
  (0x60A4966000000001, .ctxload { sd := 9, sa := 5, sb := 19, scope := 0, imm := 1 }),
  (0x60BAD00000000000, .relink { sd := 21, sa := 20, sb := 0, scope := 0, imm := 0 }),
  (0x60C57C2000000000, .lnkctlQuiesce { sd := 10, sa := 31, sb := 1, scope := 0, imm := 0 }),
  (0x60C16B8000000001, .lnkctlRemap { sd := 2, sa := 26, sb := 28, scope := 0, imm := 1 }),
  (0x60CD930000000002, .lnkctlRetrain { sd := 27, sa := 4, sb := 24, scope := 0, imm := 2 }),
  (0x60CA162000000003, .lnkctlResume { sd := 20, sa := 5, sb := 17, scope := 0, imm := 3 }),
  (0x60CB4F0000000004, .lnkctlMargin { sd := 22, sa := 19, sb := 24, scope := 0, imm := 4 }),
  (0x60DB480000000003, .lnkst { sd := 22, sa := 18, sb := 0, scope := 0, imm := 3 }),
  (0x60EFB00000000000, .dirq { sd := 31, sa := 12, sb := 0, scope := 0, imm := 0 }),
  (0x60F02E0000000000, .dirreclaim { sd := 0, sa := 11, sb := 16, scope := 0, imm := 0 }),
  (0x610A9C600000000F, .jrnlrd { sd := 21, sa := 7, sb := 3, scope := 0, imm := 15 })] := by decide

theorem test_decode_system_2 : Reads [
  (0x611049E000000001, .tlbinv { sd := 0, sa := 18, sb := 15, scope := 0, imm := 1 }),
  (0x6120700000000000, .tempostop { sd := 0, sa := 28, sb := 0, scope := 0, imm := 0 }),
  (0x6139380000000000, .gambit { sd := 18, sa := 14, sb := 0, scope := 0, imm := 0 }),
  (0x613F140000000001, .gambitStop { sd := 30, sa := 5, sb := 0, scope := 0, imm := 1 }),
  (0x614F07C0000000C1, .mbox { sd := 30, sa := 1, sb := 30, scope := 0, imm := 193 }),
  (0x6020000000000000, .tret)] := by decide

theorem test_decode_vector_1 : Reads [
  (0x801040120001E500, .vadd { dst := 2, a := 0, b := 36, c := 0, ty := 0, rnd := 0, gate := 7, ge := 1, count := 5, mod := 0 }),
  (0x802023C000122000, .vsub { dst := 1, a := 15, b := 0, c := 0, ty := 1, rnd := 1, gate := 0, ge := 1, count := 0, mod := 0 }),
  (0x8034A02480D1B900, .vmul { dst := 37, a := 0, b := 73, c := 0, ty := 13, rnd := 0, gate := 6, ge := 1, count := 25, mod := 0 }),
  (0x8044A005A119F100, .vfma { dst := 37, a := 0, b := 11, c := 33, ty := 1, rnd := 4, gate := 7, ge := 1, count := 17, mod := 0 }),
  (0x8051C034CD201400, .vfms { dst := 14, a := 0, b := 105, c := 77, ty := 2, rnd := 0, gate := 0, ge := 0, count := 20, mod := 0 }),
  (0x80601EFB6A29BB00, .vfnma { dst := 0, a := 123, b := 118, c := 106, ty := 2, rnd := 4, gate := 6, ge := 1, count := 27, mod := 0 }),
  (0x8070803780042A00, .vdiv { dst := 4, a := 0, b := 111, c := 0, ty := 0, rnd := 2, gate := 0, ge := 1, count := 10, mod := 0 }),
  (0x8080B0C000083400, .vsqrt { dst := 5, a := 67, b := 0, c := 0, ty := 0, rnd := 4, gate := 0, ge := 1, count := 20, mod := 0 }),
  (0x8091BF8000080E00, .vrcp { dst := 13, a := 126, b := 0, c := 0, ty := 0, rnd := 4, gate := 0, ge := 0, count := 14, mod := 0 }),
  (0x80A135C000002000, .vrsq { dst := 9, a := 87, b := 0, c := 0, ty := 0, rnd := 0, gate := 0, ge := 1, count := 0, mod := 0 }),
  (0x80B0090000080500, .vexp2 { dst := 0, a := 36, b := 0, c := 0, ty := 0, rnd := 4, gate := 0, ge := 0, count := 5, mod := 0 }),
  (0x80C0200000043500, .vlog2 { dst := 1, a := 0, b := 0, c := 0, ty := 0, rnd := 2, gate := 0, ge := 1, count := 21, mod := 0 }),
  (0x80D008A200C02A00, .vmin { dst := 0, a := 34, b := 68, c := 0, ty := 12, rnd := 0, gate := 0, ge := 1, count := 10, mod := 0 }),
  (0x80E0165200B1B400, .vmax { dst := 0, a := 89, b := 36, c := 0, ty := 11, rnd := 0, gate := 6, ge := 1, count := 20, mod := 0 }),
  (0x80F4D4C000A01400, .vabs { dst := 38, a := 83, b := 0, c := 0, ty := 10, rnd := 0, gate := 0, ge := 0, count := 20, mod := 0 }),
  (0x8100000000A01400, .vneg { dst := 0, a := 0, b := 0, c := 0, ty := 10, rnd := 0, gate := 0, ge := 0, count := 20, mod := 0 }),
  (0x8114200024A12000, .vclamp { dst := 33, a := 0, b := 0, c := 36, ty := 10, rnd := 0, gate := 4, ge := 1, count := 0, mod := 0 }),
  (0x8121DE8600400D00, .vand { dst := 14, a := 122, b := 12, c := 0, ty := 4, rnd := 0, gate := 0, ge := 0, count := 13, mod := 0 }),
  (0x8130202C00902A00, .vor { dst := 1, a := 0, b := 88, c := 0, ty := 9, rnd := 0, gate := 0, ge := 1, count := 10, mod := 0 }),
  (0x814018EC80C01200, .vxor { dst := 0, a := 99, b := 89, c := 0, ty := 12, rnd := 0, gate := 0, ge := 0, count := 18, mod := 0 })] := by decide

theorem test_decode_vector_2 : Reads [
  (0x8154000000A01700, .vshl { dst := 32, a := 0, b := 0, c := 0, ty := 10, rnd := 0, gate := 0, ge := 0, count := 23, mod := 0 }),
  (0x816401F180B00000, .vshr { dst := 32, a := 7, b := 99, c := 0, ty := 11, rnd := 0, gate := 0, ge := 0, count := 0, mod := 0 }),
  (0x8174800000B02000, .vsra { dst := 36, a := 0, b := 0, c := 0, ty := 11, rnd := 0, gate := 0, ge := 1, count := 0, mod := 0 }),
  (0x8184200000A12000, .vcmpeq { dst := 33, a := 0, b := 0, c := 0, ty := 10, rnd := 0, gate := 4, ge := 1, count := 0, mod := 0 }),
  (0x8194BB1380201200, .vcmplt { dst := 37, a := 108, b := 39, c := 0, ty := 2, rnd := 0, gate := 0, ge := 0, count := 18, mod := 0 }),
  (0x81A0000400202200, .vcmple { dst := 0, a := 0, b := 8, c := 0, ty := 2, rnd := 0, gate := 0, ge := 1, count := 2, mod := 0 }),
  (0x81B4800070407C00, .vsel { dst := 36, a := 0, b := 0, c := 112, ty := 4, rnd := 0, gate := 1, ge := 1, count := 28, mod := 0 }),
  (0x81C4200000801400, .vmov { dst := 33, a := 0, b := 0, c := 0, ty := 8, rnd := 0, gate := 0, ge := 0, count := 20, mod := 0 }),
  (0x81D0158000A01200, .viota { dst := 0, a := 86, b := 0, c := 0, ty := 10, rnd := 0, gate := 0, ge := 0, count := 18, mod := 0 }),
  (0x81E4B0EF51A16900, .vrng { dst := 37, a := 67, b := 94, c := 81, ty := 10, rnd := 0, gate := 5, ge := 1, count := 9, mod := 0 }),
  (0x81F018FC00023200, .vscale { dst := 0, a := 99, b := 120, c := 0, ty := 0, rnd := 1, gate := 0, ge := 1, count := 18, mod := 0 })] := by decide

theorem test_decode_convert : Reads [
  (0x9010000000261E04, .vcvt { dst := 0, a := 0, b := 0, c := 0, ty := 2, rnd := 3, gate := 0, ge := 0, count := 30, mod := 4 }),
  (0x9020030000600000, .vqmx { dst := 0, a := 12, b := 0, c := 0, ty := 6, rnd := 0, gate := 0, ge := 0, count := 0, mod := 0 }),
  (0x9030000000700C00, .vdqmx { dst := 0, a := 0, b := 0, c := 0, ty := 7, rnd := 0, gate := 0, ge := 0, count := 12, mod := 0 }),
  (0x9041400580A00901, .vpack { dst := 10, a := 0, b := 11, c := 0, ty := 10, rnd := 0, gate := 0, ge := 0, count := 9, mod := 1 }),
  (0x905188C000D00000, .vunpack { dst := 12, a := 35, b := 0, c := 0, ty := 13, rnd := 0, gate := 0, ge := 0, count := 0, mod := 0 }),
  (0x9064003980700600, .vshuf { dst := 32, a := 0, b := 115, c := 0, ty := 7, rnd := 0, gate := 0, ge := 0, count := 6, mod := 0 }),
  (0x9071603980000000, .vbcast { dst := 11, a := 0, b := 115, c := 0, ty := 0, rnd := 0, gate := 0, ge := 0, count := 0, mod := 0 }),
  (0x9080024000003C00, .vredadd { dst := 0, a := 9, b := 0, c := 0, ty := 0, rnd := 0, gate := 0, ge := 1, count := 28, mod := 0 }),
  (0x9090000000A02200, .vredmax { dst := 0, a := 0, b := 0, c := 0, ty := 10, rnd := 0, gate := 0, ge := 1, count := 2, mod := 0 }),
  (0x90A468C000002400, .vredmin { dst := 35, a := 35, b := 0, c := 0, ty := 0, rnd := 0, gate := 0, ge := 1, count := 4, mod := 0 }),
  (0x90B45AC000A00000, .vacc { dst := 34, a := 107, b := 0, c := 0, ty := 10, rnd := 0, gate := 0, ge := 0, count := 0, mod := 0 }),
  (0x90C4F54000100000, .varst { dst := 39, a := 85, b := 0, c := 0, ty := 1, rnd := 0, gate := 0, ge := 0, count := 0, mod := 0 }),
  (0x90D0088000500000, .vaout { dst := 0, a := 34, b := 0, c := 0, ty := 5, rnd := 0, gate := 0, ge := 0, count := 0, mod := 0 }),
  (0x90E01E8600000704, .vscan { dst := 0, a := 122, b := 12, c := 0, ty := 0, rnd := 0, gate := 0, ge := 0, count := 7, mod := 4 }),
  (0x90FA68FF00D00000, .vtos { dst := 83, a := 35, b := 126, c := 0, ty := 13, rnd := 0, gate := 0, ge := 0, count := 0, mod := 0 })] := by decide

theorem test_decode_tokens : Reads [
  (0xA01123898C000300, .vsteer { dst := 9, a := 14, b := 19, c := 12, ty := 0, rnd := 0, gate := 0, ge := 0, count := 3, mod := 0 }),
  (0xA02004C00C000000, .vmerge { dst := 0, a := 19, b := 0, c := 12, ty := 0, rnd := 0, gate := 0, ge := 0, count := 0, mod := 0 }),
  (0xA03205C900001F00, .pand { dst := 16, a := 23, b := 18, c := 0, ty := 0, rnd := 0, gate := 0, ge := 0, count := 31, mod := 0 }),
  (0xA042A44B00000500, .por { dst := 21, a := 17, b := 22, c := 0, ty := 0, rnd := 0, gate := 0, ge := 0, count := 5, mod := 0 }),
  (0xA052840000000100, .pnot { dst := 20, a := 16, b := 0, c := 0, ty := 0, rnd := 0, gate := 0, ge := 0, count := 1, mod := 0 }),
  (0xA062F7C000000700, .pgen { dst := 23, a := 95, b := 0, c := 0, ty := 0, rnd := 0, gate := 0, ge := 0, count := 7, mod := 0 }),
  (0xA072898000000004, .pfrom { dst := 20, a := 38, b := 0, c := 0, ty := 0, rnd := 0, gate := 0, ge := 0, count := 0, mod := 4 }),
  (0xA080054000000300, .pdrop { dst := 0, a := 21, b := 0, c := 0, ty := 0, rnd := 0, gate := 0, ge := 0, count := 3, mod := 0 })] := by decide

theorem test_decode_streams : Reads [
  (0xB010107000000000, .agbase { a := 1, b := 7, c := 0, d := 0, e := 0 }),
  (0xB0203011B1000004, .agloop { a := 3, b := 1, c := 27, d := 16, e := 4 }),
  (0xB0B0200030300000, .sloop { a := 2, b := 0, c := 3, d := 3, e := 0 }),
  (0xB030305030000000, .agidx { a := 3, b := 5, c := 3, d := 0, e := 0 }),
  (0xB090200000000000, .srst { a := 2, b := 0, c := 0, d := 0, e := 0 }),
  (0xB040D03550600001, .sld { a := 13, b := 3, c := 85, d := 6, e := 1 }),
  (0xB0503085B3200001, .sst { a := 3, b := 8, c := 91, d := 50, e := 1 }),
  (0xB060801690D00001, .sgath { a := 8, b := 1, c := 105, d := 13, e := 1 }),
  (0xB0702084F0300001, .sscat { a := 2, b := 8, c := 79, d := 3, e := 1 }),
  (0xB0A0202740F00001, .sfill { a := 2, b := 2, c := 116, d := 15, e := 1 }),
  (0xB080606000000000, .sbar { a := 6, b := 6, c := 0, d := 0, e := 0 }),
  (0xB0C0600000000018, .btgive { a := 6, b := 0, c := 0, d := 0, e := 24 }),
  (0xB0D0100000000000, .bttake { a := 1, b := 0, c := 0, d := 0, e := 0 })] := by decide

theorem test_decode_tiles : Reads [
  (0xC010B02030000000, .tdset { a := 11, b := 2, c := 3, d := 0, e := 0 }),
  (0xC0205026C0000001, .tld { a := 5, b := 2, c := 108, d := 0, e := 1 }),
  (0xC030703730000001, .tlda { a := 7, b := 3, c := 115, d := 0, e := 1 }),
  (0xC040E017C0200000, .tst { a := 14, b := 1, c := 124, d := 2, e := 0 }),
  (0xC0503025B0300001, .tadd { a := 3, b := 2, c := 91, d := 3, e := 1 }),
  (0xC060207510000000, .tcpy { a := 2, b := 7, c := 81, d := 0, e := 0 }),
  (0xC070B0A540200001, .cpy { a := 11, b := 10, c := 84, d := 2, e := 1 }),
  (0xC0807066C0600003, .cpymm { a := 7, b := 6, c := 108, d := 6, e := 3 }),
  (0xC090300410000000, .coll { a := 3, b := 0, c := 65, d := 0, e := 0 })] := by decide

theorem test_decode_matrix : Reads [
  (0xD010C06050200007, .mma { a := 12, b := 6, c := 5, d := 2, e := 7 }),
  (0xD02090304030000C, .mmaz { a := 9, b := 3, c := 4, d := 3, e := 12 }),
  (0xD03030000000000A, .azero { a := 3, b := 0, c := 0, d := 0, e := 10 }),
  (0xD040101060100011, .adrain { a := 1, b := 1, c := 6, d := 1, e := 17 }),
  (0xD050300000000000, .arel { a := 3, b := 0, c := 0, d := 0, e := 0 }),
  (0xD06030369040000C, .wld { a := 3, b := 3, c := 105, d := 4, e := 12 }),
  (0xD070300000000000, .wrel { a := 3, b := 0, c := 0, d := 0, e := 0 }),
  (0xD080B016B0000001, .cbld { a := 11, b := 1, c := 107, d := 0, e := 1 }),
  (0xD090100000000000, .amirror { a := 1, b := 0, c := 0, d := 0, e := 0 }),
  (0xD0A1E00000000000, .aspill { a := 30, b := 0, c := 0, d := 0, e := 0 })] := by decide

theorem test_decode_integrators : Reads [
  (0xE010301000000000, .icfg { a := 3, b := 1, c := 0, d := 0, e := 0 }),
  (0xE020103080000000, .iset { a := 1, b := 3, c := 8, d := 0, e := 0 }),
  (0xE030102030C00001, .iwire { a := 1, b := 2, c := 3, d := 12, e := 1 }),
  (0xE040503000000000, .iunwire { a := 5, b := 3, c := 0, d := 0, e := 0 }),
  (0xE050D1D150000000, .istep { a := 13, b := 29, c := 21, d := 0, e := 0 }),
  (0xE060C03020000000, .isample { a := 12, b := 3, c := 2, d := 0, e := 0 }),
  (0xE0701030E0200000, .istream { a := 1, b := 3, c := 14, d := 2, e := 0 }),
  (0xE0802001D0000000, .iinject { a := 2, b := 0, c := 29, d := 0, e := 0 }),
  (0xE080701020300000, .iinjectPort { a := 7, b := 1, c := 2, d := 3, e := 0 }),
  (0xE090E03010000000, .iflags { a := 14, b := 3, c := 1, d := 0, e := 0 }),
  (0xE0A0200000000000, .isave { a := 2, b := 0, c := 0, d := 0, e := 0 }),
  (0xE0B0702001E00000, .iload { a := 7, b := 2, c := 0, d := 30, e := 0 }),
  (0xE0B0200000000001, .iloadImage { a := 2, b := 0, c := 0, d := 0, e := 1 }),
  (0xE070000000000001, .istreamOff)] := by decide

theorem test_decode_routes : Reads [
  (0xF010102107E00000, .routeLocal { a := 1, b := 2, c := 16, d := 126, e := 0 }),
  (0xF010503710200003, .routeRemote { a := 5, b := 3, c := 113, d := 2, e := 3 }),
  (0xF010106220600000, .routeRank { a := 1, b := 6, c := 34, d := 6, e := 0 }),
  (0xF010402732800000, .routeFile { a := 4, b := 2, c := 115, d := 40, e := 0 }),
  (0xF010100040000000, .routeHold { a := 1, b := 0, c := 4, d := 0, e := 0 }),
  (0xF010100350300000, .routeExpect { a := 1, b := 0, c := 53, d := 3, e := 0 }),
  (0xF02010401010001C, .rtab { a := 1, b := 4, c := 1, d := 1, e := 28 }),
  (0xF0302041D0200000, .cfgblk { a := 2, b := 4, c := 29, d := 2, e := 0 }),
  (0xF04010C280000000, .actrate { a := 1, b := 12, c := 40, d := 0, e := 0 })] := by decide

/-! ## Ill-formed terms: one for each check of R131 orders 7 to 9, with the cause that the check gives (R123, R125, R323) -/

/-- The form check of every instruction gives the cause beside it. -/
def refuses (l : List (Instr × Cause)) : Bool :=
  l.all fun p => match formFault p.1 with | some c => c == p.2 | none => false
abbrev Refuses (l : List (Instr × Cause)) : Prop := refuses l = true

def s3 : S3 := default
def si : SI := default
def sm : SM := default
def sb : SB := default
def sc : SC := default
def vv : V := default
def dd : D := default

theorem test_smoke_s3 : Refuses [
  (.add { s3 with z := 1 }, .rsvfld), (.add { s3 with sc := 1 }, .rsvfld), (.clz { s3 with sb := 1 }, .rsvfld),
  (.mulh { s3 with mod := 1 }, .rsvfld), (.addsh { s3 with mod := 0x80 }, .rsvfld), (.sext { s3 with mod := 0x40 }, .rsvfld),
  (.bfx { s3 with mod := 0x1000 }, .rsvfld), (.movm { s3 with mod := 0x20 }, .rsvfld)] := by decide

theorem test_smoke_si : Refuses [
  (.addi { si with mod := 2 }, .rsvfld), (.andi { si with mod := 1 }, .rsvfld), (.li { si with sa := 1 }, .rsvfld),
  (.shli { si with imm := 0x40 }, .rsvfld), (.srai { si with mod := 1 }, .rsvfld)] := by decide

theorem test_smoke_sm : Refuses [
  (.ldd { sm with zz := 1 }, .rsvfld), (.ldd { sm with cnt := 1 }, .rsvfld), (.ldd { sm with order := 2 }, .rsvfld),
  (.ldd { sm with scope := 1 }, .rsvfld), (.ldd { sm with order := 1, s := 1 }, .rsvfld),
  (.ldd { sm with order := 1, scope := 5 }, .rsvfld), (.std { sm with order := 1 }, .rsvfld),
  (.std { sm with scope := 1 }, .rsvfld), (.ldm { sm with cnt := 8 }, .rsvfld), (.stm { sm with order := 1 }, .rsvfld),
  (.pref { sm with order := 3 }, .rsvfld), (.pref { sm with rd := 1 }, .rsvfld), (.clean { sm with order := 1 }, .rsvfld),
  (.aadd { sm with scope := 5 }, .rsvfld), (.aadd { sm with order := 4 }, .rsvfld), (.aadd { sm with cnt := 2 }, .rsvfld),
  (.afadd { sm with zz := 1 }, .rsvfld),
  (.fence { sm with off := 0x40 }, .rsvfld), (.fence { sm with off := 0x4000 }, .rsvfld), (.fence { sm with sa := 1 }, .rsvfld),
  (.phaseAcq { sm with order := 2 }, .rsvfld), (.phaseRel { sm with order := 2, scope := 5 }, .rsvfld),
  (.phaseAr { sm with order := 3, off := 1 }, .rsvfld), (.publish { sm with scope := 1 }, .rsvfld)] := by decide

theorem test_smoke_sb_sc : Refuses [
  (.beq { sb with z := 1 }, .rsvfld), (.beq { sb with hint := 3 }, .rsvfld), (.jal { sb with sa := 1 }, .rsvfld),
  (.loop { sb with sb := 1 }, .rsvfld), (.progress { sb with off := 0x10000 }, .rsvfld),
  (.srd { sc with imm := 0x100 }, .rsvfld), (.srd { sc with sa := 1 }, .rsvfld), (.swr { sc with scope := 1 }, .rsvfld),
  (.tagwaitany { sc with imm := 0x80 }, .rsvfld), (.tagwaitany { sc with sa := 1 }, .rsvfld),
  (.tagff { sc with imm := 0x101 }, .rsvfld), (.tagclr { sc with sd := 1 }, .rsvfld), (.cbwait { sc with imm := 17 }, .rsvfld),
  (.bar { sc with scope := 0 }, .rsvfld), (.bar { sc with scope := 5 }, .rsvfld), (.bararv { sc with scope := 1, imm := 16 }, .rsvfld),
  (.barwait { sc with scope := 1, sd := 1 }, .rsvfld), (.stashdecl { sc with imm := 3 }, .rsvfld),
  (.stashdecl { sc with imm := 0x902 }, .rsvfld), (.stashdecl { sc with imm := 0x100 }, .rsvfld),
  (.carryx { sc with imm := 0x10 }, .rsvfld), (.trap { sc with imm := 0x80000000 }, .rsvfld), (.trapBrkpt sc, .rsvfld),
  (.tmask { sc with imm := 2 }, .rsvfld), (.drainmk { sc with imm := 0x4001 }, .rsvfld),
  (.drainmk { sc with imm := 0x8000 }, .rsvfld), (.lnkctlRemap { sc with imm := 2 }, .rsvfld),
  (.lnkst { sc with imm := 4 }, .rsvfld), (.jrnlrd { sc with imm := 0x200 }, .rsvfld), (.tlbinv { sc with imm := 3 }, .rsvfld),
  (.gambitStop sc, .rsvfld), (.mbox { sc with imm := 0x100 }, .rsvfld)] := by decide

theorem test_smoke_v : Refuses [
  (.vadd { vv with rnd := 5 }, .rsvfld), (.vadd { vv with ty := 0xA, rnd := 1 }, .rsvfld), (.vadd { vv with gate := 1 }, .rsvfld),
  (.varst { vv with dst := 0x20, a := 0x40, ge := 1 }, .rsvfld), (.varst { vv with dst := 0x20, a := 0x40, count := 1 }, .rsvfld),
  (.vadd { vv with mod := 1 }, .rsvfld), (.vadd { vv with c := 1 }, .rsvfld), (.vadd { vv with ty := 3 }, .fmtbad),
  (.vadd { vv with ty := 0xF }, .fmtbad), (.vand { vv with ty := 0xF }, .fmtbad), (.vadd { vv with dst := 0x40 }, .badopnd),
  (.vadd { vv with dst := 0x60 }, .badopnd), (.vadd { vv with a := 0x10 }, .badopnd), (.vadd { vv with a := 0x28 }, .badopnd),
  (.vadd { vv with dst := 0x28 }, .badopnd), (.vadd { vv with ty := 0xD, a := 0x7F }, .badopnd),
  (.pnot { vv with dst := 0x10, a := 0x18 }, .badopnd),
  (.vcvt { vv with ty := 0, mod := 1 }, .rsvfld), (.vcvt { vv with ty := 6 }, .fmtbad), (.vcvt { vv with ty := 0, mod := 2, dst := 0x20 }, .badopnd),
  (.vqmx { vv with ty := 6, mod := 4 }, .fmtbad), (.vqmx { vv with ty := 6, c := 0x20 }, .badopnd), (.vscan { vv with mod := 1 }, .rsvfld),
  (.vsteer { vv with ty := 1, b := 0x10, c := 1 }, .rsvfld), (.vsteer { vv with b := 0x10, c := 0 }, .badopnd),
  (.pfrom { vv with dst := 0x10, mod := 6 }, .rsvfld)] := by decide

theorem test_smoke_d : Refuses [
  (.agbase { dd with a := 4 }, .badopnd), (.agbase { dd with b := 32 }, .badopnd), (.agbase { dd with c := 1 }, .rsvfld),
  (.agloop { dd with b := 4 }, .rsvfld), (.agloop { dd with d := 44 }, .rsvfld), (.sld { dd with c := 0x80 }, .rsvfld),
  (.sld { dd with c := 1 }, .rsvfld), (.sld { dd with d := 64 }, .rsvfld), (.sld { dd with e := 4 }, .rsvfld),
  (.sst { dd with e := 2 }, .rsvfld), (.sbar { dd with a := 16 }, .rsvfld), (.btgive { dd with e := 0x1000 }, .rsvfld),
  (.bttake { dd with a := 16 }, .badopnd), (.tst { dd with d := 1 }, .rsvfld), (.tadd { dd with d := 4 }, .rsvfld),
  (.cpymm { dd with d := 8 }, .rsvfld), (.mma { dd with e := 0x40 }, .rsvfld), (.mma { dd with d := 4 }, .rsvfld),
  (.mma { dd with b := 16 }, .fmtbad), (.mma { dd with b := 16, e := 1 }, .badopnd), (.adrain { dd with e := 0x10000 }, .rsvfld),
  (.wld { dd with e := 0x13 }, .fmtbad), (.wld { dd with a := 4, e := 1 }, .badopnd), (.wrel { dd with e := 1 }, .rsvfld),
  (.amirror { dd with a := 2 }, .rsvfld), (.icfg { dd with a := 64 }, .badopnd), (.iwire { dd with b := 5 }, .rsvfld),
  (.istep { dd with b := 1 }, .rsvfld), (.isample { dd with c := 4 }, .rsvfld), (.iinjectPort { dd with c := 16, b := 1 }, .badopnd),
  (.iloadImage dd, .rsvfld), (.routeRemote dd, .rsvfld), (.routeLocal { dd with e := 1 }, .rsvfld),
  (.routeHold { dd with c := 4, b := 1 }, .rsvfld), (.routeLocal { dd with a := 16 }, .badopnd), (.rtab { dd with c := 5 }, .rsvfld),
  (.cfgblk { dd with a := 4 }, .rsvfld), (.actrate { dd with a := 4 }, .rsvfld)] := by decide

/-! ## States and operands that meet the hypotheses of the statements -/

/-- A state in which plot 0's strand, or hub core 0, is about to execute. -/
def onPlot (q : Seq) (p : Plot) : State := { State.reset with cur := 0, seqs := [(0, q)], plots := [(0, p)] }
def running : Seq := { run := .running }
def plain : State := onPlot running { gen := 1 }
def strict : State := onPlot { running with gstrict := true } { gen := 1 }

theorem readable_of (s : State) (rs : List (BitVec 5)) (h : s.seq.gstrict = false) : Readable s rs :=
  fun g => absurd (h.symm.trans g) (by decide)

theorem not_readable (s : State) (r : BitVec 5) (rs : List (BitVec 5)) (h : s.seq.gstrict = true) (hr : r ∈ rs)
    (hs : s.stale r = true) : ¬ Readable s rs := fun f => absurd (hs.symm.trans (f h r hr)) (by decide)

theorem quiet_plain : Quiet plain := ⟨rfl, fun _ => rfl⟩

theorem test_witness_DecodeInvertsEncode :
    let i := Instr.addi { sd := 31, sa := 2, mod := 1, imm := -1 }
    WellFormed i = true ∧ hasWord i = true := by decide

theorem test_witness_EncodeInvertsDecode : ∃ i, decodeWord 0x0010886000010000 = .ok i := ⟨_, rfl⟩

theorem test_witness_InvalidWordsTrap :
    let sup := onPlot { running with mode := 1 } {}
    (0x7FFFFFFFFFFFFFFF : Word).toNat / 2 ^ 60 = 7 ∧
    (8 ≤ (0x8000000000000000 : Word).toNat / 2 ^ 60 ∧ isHub State.reset.cur = true) ∧
    (8 ≤ (0xFFFFFFFFFFFFFFFF : Word).toNat / 2 ^ 60 ∧ isHub sup.cur = false ∧ sup.seq.mode ≠ 0) ∧
    ((8 ≤ (0x8000000000000000 : Word).toNat / 2 ^ 60 → isHub plain.cur = false ∧ plain.seq.mode = 0) ∧
      decodeWord 0x0FF0000000000000 = .error .unassigned ∧
      (∃ i, decodeWord 0x60C6B9E000000003 = .ok i ∧ plain.mayRun i = false) ∧
      (∃ i, decodeWord 0x0010886000010000 = .ok i ∧ plain.mayRun i = true) ∧
      decodeWord 0x0010886000010001 = .error (.form .rsvfld) ∧
      ∀ i, (opcodeOf 0x0010886000010001 = some i ∨ ∃ u, fixedWord 0x0010886000010001 = some (u, i)) → plain.mayRun i = true) := by
  refine ⟨by decide, by decide, by decide, by decide, rfl, ⟨_, rfl, rfl⟩, ⟨_, rfl, rfl⟩, rfl, fun i h => ?_⟩
  rcases h with h | ⟨u, h⟩
  · cases h; rfl
  · cases h

/-- Plot 0's strand is to run next, its program counter at `pc`, with one word of code. -/
def fetching (w : Word) (pc : Word) (bad : List Nat) : State :=
  { onPlot { running with pc := pc } { gen := 1, code := [(0, w)], codeLen := 8, codeBad := bad } with agenda := [.run 0] }

theorem test_witness_StepRunsDecoded :
    let after (s : State) : State := { ({ s with agenda := [] }).tick 1 with cur := 0 }
    let good (s : State) : Bool := s.agenda == [.run 0] && !s.stopped && !(after s).stopped && (after s).seq.run == .running &&
      (after s).seq.mode != 2 && !(after s).seq.req.pending && !(after s).seq.hasPending
    let ok := fetching 0x0010886000010000 0 []
    good ok = true ∧ (∃ i, (after ok).fetch = .ok 0x0010886000010000 ∧ decodeWord 0x0010886000010000 = .ok i ∧ (after ok).mayRun i = true) ∧
    (∃ i, (after (fetching 0x60C6B9E000000003 0 [])).fetch = .ok 0x60C6B9E000000003 ∧ decodeWord 0x60C6B9E000000003 = .ok i ∧
      (after (fetching 0x60C6B9E000000003 0 [])).mayRun i = false) ∧
    (∃ e, (after (fetching 1 0 [])).fetch = .ok 1 ∧ decodeWord 1 = .error e) ∧
    (good (fetching 1 4 []) = true ∧ (after (fetching 1 4 [])).seq.pc.toNat % 8 ≠ 0) ∧
    (good (fetching 1 8 []) = true ∧ ((after (fetching 1 8 [])).plot 0).codeLen ≤ (after (fetching 1 8 [])).seq.pc.toNat) ∧
    (good (fetching 1 0 [0]) = true ∧ ((after (fetching 1 0 [0])).plot 0).codeBad.contains 0 = true) := by
  refine ⟨by decide, ⟨_, rfl, rfl, rfl⟩, ⟨_, rfl, rfl, rfl⟩, ⟨_, rfl, rfl⟩, by decide, by decide, by decide⟩

theorem test_witness_StepRunsEvents :
    let s (m : Move) : State := { State.reset with agenda := [m] }
    let gated : State := { s (.elapse 1) with power := { gated := true } }
    ((s (.event .ucieFlitFail {})).stopped = false ∧ (({ s (.event .ucieFlitFail {}) with agenda := [] }).tick 1).stopped = false ∧
      isEvent .ucieFlitFail = true) ∧
    ((s (.elapse 0)).stopped = false ∧ (({ s (.elapse 0) with agenda := [] }).tick 1).stopped = false) ∧
    (let u : State := { State.reset with acres := [(0, { usable := true })] }; (u.tick 1).popKind 0x3F = 1 ∧ (u.tick 1).stopped = false) ∧
    (gated.stopped = true ∧ isReset (.elapse 1) = false) := by decide

theorem test_witness_StepKeepsMemCanonical :
    MemCanonical (fetching 0x0010886000010000 0 []) ∧ ∃ t, step (fetching 0x0010886000010000 0 []) = .next t := ⟨by unfold MemCanonical; decide, _, rfl⟩

def okay {α ε : Type} (r : Except ε α) : Bool := match r with | .ok _ => true | .error _ => false

theorem test_witness_RegisterReadRules :
    ((1 : BitVec 5) ≠ 0) ∧ ((2 : BitVec 5) ≠ 31) ∧ isHub plain.cur = false ∧
    (plain.seq.regs.get {} 1).tag ≠ (plain.plot plain.cur).gen ∧ (let s := plain.setReg 1 7; (s.seq.regs.get {} 1).tag = (s.plot s.cur).gen) := by
  decide

theorem test_witness_ScalarRegisterResults :
    (s3.mod.getLsbD 0 = false) ∧ Readable plain [1, 2] ∧ Readable plain [1, 2, 3] ∧ Readable (strict.setReg 1 5) [0, 1] :=
  ⟨by decide, readable_of _ _ rfl, readable_of _ _ rfl, by unfold Readable; decide⟩

theorem test_witness_ScalarImmediateResults : si.mod.getLsbD 0 = false ∧ Readable plain [31] := ⟨by decide, readable_of _ _ rfl⟩

theorem test_witness_SaturatingResults :
    ({ s3 with mod := 1 } : S3).mod.getLsbD 0 = true ∧ ({ si with mod := 1 } : SI).mod.getLsbD 0 = true ∧ Readable plain [1, 2, 3] ∧
    (let s := (plain.setReg 1 (BitVec.intMin 64)).setReg 2 (-1)
     (s.reg 1).toInt + (s.reg 2).toInt < -2 ^ 63 ∧ 2 ^ 63 ≤ (s.reg 1).toInt * (s.reg 2).toInt ∧ -2 ^ 63 ≤ (s.reg 1).toInt + (s.reg 0).toInt) :=
  ⟨by decide, by decide, readable_of _ _ rfl, by decide⟩

theorem test_witness_MovmCopiesGroup :
    let group (x : S3) := (List.range ((x.mod.extractLsb' 0 5).toNat + 1)).map fun i => BitVec.ofNat 5 (x.sa.toNat + i)
    (32 < (31 : BitVec 5).toNat + 2) ∧ ((4 : Nat) + 3 ≤ 32 ∧ (4 : Nat) ≠ 5 ∧ 4 < 5 + 3 ∧ 5 < 4 + 3) ∧
    ¬ Readable strict (group { s3 with sd := 4, sa := 2, mod := 1 }) ∧ Readable plain (group { s3 with sd := 4, sa := 2, mod := 1 }) :=
  ⟨by decide, by decide, not_readable _ 2 _ rfl (by decide) (by decide), readable_of _ _ rfl⟩

theorem test_witness_StaleSourcesTrapGenstale :
    scalarForm (.add { s3 with sa := 1 }) = some ([1, 0], 0) ∧ ¬ Readable strict [1, 0] ∧ ¬ Readable strict [1] :=
  ⟨rfl, not_readable _ 1 _ rfl (by decide) (by decide), not_readable _ 1 _ rfl (by decide) (by decide)⟩

theorem test_witness_ScalarFrame :
    scalarForm (.add { s3 with sd := 4, sa := 1 }) = some ([1, 0], 4) ∧ Quiet plain ∧ Readable plain [1, 0] ∧
    ∃ t, exec (.add { s3 with sd := 4, sa := 1 }) plain = .next t := ⟨rfl, quiet_plain, readable_of _ _ rfl, _, rfl⟩

/-- A strand at PC 16 inside loop levels that end at 16. -/
def looping (cs : List Nat) : State := onPlot { running with pc := 16, uloops := cs.map fun c => { start := 8, stop := 16, cnt := c } } { gen := 1 }

theorem test_witness_CompletionAdvancesPc :
    Quiet plain ∧ plain.seq.loops = [] ∧
    (∃ l ls, (looping [2]).seq.loops = l :: ls ∧ l.stop = (looping [2]).seq.pc ∧ 1 < l.cnt) ∧
    (∃ l, (looping [1]).seq.loops = [l] ∧ l.cnt ≤ 1) ∧
    (∃ l m ms, (looping [1, 2]).seq.loops = l :: m :: ms ∧ l.cnt ≤ 1 ∧ m.stop = (looping [1, 2]).seq.pc ∧ 1 < m.cnt) ∧ Quiet (looping [2]) :=
  ⟨quiet_plain, rfl, ⟨_, _, rfl, rfl, by decide⟩, ⟨_, rfl, by decide⟩, ⟨_, _, _, rfl, by decide, rfl, by decide⟩, rfl, fun _ => rfl⟩

theorem test_witness_BranchesTransfer :
    Readable plain [1, 2] ∧ Quiet plain ∧ plain.reg 1 = plain.reg 2 ∧ (plain.setReg 1 1).reg 1 ≠ plain.reg 2 :=
  ⟨readable_of _ _ rfl, quiet_plain, by decide, by decide⟩

theorem test_witness_CallsLinkAndTransfer :
    Quiet plain ∧ Readable plain [31] ∧ Quiet strict ∧ ¬ Readable strict [31] :=
  ⟨quiet_plain, readable_of _ _ rfl, ⟨rfl, fun _ => rfl⟩, not_readable _ 31 _ rfl (by decide) (by decide)⟩

theorem test_witness_LoopChecksAndPushes :
    ({ sb with off := -1 } : SB).off.toInt ≤ 0 ∧ (0 < ({ sb with off := 1 } : SB).off.toInt ∧ 0xFFFFFFFF < ((plain.setReg 1 0x100000000).reg 1).toNat) ∧
    (2 ≤ (looping [1, 1]).seq.loops.length ∧ 0 < (((looping [1, 1]).setReg 1 1).reg 1).toNat) ∧
    (∃ l ∈ (looping [1]).seq.loops, l.stop < (looping [1]).seq.pc + (1 : BitVec 32).signExtend 64 * 8) ∧
    (plain.seq.loops.length < 2 ∧ (∀ l ∈ plain.seq.loops, 8 ≤ l.stop) ∧ Readable plain [1] ∧ Quiet plain) :=
  ⟨by decide, by decide, by decide, by decide, by decide, by decide, readable_of _ _ rfl, quiet_plain⟩

theorem test_witness_HaltEndsStrand :
    let asked := onPlot { running with req := { drain := true } } { gen := 1 }
    (isHub plain.cur = false ∧ (plain.plot plain.cur).actors = [] ∧ (plain.plot plain.cur).ops = [] ∧
      (plain.view plain.cur).unpublished = [] ∧ (∀ w ∈ plain.windows, w.owner ≠ plain.cur)) ∧ plain.seq.req.pending = false ∧
    (asked.seq.req.drain = true ∧ asked.seq.req.pending = true ∧ asked.seq.mode = 0) ∧
    (let st : Store := { id := 0, va := 0, pa := 0, mask := 15, data := 1, code := 1 }; let s := { plain with views := [(0, { stores := [st] })] }
      (s.plot 0).drained = true ∧ s.seq.released = false ∧ (s.view 0).rel = none ∧ s.coveredIds 0 ≠ [] ∧
      ({ ops := [{ id := 1, instr := .nop }] } : Plot).drained = false) ∧ (({ sb with off := 0xFFFE } : SB).off.extractLsb' 0 16).toNat ≠ 0xFFFF := by
  decide

theorem test_witness_SingleStepTraps :
    let s := onPlot { running with sstep := true, tvec := 0x81 } { gen := 1 }
    s.seq.sstep = true ∧ s.seq.mode = 0 ∧ s.seq.inh = false ∧ s.seq.watch = false ∧ s.seq.dbgen = false ∧ s.seq.tvec.getLsbD 0 = true ∧
    s.seq.uloops = [] := by decide

/-- A strand whose page 0 is translated to uncacheable tier-1 memory of acre 0; and the translation. -/
def page0 : Tlb := { asid := 0, vpn := 0, big := false, pte := 0xD17 }
def mapped (q : Seq) (t : Tlb) : State := { onPlot q { gen := 1, utlb := [t] } with acres := [(0, { usable := true })] }
def withMemory : State := mapped running page0

theorem local_ok : LocalOk plain 0x1FFFF8 8 := ⟨by decide, by decide, fun g => absurd g (by decide)⟩
theorem local_clean : LocalClean plain 0x1FFFF8 8 := by unfold LocalClean; decide
theorem plain_access : PlainAccess withMemory page0 8 0 ∧ PlainAccess withMemory page0 8 1 ∧ ptePub page0.pte = false :=
  ⟨⟨rfl, .inl (by decide), by decide, rfl, by decide, by decide, .inl (by decide), rfl⟩,
    ⟨rfl, .inl (by decide), by decide, rfl, by decide, by decide, .inl (by decide), rfl⟩, by decide⟩

/-- A hub core at an address of hub space. -/
def hubPage : Tlb := { asid := 0x10000, vpn := 0xF0000000, big := false, pte := State.reset.flatPte 0xF00000000000 }

theorem test_witness_LocalLoadsReadStash :
    let x : SM := { sm with s := 1, off := 0x1FFFF8 }
    loadForm (.ldd x) = some (x, 8, false) ∧ (plain.addr x).toNat % 8 = 0 ∧ Readable plain [x.sa] ∧
    LocalOk plain (plain.addr x).toNat 8 ∧ LocalClean plain (plain.addr x).toNat 8 := ⟨rfl, by decide, readable_of _ _ rfl, local_ok, local_clean⟩

theorem hub_translates : (State.reset.setReg 1 0xF00000000000).translate 0x1000 0 0xF00000000000 0 = .ok hubPage := by rfl
theorem hub_loads : State.reset.hubLoad 0x1000 0xF00000000000 = some 0 := by rfl

theorem test_witness_GlobalLoadsReadView :
    let x : SM := { sm with off := 8 }
    let y : SM := { sm with sa := 1 }
    let hub := State.reset.setReg 1 0xF00000000000
    (loadForm (.ldd x) = some (x, 8, false) ∧ withMemory.translate 0 0 (withMemory.addr x) 0 = .ok page0 ∧ withMemory.popKind (page0.pa 8) = 1 ∧
      withMemory.reach 0 0 { t := page0, va := 8, pa := 8, kind := loadKind page0 } = .ok withMemory ∧ withMemory.homeRangeOk 0 8 = true ∧
        withMemory.touchAt 0 8 8 false true false = withMemory ∧ pteMt page0.pte = 1 ∧
        ∀ k, k < 8 → CW.check (withMemory.loadWord false page0 8 (8 + k)) = none) ∧
    (hub.addr y = 0xF00000000000 ∧ hub.popKind (hubPage.pa 0xF00000000000) = 3) :=
  ⟨⟨by rfl, by rfl, by decide, by rfl, by decide, by decide, by decide, by decide⟩, by decide, by decide⟩

theorem test_witness_LocalStoresWriteStash :
    let x : SM := { sm with s := 1, off := 0x1FFFFF }
    storeForm (.stb x) = some (x, 1) ∧ (plain.addr x).toNat % 1 = 0 ∧ Readable plain [x.sa, x.rd] ∧ isHub plain.cur = false ∧
    (plain.plot plain.cur).localFault (plain.plot plain.cur).nextId (plain.addr x).toNat 1 = none ∧ LocalClean plain (plain.addr x).toNat 1 :=
  ⟨rfl, by decide, readable_of _ _ rfl, by decide, by decide, by unfold LocalClean; decide⟩

theorem test_witness_GlobalStoresEnterView :
    let x : SM := { sm with off := 8 }
    let hub := State.reset.setReg 1 0xF00000000000
    (storeForm (.stb x) = some (x, 1) ∧ (withMemory.addr x).toNat % 1 = 0 ∧ Readable withMemory [x.sa, x.rd] ∧
      withMemory.translate 0 0 8 1 = .ok page0 ∧ ptePub page0.pte = false ∧ withMemory.popKind (page0.pa 8) = 1) ∧
    (withMemory.reach 0 0 { t := page0, va := 8, pa := 8, kind := loadKind page0 } = .ok withMemory ∧ withMemory.homeRangeOk 0 8 = true ∧
      withMemory.touchAt 0 8 8 false true false = withMemory ∧ ∀ k, k < 1 → CW.check (withMemory.loadWord false page0 8 (page0.pa 8 + k)) = none) ∧
    ((hub.addr { sm with sa := 1 }).toNat % 1 = 0 ∧ Readable hub [1, 0] ∧ hub.translate 0x1000 0 0xF00000000000 1 = .ok hubPage ∧
      ptePub hubPage.pte = false ∧ hub.popKind (hubPage.pa 0xF00000000000) = 3 ∧ hub.hubLoad 0x1000 0xF00000000000 = some 0 ∧
      (hub.hubStore 0x1000 0xF00000000000 0).isSome = true) :=
  ⟨⟨rfl, by decide, readable_of _ _ rfl, by rfl, by decide, by decide⟩, ⟨by rfl, by decide, by decide, by decide⟩,
    ⟨by decide, readable_of _ _ rfl, by rfl, by decide, by decide, by rfl, by decide⟩⟩

theorem test_witness_AccessChecksTrap :
    let x : SM := { sm with off := 4 }
    let pub : Tlb := { page0 with pte := 0xD37 }
    (loadForm (.ldd x) = some (x, 8, false) ∧ storeForm (.std x) = some (x, 8) ∧ (plain.addr x).toNat % 8 ≠ 0) ∧
    ((plain.addr { x with off := 8 }).toNat % 8 = 0 ∧ ¬ Readable strict [1]) ∧ Readable plain [0, 0] ∧
    (∃ r, plain.translate 0 0 (0x1_0000_0000_0000 ||| 0x8000_0000_0000_0000) 0 = .error (.trap r)) ∧
    (withMemory.translate 0 0 8 1 = .ok page0 ∧ ({ withMemory with acres := [] }.popKind (page0.pa 8) = 0)) ∧
    ((mapped running pub).translate 0 0 8 1 = .ok pub ∧ (mapped running pub).popKind (pub.pa 8) ≠ 0 ∧ ptePub pub.pte = true) ∧
    (plain.plot plain.cur).localFault (plain.plot plain.cur).nextId 0x200000 8 = some .space ∧
    (32 < ({ sm with rd := 31, cnt := 1 } : SM).rd.toNat + 2) ∧ (plain.addr x).toNat % 8 ≠ 0 :=
  ⟨⟨rfl, rfl, by decide⟩, ⟨by decide, not_readable _ 1 _ rfl (by decide) (by decide)⟩, readable_of _ _ rfl, ⟨_, rfl⟩, ⟨rfl, by decide⟩,
    ⟨rfl, by decide, by decide⟩, by decide, by decide, by decide⟩

theorem test_witness_GroupLoadsAndStores :
    let x : SM := { sm with s := 1, rd := 31, off := 0x1FFFF8 }
    (x.rd.toNat + 1 ≤ 32 ∧ (plain.addr x).toNat % 8 = 0 ∧ Quiet plain ∧ plain.seq.wctl = 0) ∧
    (Readable plain [x.sa] ∧ LocalOk plain (plain.addr x).toNat 8 ∧ LocalClean plain (plain.addr x).toNat 8) ∧
    (∀ i, i < 1 → PlainAccess withMemory page0 (8 + BitVec.ofNat 64 (8 * i)) 0 ∧ PlainAccess withMemory page0 (8 + BitVec.ofNat 64 (8 * i)) 1) ∧
    Quiet withMemory ∧ withMemory.seq.wctl = 0 ∧
    (∀ k, k < 8 → CW.check (withMemory.loadWord false page0 8 (page0.pa 8 + k)) = none) ∧ Readable withMemory [x.sa, 31] ∧
    (okay (withMemory.reachGroup 8 1 0 false) = true ∧ okay (withMemory.readGroup 0 false 8 1) = true ∧ okay (withMemory.reachGroup 8 1 1 true) = true ∧
      okay (withMemory.writeGroup false 8 [5] 0) = true) :=
  ⟨⟨by decide, by decide, quiet_plain, rfl⟩, ⟨readable_of _ _ rfl, local_ok, local_clean⟩,
    fun i h => by obtain rfl : i = 0 := Nat.lt_one_iff.mp h; exact ⟨plain_access.1, plain_access.2.1⟩,
    ⟨rfl, fun _ => rfl⟩, rfl, by decide, readable_of _ _ rfl, by decide⟩

/-- Acre 0 with a page table at 0 whose first entry leads to a leaf of 512 MiB; two waiting misses, and a WINDOW range with
what a place of it holds and a touch that waits. -/
def walking (ss : NMap WinSector) : State :=
  { withMemory with
    acres := (List.range 12).map fun k => (k, { usable := true }),
    phys := (({} : Phys).putDword 0 0x10001).putDword 0x10000 0x13,
    misses := [{ acre := 0, asid := 0, vpn := 1, reqs := [{ agent := 0, unit := 0, kind := 0, user := true }], root := 0, pbase := 0, plimit := 0xFFFFFFFF },
      { acre := 0, asid := 0, vpn := 1, reqs := [{ agent := 0, unit := 0, kind := 1, user := true }], root := 0, pbase := 0, plimit := 0xFFFFFFFF }],
    windows := [{ owner := 0, base := 0, size := 64, vbase := 0, j := 1, asid := 0, sectors := ss }],
    winMisses := [{ owner := 0, vbase := 0, offset := 0, pa := 0x40 }] }

/-- The leaf that the walk of page 1 finds. -/
def walked : Tlb := { asid := 0, vpn := 1, big := true, pte := 0x13 }
/-- A sector of the range at an address. -/
def winSector (va : Nat) : WinSector := { pa := 0x40, va := va, words := [], dirty := true, ctxIx := 0 }

theorem walk_leaf : (walking []).walkEnd 0 0 0 0xFFFFFFFF 1 0 true = .leaf walked 0x10000 := by decide +kernel
theorem walk_fail : (walking []).walkEnd 0 0 0 0xFFFFFFFF 1 1 true = .fail .protw 1 0x13 := by decide +kernel

theorem test_witness_HintsWalksAndFills :
    let x : SM := { sm with off := 8 }
    (Readable withMemory [x.sa] ∧ withMemory.translate 0 0 (withMemory.addr x) 0 = .ok page0 ∧ withMemory.popKind (page0.pa 8) = 1 ∧
      withMemory.linkOk 0 8 = true ∧ withMemory.winOf 0 8 = none ∧ ptePodc page0.pte = false ∧
      ∀ c, withMemory.cache.find (page0.pa 8 / 64) = some c → c.dirty = false) ∧ (walking []).misses[1]?.isSome = true ∧
    (((walking []).misses.take 1).filter (·.acre = 0)).length < 32 ∧
    (∃ m w, (walking []).winMisses[0]? = some m ∧ (walking []).windows.find? (fun w => w.owner = m.owner && w.vbase = m.vbase) = some w ∧
      (walking []).linkOk m.owner m.pa = true ∧ w.sector (w.vbase + m.offset) = none) ∧
    (∃ w, (walking [(0, winSector 0)]).windows.find? (fun w => w.owner = (0 : Nat) && w.vbase = (0 : Nat)) = some w ∧ w.sector 0 ≠ none) ∧
    (∃ w, (walking [(0, winSector 64)]).windows.find? (fun w => w.owner = (0 : Nat) && w.vbase = (0 : Nat)) = some w ∧ w.sector 0 = none ∧ w.sectors.find (w.place 0) ≠ none) ∧
    (walking []).linkOk 0 0x100000000000 = false ∧
    (let s := onPlot running { gen := 1, stash := [(0, { ws := [(0, ⟨1, 1⟩)] })] }; isHub 0 = false ∧ (s.plot 0).staleAt 0 = true) :=
  ⟨⟨readable_of _ _ rfl, by rfl, by decide, by decide, by rfl, by decide, by decide⟩, by decide, by decide, ⟨_, _, by rfl, by rfl, by decide, by rfl⟩,
    ⟨_, by rfl, by decide⟩, ⟨_, by rfl, by rfl, by decide⟩, by decide, by decide⟩

/-- CLEAN in a WINDOW range whose sector stands in its owner's stash, or not; of a pod sector that this module holds; in hub space. -/
theorem test_witness_HintsWalksAndFills_clean :
    let x : SM := { sm with off := 8 }
    let w (ss : NMap WinSector) : State := walking ss
    let pod : Tlb := { page0 with pte := 0xD57 }
    let s (st : Nat) : State := { mapped running pod with fabric := { lines := [(0, { st := st, words := [] })] } }
    ((w []).translate 0 0 8 0 = .ok page0 ∧ (w []).linkOk 0 8 = true ∧ (∃ y, (w []).winOf 0 8 = some y ∧ y.sector 8 = none) ∧
      (∃ y, (w [(0, winSector 0)]).winOf 0 8 = some y ∧ y.sector 8 = some (winSector 0))) ∧
    ((s 3).translate 0 0 8 0 = .ok pod ∧ (s 3).popKind (pod.pa 8) = 1 ∧ (s 3).linkOk 0 8 = true ∧ (s 3).winOf 0 8 = none ∧ ptePodc pod.pte = true ∧
      (s 3).replyFor 0 0 0 = none ∧ (s 3).homedHere 8 = true ∧ (s 3).fabric.lines.find 0 = some { st := 3, words := [] } ∧
      (s 1).fabric.lines.find 0 = some { st := 1, words := [] }) ∧ State.reset.popKind (hubPage.pa 0xF00000000000) = 3 :=
  ⟨⟨by rfl, by decide, ⟨_, by rfl, by rfl⟩, ⟨_, by rfl, by rfl⟩⟩, ⟨by rfl, by decide, by decide, by rfl, by decide, by rfl, by decide, by rfl, by rfl⟩, by decide⟩

/-! ## A world with a control block tree, a page table, an image of one strand (HALT) and a launch record, written out from
R277, R295, R298 and R310 -/

def dwords (l : List (Nat × Nat)) : Phys := l.foldl (fun p x => p.putDword x.1 (BitVec.ofNat 64 x.2)) {}

/-- Root at the place of the configuration, partition 0x200, group 0x300, queue 0x400. -/
def treeWords : List (Nat × Nat) :=
  [(0x10007FFF0000, 0x52430001), (0x10007FFF0008, 0x1FFF), (0x10007FFF0018, 0x0001080100000001),
   (0x10007FFF0020, 0x100000), (0x10007FFF0030, 1), (0x10007FFF0038, 1),
   (0x200, 0x0152430001), (0x210, 0x10007FFF0000), (0x218, 0x0001000000000000), (0x248, 0x10000), (0x258, 0xFFFFFFFF),
   (0x300, 0x0252430001), (0x310, 0x200), (0x400, 0x0352430001), (0x410, 0x300)]

/-- The partition's table at 0x10000, one leaf of 512 MiB over virtual 0; the image at virtual 0x30000. -/
def imageWords : List (Nat × Nat) :=
  [(0x10000, 0x20001), (0x20000, 0x1F),
   (0x30000, 0x0101000142584731), (0x30008, 1), (0x30020, 0x0000008000000040), (0x30028, 0x00000100000000C0),
   (0x30030, 0x0000010000000100), (0x30038, 0x0000010000000100), (0x30040, 0x0100), (0x30058, 0x80),
   (0x30080, 0x00000008000000C0), (0x30088, 0x100), (0x30090, 0x0000010000000000), (0x300C0, 0x40B0000000000000)]

def recordWords : List (Nat × Nat) := [(0x40000, 0x000001004C520001), (0x40008, 0x30000), (0x40018, 0x400)]

/-- The same words byte by byte, as memory lists them: what the kernel reads fast. -/
def treeBytes : List Host.Cell :=
  [(0x200, 1), (0x202, 67), (0x203, 82), (0x204, 1), (0x212, 255), (0x213, 127), (0x215, 16), (0x21E, 1),
   (0x24A, 1), (0x258, 255), (0x259, 255), (0x25A, 255), (0x25B, 255), (0x300, 1), (0x302, 67), (0x303, 82), (0x304, 2),
   (0x311, 2), (0x400, 1), (0x402, 67), (0x403, 82), (0x404, 3), (0x411, 3)]
def imageBytes : List Host.Cell :=
  [(0x10000, 1), (0x10002, 2), (0x20000, 31), (0x30000, 49), (0x30001, 71), (0x30002, 88), (0x30003, 66), (0x30004, 1),
   (0x30006, 1), (0x30007, 1), (0x30008, 1), (0x30020, 64), (0x30024, 128), (0x30028, 192), (0x3002D, 1), (0x30031, 1),
   (0x30035, 1), (0x30039, 1), (0x3003D, 1), (0x30041, 1), (0x30058, 128), (0x30080, 192), (0x30084, 8), (0x30089, 1),
   (0x30095, 1), (0x300C6, 176), (0x300C7, 64)]
def rootBytes : List Host.Cell :=
  [(0x00, 1), (0x02, 67), (0x03, 82), (0x08, 255), (0x09, 31), (0x18, 1), (0x1C, 1), (0x1D, 8), (0x1E, 1), (0x22, 16), (0x30, 1), (0x38, 1)].map
    fun c => (0x10007FFF0000 + c.1, c.2)
def recordBytes : List Host.Cell :=
  [(0x40000, 1), (0x40002, 82), (0x40003, 76), (0x40005, 1), (0x4000A, 3), (0x40019, 4)]
def held (l : List Host.Cell) : Phys := { face0 := { bytes := l } }

theorem test_world_bytes : dwords (treeWords ++ imageWords ++ recordWords) = held (treeBytes ++ imageBytes ++ recordBytes ++ rootBytes) := by decide +kernel

/-- Hub core 0 is ready to launch: acres usable, links up. -/
def world : State :=
  { State.reset with
    phys := held (treeBytes ++ imageBytes ++ recordBytes ++ rootBytes),
    acres := (List.range 12).map fun k => (k, { usable := true }),
    power := { ready := true },
    fabric := { links := (List.range 12).map fun k => (256 * k, { st := 0 }) } }

/-- The hypotheses of LAUNCH's completion hold for the record at 0x40000. -/
def launchOk : Bool :=
  match world.reachGlobal 0x40000 0 false with
  | .ok t => world.popKind (t.pa 0x40000) != 3 && world.seq.resv.isNone &&
    (match world.readWords t 0x40000 64 true with
    | .ok (w1, u1) =>
      (match u1.readWords t (0x40000 + 64) 64 true with
      | .ok (w2, u2) =>
        let ws := (w1 ++ w2).map (·.v)
        let u3 := u2.meet (recNum ws 0x18 8)
        (match u2.consume t 0x40000 (t.pa 0x40000) (w1 ++ w2), u3.checkLaunch 0 (t.pa 0x40000) ws u3.seq.holdchild with
         | .ok (), .ok l => u3.contextRoom && !u3.seq.gstrict &&
            (let u := u3.modSeq fun q => { q with resv := some l }
             (u.view u.cur).rel.isNone && (u.coveredIds u.cur).isEmpty && isHub u.cur && (u.enqueue l).isSome)
         | _, _ => false)
      | _ => false)
    | _ => false)
  | _ => false

theorem launch_ok : launchOk = true := by decide +kernel

theorem unlogged_of (s : State) (a : Nat) (h : s.sched.launches = []) : Unlogged s a := by
  intro l e; simp [State.launch?, h, NMap.find] at e

theorem test_witness_AtomicOperationTable : (32 = 32 ∨ 32 = 64) ∧ (64 = 32 ∨ 64 = 64) := by decide

theorem test_witness_AtomicsOnStash :
    let x : SM := { sm with s := 1, zz := 1, off := 0x1FFFF8 }
    atomForm (.acas x) = some (x, .cas) ∧ (AOp.cas = .cas → x.rd ≠ 31) ∧ x.atomBytes = 8 ∧ (plain.addr x).toNat % 8 = 0 ∧
    Readable plain (atomSources x .cas) ∧ LocalOk plain (plain.addr x).toNat 8 ∧ LocalClean plain (plain.addr x).toNat 8 ∧ x.cnt ≠ 1 ∧
    ({ x with order := 2 } : SM).order.getLsbD 1 = true ∧ (plain.view plain.cur).rel = none ∧ plain.coveredIds plain.cur = [] :=
  ⟨rfl, by decide, rfl, by decide, readable_of _ _ rfl, local_ok, local_clean, by decide, by decide, rfl, rfl⟩

def cached : State := { withMemory with cache := [(0, { dirty := false, ctx := 0 })] }

theorem test_witness_AtomicsOnMemory :
    let x : SM := { sm with zz := 1, off := 8 }
    (atomForm (.aadd x) = some (x, .add) ∧ x.scope ≠ 4 ∧ (cached.addr x).toNat % x.atomBytes = 0 ∧ Readable cached (atomSources x .add)) ∧
    PlainAccess cached page0 (cached.addr x) 1 ∧ (cached.cache.find (page0.pa 8 / 64)).isSome = true ∧
    (∀ k, k < 8 → cached.winOf cached.seq.ctx.asid (vaNum 8 + k) = none ∧ cached.homedHere (8 + k) = true ∧
      cached.roBits (8 + k) = 0 ∧ cached.sched.nodes.find (8 + k) = none ∧ CW.check (cached.phys.word false (8 + k)) = none ∧ CW.check (cached.loadWord true page0 8 (8 + k)) = none) ∧
    ptePub page0.pte = false ∧ pteRec page0.pte = false ∧ x.cnt = 0 ∧ cached.fabric.lines = [] ∧ cached.seq.ctx.det = false ∧
    (cached.view cached.cur).unpublished = [] ∧ (cached.view cached.cur).rel = none ∧ cached.fwins = [] :=
  ⟨⟨rfl, by decide, by decide, readable_of _ _ rfl⟩,
    ⟨rfl, .inl (by decide), by decide, rfl, by decide, by decide, .inl (by decide), rfl⟩, by decide, by decide, by decide⟩

/-- A pod-coherent page: homed here with the entry in state I, held exclusively, and homed on another module that has answered. -/
theorem test_witness_AtomicsOnMemory_pod :
    let pod : Tlb := { page0 with pte := 0xC57 }
    let s := { mapped running pod with cache := [(0, { dirty := false, ctx := 0 })] }
    let x : SM := { sm with scope := 4, off := 60 }
    let near : SM := { x with cnt := 1 }
    let line : PodLine := { st := 2, words := List.replicate 16 CW.zero }
    let held : State := { s with fabric := { lines := [(0, line)] } }
    let away : State := { s with seqs := s.seqs.set 0 { running with answer := some 7 }, fabric := { podRanges := [(0, { w0 := 0, w1 := 0x8000000100000001 })], podIndex := 0 } }
    (atomForm (.aadd x) = some (x, .add) ∧ atomForm (.aadd near) = some (near, .add) ∧ (s.addr x).toNat % 4 = 0 ∧ ptePodc pod.pte = true ∧ s.popKind (pod.pa 60) = 1 ∧ s.linkOk s.cur (pod.pa 60) = true ∧ s.homeRangeOk s.cur (pod.pa 60) = true) ∧
    ((s.cur, 0) ∉ s.fabric.lostTo ∧ s.replyFor s.cur 0 0 = none ∧ s.fabric.granted = [] ∧ (s.fabric.dir.get ({} : DirEntry) 0).st = 0 ∧ s.homedHere 60 = true) ∧
    (held.fabric.lines.find (pod.pa 60 / 64) = some line ∧ 2 ≤ line.st ∧ line.words.length = 16 ∧
      CW.check (line.words.getD (60 % 64 / 4) CW.zero) = none) ∧
    (away.homedHere (pod.pa 60) = false ∧ away.fabric.lines.find 0 = none ∧ away.seq.answer = some 7) ∧
    s.translate s.cur 0 60 1 = .ok pod ∧ held.translate held.cur 0 60 1 = .ok pod ∧ away.translate away.cur 0 60 1 = .ok pod :=
  ⟨⟨by rfl, by rfl, by decide⟩, by decide, by decide, by decide, by rfl, by rfl, by rfl⟩

theorem test_witness_AtomicChecksTrap :
    let x : SM := { sm with rd := 31 }
    let pub : Tlb := { page0 with pte := 0xD37 }
    atomForm (.acas x) = some (x, .cas) ∧ atomForm (.aadd x) = some (x, .add) ∧ (plain.addr { x with off := 2 }).toNat % 4 ≠ 0 ∧
    ((strict.addr { x with sa := 1 }).toNat % 4 = 0 ∧ ¬ Readable strict [1, 31]) ∧ ((1 : BitVec 3) ≠ 0) ∧
    (let y : SM := { sm with rd := 31, cnt := 1, scope := 3 }; atomForm (.aadd y) = some (y, .add) ∧ y.cnt = 1 ∧ y.scope ≠ 4) ∧
    (isHub State.reset.cur = true ∧ Readable State.reset [0, 31]) ∧
    ((plain.plot 0).localFault (plain.plot 0).nextId (plain.addr { x with off := 0x1FFFFE }).toNat 4 = some .space) ∧
    (∃ r, plain.translate 0 0 0x8000000000000000 1 = .error (.trap r)) ∧
    (withMemory.translate 0 0 8 1 = .ok page0 ∧ { withMemory with acres := [] }.popKind (page0.pa 8) = 0 ∧ withMemory.popKind (page0.pa 8) = 1 ∧
      ptePodc page0.pte = false) ∧ State.reset.popKind (hubPage.pa 0xF00000000000) = 3 ∧
    ((mapped running pub).translate 0 0 8 1 = .ok pub ∧ (mapped running pub).popKind (pub.pa 8) = 1 ∧ ptePub pub.pte = true) := by
  refine ⟨rfl, rfl, by decide, ⟨by decide, not_readable _ 1 _ rfl (by decide) (by decide)⟩, by decide, by decide, ⟨by decide, readable_of _ _ rfl⟩,
    by decide, ⟨_, rfl⟩, ⟨rfl, by decide⟩, by decide, ⟨rfl, by decide⟩⟩

/-- A store that waits to be published, and the release that publishes it. -/
def store8 : Store := { id := 0, va := 8, pa := 8, mask := 15, data := 7, code := 7 }
def releasing (r : Option Release) : State := { cached with views := [(0, { stores := [store8], nextId := 1, rel := r })] }

theorem test_witness_BoundariesPublishAndRefresh :
    (plain.view plain.cur).unpublished = [] ∧
    ((plain.view plain.cur).rel = none ∧ plain.coveredIds plain.cur = []) ∧
    ((releasing none).seq.released = false ∧ ((releasing none).view 0).rel = none ∧ (releasing none).coveredIds 0 ≠ []) ∧
    (let r : Release := { scope := 1, episode := none, ids := [0] }; let s := releasing (some r)
     (s.view 0).rel = some r ∧ (∃ u, s.storesReach 0 9 none ((s.view 0).chosen [0]) = .ok u) ∧ s.evt.pairs = [] ∧ r.quiet = false ∧
      (s.view 0).chosen [0] = [store8] ∧ s.homedHere 8 = true ∧ s.homeRangeOk 0 8 = true ∧ s.roBits 8 = 0 ∧ (s.cache.find (8 / 64)).isSome = true) :=
  ⟨rfl, ⟨rfl, rfl⟩, ⟨rfl, rfl, by decide⟩, rfl, ⟨_, rfl⟩, rfl, rfl, rfl, by decide, by decide, by decide, by decide⟩

theorem test_witness_FencesAndPublish :
    let pub : Tlb := { page0 with pte := 0xD37 }
    let s := (mapped running pub).setReg 1 65536
    let f : Flip := { frames := [3], tick := 100, agent := 0, cid := none }
    (bits ({ sm with off := 0x100 } : SM).off 0 6 = 0 ∧ bits ({ sm with off := 1 } : SM).off 8 6 = 0) ∧
    (plain.plot 0).fencePending (plain.plot 0).nextId 0x3F = false ∧
    (let o : EngOp := { id := 0, instr := .cpy dd }; let p : Plot := { ops := [o], nextId := 1 }
     p.fencePending p.nextId 0x20 = true ∧ (0x10 : Nat) % 8 = 0 ∧ (0x01 : Nat) % 8 ≠ 0 ∧ (0x02 : Nat).testBit 1 = true ∧ (8 : Nat) ≤ 0x10) ∧
    (s.reg 1 = 65536 ∧ (s.addr sm).toNat % 65536 = 0 ∧ s.translate 0 0 0 1 = .ok pub ∧ s.popKind (pub.pa 0) = 1 ∧ ptePub pub.pte = true ∧
      ptePodc pub.pte = false ∧ Readable s [0, 1] ∧ (s.plot 0).writing (vaNum 0) 65536 = false ∧ ∀ g ∈ s.flips, frameOf (pub.pa 0) ∉ g.frames) ∧
    ({ plain with flips := [f], tempo := 99 }.flips[0]? = some f ∧ (99 : Word).toNat < f.tick.toNat) ∧
    f.tick.toNat ≤ ({ plain with flips := [f], tempo := 100 } : State).tempo.toNat :=
  ⟨by decide, by decide, by decide, ⟨by decide, by decide, rfl, by decide, by decide, by decide, readable_of _ _ rfl, by decide, by decide⟩,
    ⟨rfl, by decide⟩, by decide⟩

theorem test_witness_SpecialRegisterAccess :
    let sup := onPlot { running with mode := 1 } { gen := 1 }
    (64 ≤ bits (0x40 : BitVec 32) 0 8 ∧ plain.seq.mode = 0) ∧ bits (0x3F : BitVec 32) 0 8 < 64 ∧ plain.special 0 0x0C = none ∧
    (∃ v, plain.special 0 5 = some v) ∧ (∃ v, plain.special 0 7 = some v) ∧ (Unlogged plain plain.cur ∧ okay (plain.strandDecision 4 0) = true) ∧ Readable plain [1] ∧
    (∃ t, plain.putSpecial 0 7 (plain.reg 1) = some t) ∧ (sup.setReg 1 8 |>.putSpecial 0 0x40 8) = none ∧ sup.seq.mode = 1 ∧
    (∃ v, sup.special 0 0x40 = some v) ∧ isHub 0 = false ∧
    (∀ r ∈ [0x07, 0x08, 0x0F, 0x10, 0x13, 0x41, 0x42, 0x4A, 0x4B, 0x4C, 0x00, 0x52], (plain.putSpecial 0 r 0x700).isSome = true) := by
  refine ⟨by decide, by decide, rfl, ⟨_, rfl⟩, ⟨_, rfl⟩, ⟨unlogged_of _ _ rfl, by rfl⟩, readable_of _ _ rfl, ⟨_, rfl⟩, rfl, rfl, ⟨_, rfl⟩, rfl, by decide⟩

theorem test_witness_SpecialRegisterEvents :
    let s := onPlot { running with timecmp := 5, cycle := 5 } {}
    (s.evt.a = 0 ∧ (s.seqOf 0).timecmp ≠ 0 ∧ (s.seqOf 0).timecmp ≤ s.cycleOf 0 ∧ (s.seqOf 0).run ≠ .idle ∧ (s.seqOf 0).run ≠ .ended ∧
      ∀ r ∈ (s.seqOf 0).pend, r.cause ≠ .timer) ∧
    (31 < 32 ∧ (plain.fwins.get ({} : FmtWin) (plain.seqOf (hubAgent 31)).fwsel.toNat).enable = false) ∧
    (({ plain with fwins := [(0, { enable := true })] } : State).fwins.get ({} : FmtWin) 0).enable = true ∧
    (({ b := 0x9F } : EvArgs).b < 0xA0 ∧ 0x60 ≤ ({ b := 0x60 } : EvArgs).b) := by decide

/-- A strand's plot with a pending tag 3 and ready tags 5 and 9, or with none. -/
def tagged (ready : Word) (pend : NMap Nat) : State := onPlot running { gen := 1, tagReady := ready, tagPend := pend }

theorem test_witness_TagsAndBatches :
    let x (i : BitVec 32) : SC := { sc with imm := i }
    let q (b : Option (List Nat)) (n : Nat) : Plot := { openBatch := b, batches := List.replicate n [] }
    Readable plain [0] ∧ Unlogged plain plain.cur ∧
    ((plain.tagSet (x 5)) &&& (plain.plot 0).tagPending = 0 ∧ (plain.tagSet (x 5)) &&& (plain.plot 0).tagReady = 0) ∧
    (let s := tagged 0x220 []; (s.tagSet (x 9) &&& (s.plot 0).tagReady).getLsbD 9 = true ∧
      ∀ j, j < 9 → (s.tagSet (x 9) &&& (s.plot 0).tagReady).getLsbD j = false) ∧
    (let s := tagged 0 [(3, 1)]; s.tagSet (x 3) &&& (s.plot 0).tagPending ≠ 0 ∧ s.tagSet (x 3) &&& (s.plot 0).tagReady = 0) ∧
    isHub plain.cur = false ∧ ((q (some [1]) 15).openBatch = some [1] ∧ (q (some [1]) 15).batches.length < 16) ∧
    16 ≤ (q (some [1]) 16).batches.length ∧ ((q none 16).openBatch = none ∧ (q none 16).batches.length ≤ 16) :=
  ⟨readable_of _ _ rfl, unlogged_of _ _ rfl, by decide, by decide, by decide, by decide, by decide, by decide, by decide⟩

/-- A strand before, and after, it joined the TRACT episode 1 of identifier 0. -/
def episode1 (j : List Nat) : Episode := { ord := 1, scope := 1, launch := 0, tract := 0, group := 0, acre := 0, id := 0, joined := j }
def barrierState (q : Seq) (e : List Episode) : State := { onPlot q { gen := 1 } with sched := { episodes := e } }

theorem test_witness_BarriersJoinAndComplete :
    let x : SC := { sc with scope := 1 }
    let s := barrierState running [episode1 []]
    let w (d : Bool) := barrierState { running with arrived := true, joined := [(0, { episode := 1, scope := 1, done := d })] } [episode1 [0]]
    (State.reset.barrierOk 1 = false ∧ plain.barrierOk 4 = false ∧ plain.seq.arrived = false) ∧ s.barrierOk 1 = true ∧
    (∃ e, s.episodeOf 0 = some e ∧ e.scope = x.scope.toNat ∧ e.joined.contains s.me = false ∧ (s.view s.cur).unpublished = [] ∧ s.seq.arrived = false) ∧
    (∃ e, s.episodeOf 0 = some e ∧ e.scope ≠ 3) ∧
    (∃ u e, plain.episodeOf 0 = none ∧ plain.openEpisode 1 0 = some u ∧ u.episodeOf 0 = some e ∧ (u.view u.cur).unpublished = []) ∧
    s.seq.joined.find 0 = none ∧
    (let t := { barrierState { running with ctx := { exhStatus := true, rcb := 0x100 } } [] with phys := dwords [(0x108, 0x80)] }
     t.episodeOf 0 = none ∧ t.openEpisode 2 0 = none ∧ (t.view t.cur).rel = none ∧ t.coveredIds t.cur = []) ∧
    (∃ j, (w true).seq.joined.find 0 = some j ∧ j.scope = 1 ∧ j.done = true ∧ (w true).seq.arrived = true) ∧
    (∃ j, (w false).seq.joined.find 0 = some j ∧ j.scope = 1 ∧ j.done = false) ∧
    (∃ e ks, (w false).sched.episodes[(w false).evt.a]? = some e ∧ (w false).participants e = some ks ∧ ks ≠ [] ∧ (∀ i ∈ ks, i ∈ e.joined) ∧
      (e.scope = 4 → (w false).evt.ok = true)) := by
  refine ⟨by decide, by decide, ⟨_, rfl, rfl, rfl, rfl, rfl⟩, ⟨_, rfl, by decide⟩, ⟨_, _, rfl, rfl, rfl, rfl⟩, rfl, ⟨rfl, by decide +kernel, rfl, rfl⟩, ⟨_, rfl, rfl, rfl, rfl⟩,
    ⟨_, rfl, rfl, rfl⟩, ⟨_, _, rfl, rfl, by decide, by decide, by decide⟩⟩

def slotState (c : Nat) : State := { onPlot running { gen := 1 } with sched := { events := [(1, { name := 1, count := c, part := 0, launch := none })] } }

theorem test_witness_EventsCountAndRelease :
    let s := (slotState 0xFFFFFFFF).setReg 1 1
    let full := { onPlot { running with ctx := { rcb := 0x100 } } { gen := 1 } with phys := dwords [(0x108, 0x80)] }
    let stop := onPlot { run := .exhausted } {}
    (plain.setReg 1 65536).reg 1 = 65536 ∧
    (∃ e, (s.reg 1).toNat < 65536 ∧ s.sched.events.find (s.reg 1).toNat = some e ∧ e.part = s.seq.ctx.part ∧ Readable s [1, 2] ∧
      (s.view s.cur).unpublished = [] ∧ Unlogged s s.cur ∧ (s.reg 2).toNat % 2 ^ 32 ≤ e.count) ∧
    (∃ e, (slotState 0).sched.events.find 1 = some e ∧ e.count < 1 ∧ (∀ w ∈ e.waiters, w.agent ≠ s.me) ∧ (e.waiters.filter (·.agent != s.me)).length < 64) ∧
    (plain.freeName = some 1 ∧ plain.sched.events.length < 4096 ∧ plain.roomFor plain.seq.ctx.rcb 7 0x28 2 0xD0 2 1 = true) ∧
    (full.seq.granted = false ∧ full.roomFor full.seq.ctx.rcb 7 0x28 2 0xD0 2 1 = false ∧ full.seq.ctx.exhStatus = false) ∧
    ((stop.seqOf stop.evt.a).run = .exhausted ∧ stop.evt.d = 0 ∧ stop.evt.c = 0 ∧ isHub stop.evt.a = false ∧ ({ stop with evt := { c := 0x49 } } : State).evt.c ≠ 0) ∧
    (({ plain with evt := { d := 1 } } : State).freeName = some 1) ∧ ((slotState 0).sched.events.find 1).map (·.launch) = some none := by
  refine ⟨by decide, ⟨_, by decide, rfl, rfl, readable_of _ _ rfl, rfl, unlogged_of _ _ rfl, by decide⟩, ⟨_, rfl, by decide, by decide, by decide⟩,
    ⟨rfl, by decide, by decide +kernel⟩, by decide +kernel, by decide, rfl, by decide⟩

/-- Page 0 holds an exported entry's header; the plot's entry 0 is valid. -/
def carrying : State :=
  { onPlot running { gen := 1, utlb := [page0], carry := [(0, { val := 0x0200000000000000, tag := 1 })] } with
    acres := [(0, { usable := true })], views := [(0, { snap := dwords [(0, 0x43580001)] })] }

theorem test_witness_LaunchSeedDeclareCarry :
    let ready := { plain with power := { entropyReady := true } }
    let d := (plain.setReg 1 0x1FFFC0).setReg 2 64
    (plain.setReg 1 64 |>.reg 1).toNat % 128 ≠ 0 ∧ launchOk = true ∧
    (plain.seq.ctx.replay = false ∧ Unlogged plain plain.cur ∧ plain.power.entropyReady = false) ∧
    (ready.power.entropyReady = true ∧ ready.obs.seedW - ready.obs.seedB < Config.seedSlots ∧ Unlogged ready ready.cur) ∧
    ((d.reg 2).toNat ≠ 0 ∧ (d.reg 1).toNat % 64 = 0 ∧ (d.reg 1).toNat + (d.reg 2).toNat ≤ 0x200000 ∧
      (∀ k, k < 16 → (d.plot 0).holds (d.plot 0).nextId k = true) ∧ Readable d [1, 2]) ∧
    (let g := ((plain.setReg 1 0x1F0000).setReg 2 0x10000).setReg 3 0x7F00000000; bits (0x802 : BitVec 32) 0 2 = 2 ∧ bits (0x802 : BitVec 32) 8 4 = 8 ∧
      (g.reg 1).toNat % 65536 = 0 ∧ (g.reg 1).toNat + (g.reg 2).toNat ≤ 0x200000 ∧ canonical (g.reg 3) = true ∧ canonical (g.reg 3 + 0xFFFFFF) = true ∧
      g.rangeFree 0 0 0 (vaNum (g.reg 3)) 0x1000000 = true) ∧
    ((plain.plot 0).scanning 15 = false ∧ (plain.plot 0).carryEntry 15 = none) := by
  refine ⟨by decide, launch_ok, ⟨rfl, unlogged_of _ _ rfl, rfl⟩, ⟨rfl, by decide, unlogged_of _ _ rfl⟩,
    ⟨by decide, by decide, by decide, by decide, readable_of _ _ rfl⟩, by decide, by decide⟩

/-- The hypotheses of CARRYX's completion hold there for the address 0. -/
theorem test_witness_LaunchSeedDeclareCarry_export :
    let e : Word := 0x0200000000000000
    (carrying.plot 0).carryEntry 0 = some e ∧ Readable carrying [0] ∧
    (match carrying.reachPages 0 (64 + carryBytes e) 1 true, carrying.storeSpan 0 (carrying.carryHeader e ++
        (List.range (carryBytes e / 4)).map fun k => (carrying.plot 0).word (bits e 0 21 + 4 * k)) 0 with
     | .ok (), .ok _ => true
     | _, _ => false) = true := ⟨by decide, readable_of _ _ rfl, by decide +kernel⟩

/-- The hypotheses of CARRYI's completion hold there for the image at 0. -/
theorem test_witness_LaunchSeedDeclareCarry_import :
    let e : Word := 0x0200000000000000
    (match carrying.reachPages 0 64 0 false, carrying.readSpan 0 1 with
     | .ok (), .ok (hd, u) => firstBad 0 hd == none && (hd.getD 0 CW.zero).v == 0x43580001 && (hd.getD 3 CW.zero).v == 0 && carryOk e &&
        (match u.reachPages 64 (carryBytes e) 0 false, u.localCheck (bits e 0 21) (carryBytes e), u.readSpan 64 (carryBytes e / 64) with
         | .ok (), .ok (), .ok _ => true
         | _, _, _ => false)
     | _, _ => false) = true ∧ Readable carrying [0, 0] := ⟨by decide +kernel, readable_of _ _ rfl⟩

/-- A plot's strand with a handler. -/
def handling : Seq := { run := .running, tvec := 0x81 }

theorem test_witness_ExceptionsEnterTheHandler :
    let s := onPlot handling { gen := 1 }
    let r : Raise := { cause := .timer, t0 := 5 }
    let b := { onPlot { handling with pend := [r, { cause := .extint }] } { gen := 1 } with evt := { a := 0 } }
    let m := onPlot { handling with mail := [{ cause := .mbox }] } { gen := 1 }
    Handles s.seq .align ∧ (Quiet s ∧ s.seq.inh = false) ∧ ({ handling with inh := true } : Seq).inh = true ∧
    (({ handling with dbgen := true } : Seq).dbgen = true ∧ ({ handling with dbgen := true } : Seq).inh = false) ∧
    (b.seq.run = .running ∧ b.seq.mode ≠ 2 ∧ b.seq.req.drain = false ∧ b.seq.req.save = false ∧ b.seq.stalled = false ∧ r ∈ b.seq.candidates ∧
      (∀ y ∈ b.seq.candidates, y ≠ r → r.cause.code.toNat < y.cause.code.toNat) ∧ r.cause ≠ .mbox) ∧ Handles b.seq .timer ∧
    (m.seq.mail.head? = some { cause := .mbox } ∧ { cause := .mbox } ∈ m.seq.candidates) ∧
    (State.reset.seq.tvec.getLsbD 0 = false ∧ State.reset.seq.inh = false ∧ State.reset.seq.intoDebug .align = false ∧ isHub State.reset.cur = true) := by
  refine ⟨⟨rfl, rfl, rfl, by decide⟩, ⟨⟨rfl, fun _ => rfl⟩, rfl⟩, rfl, ⟨rfl, rfl⟩, by decide, ⟨rfl, rfl, rfl, by decide⟩, by decide, by decide⟩

/-- A generator's record with counters inside, or outside, its command of two beats. -/
def record (i : BitVec 32) : AgRec := { live := true, i := [(0, i)], gstate := { n := [(0, 2)], act := 1 } }

theorem test_witness_TretReturns :
    let sup (m : Nat) (p : Plot) := onPlot { running with mode := 1, pmode := m } p
    let masked : Plot := { rowmask := 1 }
    let full : Plot := { rowmask := 1, actors := List.replicate 16 { id := 0, instr := .tret } }
    (isHub plain.cur = false ∧ plain.seq.mode = 0) ∧ isHub State.reset.cur = true ∧ ((sup 1 {}).seq.mode = 1 ∧ (sup 1 {}).seq.pmode = 1) ∧
    ((sup 0 {}).seq.pmode = 0 ∧ ((sup 0 {}).plot 0).maskedOff = false ∧ ∀ g, g < 4 → (((sup 0 {}).plot 0).recs.get {} g).live = false) ∧
    (((sup 0 masked).plot 0).maskedOff = true ∧ ((sup 0 masked).plot 0).markers < 16) ∧ (((sup 0 full).plot 0).maskedOff = true ∧
      16 ≤ ((sup 0 full).plot 0).markers) ∧
    ((record 1).live = true ∧ (record 1).inside = true ∧ (record 2).inside = false ∧ ∀ y ∈ plain.seq.pend, y.unit ≠ 1 + 3) := by decide

/-- Hub core 0 with registers 1 and 2, and a link. -/
def hubWith (a b : Word) (q : Seq) (l : Nat) (k : Link) : State :=
  ({ State.reset with seqs := [(0x1000, { q with mode := 1, run := .running })], fabric := { links := [(l, k)] } }.setReg 1 a).setReg 2 b

theorem test_witness_PlotAndLinkControl :
    let s (k : Link) := hubWith 0x1000 0 {} 0x1000 k
    let busy := { hubWith 0 0 {} 0 {} with seqs := [(0, running), (0x1000, {})] }
    let scrub := { hubWith 0 0 { answer := some 5 } 0 {} with tempo := 5 }
    let late := { s { quiesceAt := some 0, replay := 1 } with tempo := 100000, evt := { a := 0x1000 } }
    isHub plain.cur = false ∧
    (isHub (s {}).cur = true ∧ namesPlot 0xB07 = true ∧ ((s {}).plot 0xB07).engaged = false ∧ (s {}).idlePlot 0xB07 = true ∧ (s {}).seq.answer = none) ∧
    (busy.idlePlot 0 = false ∧ busy.seq.busy = false) ∧ (({ gen := 0xFEFE } : Plot).gen.toNat < 0xFEFF ∧ 0xFEFF ≤ ({ gen := 0xFEFF } : Plot).gen.toNat) ∧
    (scrub.seq.answer = some 5 ∧ (5 : Word).toNat ≤ scrub.tempo.toNat) ∧
    (let t := onPlot { running with mode := 1 } {}; isHub t.cur = false ∧ t.seq.mode = 1 ∧ (t.plot 0).markers < 16) ∧
    Readable (onPlot { running with mode := 1 } {}) [1, 2] ∧
    (((s {}).reg 3).toNat < 4096 ∧ namesPlot ((s {}).reg 3).toNat = true ∧ ((s {}).seqOf 0).runsUser = false) ∧
    (linkOf ((s {}).reg 1) = some 0x1000 ∧ isEther 0x1000 = false ∧ ((s {}).link 0x1000).quiesceAt = none ∧ (s {}).seq.busy = false ∧
      ((s {}).link 0x1000).st = 3 ∧ (s {}).reg 2 = 0 ∧ ((s {}).link 0x1000).spares.find 0 = none) ∧
    (((s { st := 0 }).link 0x1000).st = 0 ∧ ((s { st := 0 }).link 0x1000).replay = 0 ∧ ((s { st := 0, replay := 1 }).link 0x1000).replay ≠ 0) ∧
    ((s { st := 2 }).link 0x1000).st = 2 ∧
    (({ badLanes := 1 } : Link).segmentBad 64 0 = true ∧ ({ badLanes := 0 } : Link).segmentBad (64 / 2 ^ 2) 0 = false) ∧
    (hubWith 0x1000 0 { busy := true } 0x1000 {}).seq.busy = true ∧
    (({ sc with imm := 0x101 } : SC).imm.getLsbD 8 = true ∧ ({ sc with imm := 0x101 } : SC).imm.toNat % 4 = 1 ∧ ({ sc with imm := 3 } : SC).imm.getLsbD 8 = false) ∧
    (let k : Link := { waiting := [0x1001, 0x1000] }; let t := { s k with seqs := (0x1001, { run := .running, stalled := true }) :: (s k).seqs }
     t.nextAtLink (t.link 0x1000) = some 0x1001 ∧ (s k).nextAtLink ((s k).link 0x1000) = none) ∧
    ((hubWith 0x1000 0 { busy := true } 0x1000 {}).link 0x1000).st = 3 ∧
    ((late.link 0x1000).quiesceAt = some 0 ∧ (0 : Word).toNat + 100000 ≤ late.tempo.toNat ∧ (late.link 0x1000).replay ≠ 0) := by
  refine ⟨by decide, by decide, by decide, by decide, by decide, by decide, readable_of _ _ rfl, by decide, by decide, by decide, by decide, by decide,
    by decide, by decide, by decide, by decide, by decide⟩

/-- A module whose first pod range it homes itself: sector 0 in a directory state. -/
def homing (st : Nat) : State :=
  { State.reset with fabric := { podRanges := [(0, { w0 := 0, w1 := 0x8000000000000001 })], dir := [(0, { st := st })] } }

theorem reset_readable (rs : List (BitVec 5)) : Readable State.reset rs := readable_of _ _ (by decide)

theorem test_witness_MessagesTranslationsAndDirectory :
    let far := State.reset.setReg 1 1
    let op : EngOp := { id := 1, instr := .tret, pages := [page0] }
    isHub plain.cur = false ∧ plain.seq.mode = 0 ∧ isHub State.reset.cur = true ∧ (31 < (0x20 : BitVec 32).toNat % 256 ∧ (0x1F : BitVec 32).toNat % 256 ≤ 31) ∧
    (State.reset.seqOf (hubAgent 31)).mail.length < 64 ∧
    64 ≤ ({ State.reset with seqs := [(0x101F, { mail := List.replicate 64 { cause := .mbox } })] }.seqOf (hubAgent 31)).mail.length ∧
    (let s := onPlot { running with mode := 1 } {}; s.seq.mode = 1 ∧ (plain.reg 1).toNat % 2 ^ 16 = s.seq.ctx.asid ∧ s.opsHold (invalidates 0 0 0) = false) ∧
    Readable (onPlot { running with mode := 1 } {}) [1, 2] ∧ { plain with plots := [(0, { ops := [op] })] }.opsHold (invalidates 0 0 0) = true ∧
    ((far.reg 1).toNat > far.tempo.toNat ∧ far.power.stopAt = none) ∧ (State.reset.reg 1).toNat ≤ State.reset.tempo.toNat ∧
    (let j : State := { world with obs := { journal := { w := 1 } } }; j.obs.journal.b ≤ (j.reg 1).toNat ∧ Nat.min 1 (j.obs.journal.w - (j.reg 1).toNat) = 1 ∧
      (List.range 16).all (fun k => match j.translate 0x1000 0 (j.reg 2 + BitVec.ofNat 64 (4 * k)) 1 with
        | .ok t => j.popKind (t.pa (j.reg 2 + BitVec.ofNat 64 (4 * k))) == 1 && !ptePub t.pte | .error _ => false) = true) ∧
    (far.reg 1).toNat < ({ far with obs := { journal := { b := 2 } } } : State).obs.journal.b ∧ (far.reg 1).toNat % 64 ≠ 0 ∧
    ((State.reset.reg 1).toNat % 64 = 0 ∧ State.reset.homesSector 0 = false ∧ (homing 3).homesSector 0 = true ∧
      ((homing 3).fabric.dir.get {} 0).st ≠ 4 ∧ ((homing 4).fabric.dir.get {} 0).st = 4) := by
  refine ⟨by decide, by decide, by decide, by decide, by decide, by decide, by decide, readable_of _ _ rfl, by decide, by decide, by decide, by decide +kernel,
    by decide, by decide, by decide⟩

theorem test_witness_MessagesTranslationsAndDirectory_reclaim :
    let s := { homing 4 with acres := world.acres, fabric := { (homing 4).fabric with links := world.fabric.links } }
    (match s.reachPages 0x20000000 64 0 false, s.readSpan 0x20000000 1 with
     | .ok (), .ok (ws, u) => u.fwins.isEmpty && (List.range 16).all fun k => (ws.getD k CW.zero).c != 15 && u.roBits (4 * k) == 0
     | _, _ => false) = true := by decide +kernel

/-- Launch 1 of the world, placed on plot 0. -/
def tract0 : Tract := { acre := 0, rank := 0, file := 0, nr := 1, nf := 1, released := true }
def launch1 : Launch :=
  { id := 1, record := 0x40000, queue := 0x400, part := 0x200, rcb := 0x100080000100, accepted := 0, image := 0x30000, args := 0x1234, inev := [], outev := [],
    prefs := [0], podgrp := 0, ordinal := 1, tracts := [tract0] }
def strand1 : Seq := { run := .running, ctx := { launch := 1 } }
/-- Hub core 0 of the world, registers 1 and 2 set, with launch 1 on plot 0. -/
def placed (a b : Word) (q : Seq) (p : Plot) (l : Launch) : State :=
  ({ world with seqs := [(0, q), (0x1000, { mode := 1, run := .running })], plots := [(0, p)],
                sched := { launches := [(1, l)] } }.setReg 1 a).setReg 2 b

/-- A saved context's area at 0x100000, whose header names plot 0 (or 1, relinked). -/
def saved (flags coord : Nat) : State :=
  { placed 0 0x100000 {} {} { launch1 with tracts := [{ tract0 with file := 1 }] } with
    phys := dwords [(0x100000, flags * 2 ^ 48 + 0x143585331), (0x100008, 0x100010000), (0x100028, coord)], areas := [(0x100000, { seq := strand1, plot := { gen := 1 } })] }

theorem test_witness_DrainsSavesAndLoads :
    let s := placed 0 0x100000 strand1 {} launch1
    let again := placed 0 0x100000 strand1 {} { launch1 with tracts := [{ tract0 with drain := some 1 }] }
    let lost := { placed 0 0x100000 strand1 {} { launch1 with lost := true } with seqs := [(0, strand1), (0x1000, { busy := true })] }
    let parked := { placed 0 0x100000 { strand1 with run := .parked } {} launch1 with seqs := [(0, { strand1 with run := .parked }), (0x1000, { busy := true })] }
    isHub plain.cur = false ∧ isHub s.cur = true ∧ (s.tractAt 0).isSome = true ∧
    (match s.tractAt 0, again.tractAt 0 with | some (_, _, t), some (_, _, u) => t.drain.isNone && u.drain.isSome | _, _ => false) = true ∧
    (((s.reg 1).toNat < 4096 ∧ namesPlot 0 = true ∧ (s.reg 2).toNat % 65536 = 0) ∧ (s.plot 0).engaged = false ∧ s.seq.busy = false ∧
      (s.seqOf 0).run ≠ .idle ∧ s.frozen 0 = false) ∧
    (lost.seq.busy = true ∧ ((lost.launch? (lost.seqOf 0).ctx.launch).any (·.lost)) = true) ∧
    (parked.seq.busy = true ∧ ((parked.launch? (parked.seqOf 0).ctx.launch).any (·.lost)) = false ∧ parked.readyToSave 0 = true) ∧
    ({ s with seqs := [(0, strand1), (0x1000, { busy := true })] } : State).readyToSave 0 = false ∧
    (((saved 0 0).plot 0).engaged = false ∧ (saved 0 0).idlePlot 0 = true ∧ ({ saved 0 0 with areas := [] } : State).areaAt 0x100000 = none) ∧
    ((saved 0 0).areaAt 0x100000).isSome = true ∧ ((saved 0 0).plot 0).gen.toNat < 0xFEFF := by
  refine ⟨by decide, by decide, by decide, by decide, by decide, by decide, by decide +kernel, by decide +kernel, by decide +kernel, by decide +kernel, by decide⟩

theorem test_witness_DrainsSavesAndLoads_areas :
    let s := placed 0 0x100000 strand1 {} launch1
    (match s.areaPa 0x100000 1, s.areaPa 0x100000 0 with | .ok a, .ok b => a == 0x100000 && b == 0x100000 | _, _ => false) = true ∧
    (match (s.sampleAcre 0).takeContext 0 with | .ok _ => true | _ => false) = true ∧
    (((saved 0 0).areaFlags 0x100000).testBit 1 = false ∧ ((saved 0 0).areaFlags 0x100000).testBit 0 = false ∧ (saved 0 0).phys.num (0x100000 + 8) 2 % 4096 = 0) ∧
    (((saved 1 0).areaFlags 0x100000).testBit 0 = true ∧ (saved 1 0).phys.num (0x100000 + 0x28) 2 % 4096 = 0) := by
  refine ⟨by decide +kernel, by decide +kernel, by decide +kernel, by decide +kernel⟩

def headerBytes : List Host.Cell := [(0, 49), (1, 83), (2, 88), (3, 67), (4, 1), (10, 1), (12, 1)].map fun c => (0x100000 + c.1, c.2)

/-- A relink list at 0x50000 that moves the saved context to plot 0 (or to a coordinate that names no plot). -/
def relinking (coord : Nat) : State :=
  { saved 0 0 with phys := held (treeBytes ++ imageBytes ++ headerBytes ++ rootBytes),
                   views := [(0x1000, { snap := dwords [(0x50000, 0x1524C0001), (0x50040, 0x100000), (0x50048, coord)] })] }.setReg 1 0x50000

/-- The hypotheses of RELINK hold for the list, and `f` of what placing it answers. -/
def relinkOk (s : State) (f : Bool → Bool) : Bool :=
  match s.reachPages 0x50000 64 0 false, s.readSpan 0x50000 1 with
  | .ok (), .ok (hd, u1) =>
    let w (k : Nat) : Nat := (hd.getD k CW.zero).v.toNat
    (match consumeLocal 0x50000 hd with | .ok () => true | _ => false) && w 0 = 0x524C0001 && w 1 = 1 && (List.range 14).all (fun k => w (k + 2) = 0) &&
    (match u1.reachPages 0x50040 16 0 false, u1.readSpan 0x50040 1 with
     | .ok (), .ok (ws, u2) =>
       (match consumeLocal 0x50040 (ws.take 4) with | .ok () => true | _ => false) &&
       (match u2.relinkAreas 0 ws 1 with
        | .ok (e :: es) => !(u2.areaFlags e.pa).testBit 1 &&
          (match u2.launch? e.area.seq.ctx.launch with | some l => f (match u2.relinkPlace l (e :: es) with | .ok _ => true | _ => false) | none => false)
        | _ => false)
     | _, _ => false)
  | _, _ => false

theorem test_witness_DrainsSavesAndLoads_relink : relinkOk (relinking 0) id = true := by decide +kernel
theorem test_witness_DrainsSavesAndLoads_relinkfail : relinkOk { relinking 0 with phys := held headerBytes } (!·) = true := by decide +kernel

theorem test_witness_WatchdogParkingAndResidence :
    let l : Launch := { launch1 with wdogUs := 5, wdogArmed := true }
    let s (now : Word) := { placed 0 0 strand1 {} l with tempo := now, evt := { a := 1 } }
    let asked (now : Word) := { placed 0 0 { strand1 with req := { save := true } } { actors := [{ id := 7, instr := .viota default }] } l with tempo := now, evt := { b := 7 } }
    let d : Drain := { id := 3, core := 0, origin := 0, launch := 1, tract := 0, foldfail := false, plots := [0] }
    let draining (r : Run) := let s := placed 0 0 { strand1 with run := r } {} launch1; { s with sched := { s.sched with drains := [d] }, evt := { a := 3 } }
    let fold (r : Run) := { placed 0 0 { strand1 with run := r } { folded := [2 ^ 60 + 1] } launch1 with areas := [(2 ^ 60 + 1, {})] }
    ((s 4999).launch? 1 = some l ∧ (s 4999).tempo.toNat < ((s 4999).lastRestart l).toNat + 1000 * l.wdogUs) ∧
    (l.wdogHeld = none ∧ (s 5000).agentsWith (fun y => y.launch = l.id) ≠ [] ∧ ((s 5000).lastRestart l).toNat + 1000 * l.wdogUs ≤ (s 5000).tempo.toNat ∧
      (s 5000).saving l = false) ∧
    (((asked 100000).seqOf 0).req.pending = true ∧ ((asked 100000).seqOf 0).req.since.toNat + 100000 ≤ (asked 100000).tempo.toNat ∧
      (asked 99999).tempo.toNat < ((asked 99999).seqOf 0).req.since.toNat + 100000) ∧
    (∃ y, ((asked 0).plot 0).actors.find? (·.id = 7) = some y ∧ (asked 0).stopSet 0 ≠ [] ∧ y.parked = false ∧ (asked 0).mayPark 0 y ((asked 0).stopSet 0) = true) ∧
    (∃ t, (draining .running).sched.drains.find? (·.id = 3) = some d ∧ (draining .running).launch? 1 = some launch1 ∧ launch1.tracts[0]? = some t ∧
      (draining .running).drained t.plots = false ∧ (draining .parked).drained t.plots = true) ∧
    (∃ k x, ((fold .idle).plot 0).folded[0]? = some k ∧ (fold .idle).areas.find k = some x ∧ ((fold .idle).plot 0).engaged = false ∧ (fold .idle).canLeave 0 = true ∧
      ((fold .idle).seqOf 0).run = .idle) ∧
    (∃ u, (fold .ended).canLeave 0 = true ∧ ((fold .ended).seqOf 0).run ≠ .idle ∧ (fold .ended).takeContext 0 = .ok u ∧ 2 ^ 60 + 65536 ≠ 2 ^ 60 + 1) := by
  refine ⟨⟨rfl, by decide⟩, by decide, by decide, ⟨_, rfl, by decide, by decide, by decide⟩, ⟨_, rfl, rfl, rfl, by decide +kernel, by decide +kernel⟩,
    ⟨_, _, rfl, rfl, rfl, by decide, rfl⟩, ⟨_, by decide, by decide, rfl, by decide⟩⟩

/-- A vector instruction's actor, and a plot whose vector unit holds n of them. -/
def vx : V := { vv with ty := 0xA, a := 0, b := 1, dst := 2, count := 4 }
def vecActor (i : Instr) : Actor := { id := 1, instr := i, left := some 1 }
def vecPlot (n : Nat) : Plot := { gen := 1, actors := List.replicate n (vecActor (.vadd vx)) }

theorem test_witness_VectorClassesIssue :
    let one := plain.setReg 4 1
    let sc1 := { onPlot running { gen := 1, carry := [(0, { val := 0x0200000000000000, tag := 1 })] } with seqs := one.seqs }
    let tos (f a : Nat) := onPlot running { gen := 1, actors := [{ vecActor (.vtos vx) with fired := f, aux := a }] }
    (vecOf (.vadd vx) = some vx ∧ vecOf (.vscan vx) = some vx ∧ vecOf (.vtos vx) = some vx ∧ vecOf (.varst vx) = some vx ∧ vecOf (.vqmx vx) = some vx) ∧
    (isHub State.reset.cur = true ∧ (onPlot { running with mode := 1 } {}).seq.mode ≠ 0 ∧ isHub plain.cur = false ∧ plain.seq.mode = 0) ∧
    (({ vv with dst := 3, c := 3 } : V).dst = ({ vv with dst := 3, c := 3 } : V).c ∧ ({ vv with a := 1, b := 1 } : V).a = ({ vv with a := 1, b := 1 } : V).b) ∧
    (let x : V := { vv with a := 0x40, b := 0x40 }; x.count = 0 ∧ vHasPort x (.vadd x) = false) ∧
    (vx.count ≠ 0 ∧ 2 ^ 32 ≤ ((plain.setReg 4 0x100000000).reg 4).toNat) ∧
    (vHasPort vx (.vadd vx) = true ∧ (one.reg 4).toNat < 2 ^ 32 ∧ (one.plot 0).vecHeld < 16) ∧ Readable one (vRegs vx) ∧
    (16 ≤ ((onPlot running (vecPlot 16)).plot 0).vecHeld) ∧
    ((plain.plot 0).carryEntry (scanEntry vx) = none) ∧
    (∃ e, (sc1.plot 0).carryEntry (scanEntry { vx with ty := 0 }) = some e ∧ bits e 48 5 = ({ vx with ty := 0 } : V).ty.toNat ∧ 0 < (sc1.reg 4).toNat ∧
      (sc1.plot 0).vecHeld < 16) ∧
    ((plain.plot 0).actors.find? (fun y => y.instr == .vtos vx && y.pc == plain.seq.pc) = none) ∧
    ((∃ y, ((tos 0 0).plot 0).actors.find? (fun y => y.instr == .vtos vx && y.pc == (tos 0 0).seq.pc) = some y ∧ y.fired = 0) ∧
      (∃ y, ((tos 1 2).plot 0).actors.find? (fun y => y.instr == .vtos vx && y.pc == (tos 1 2).seq.pc) = some y ∧ y.fired ≠ 0 ∧ y.aux = 2)) := by
  refine ⟨⟨rfl, rfl, rfl, rfl, rfl⟩, by decide, by decide, by decide, by decide, by decide, readable_of _ _ rfl, by decide, by decide,
    ⟨_, rfl, by decide, by decide, by decide⟩, by decide, ⟨_, rfl, rfl⟩, ⟨_, rfl, by decide, rfl⟩⟩

/-- A VADD between two ports with a beat, or an end token, at the head of each. -/
def beat1 : Beat := { ws := List.replicate 64 ⟨1, 1⟩ }
def firing (k : TokKind) (y : Actor) : State := onPlot running { ports := [(0, [{ k := k, by_ := 9 }]), (1, [{ k := k, by_ := 9 }])], actors := [y] }

theorem test_witness_ActorsFireAndEnd :
    let y := { vecActor (.vadd vx) with left := none }
    let s := firing (.data beat1) y
    let halted := onPlot { running with mode := 2, freeze := true } {}
    let limited := onPlot running { rates := [(0, { k := 1, m := 2, log := [0] })] }
    halted.frozen 0 = true ∧ ((limited.plot 0).rate 0 0).allows (limited.cycleOf 0) = false ∧
    (s.frozen 0 = false ∧ ((s.plot 0).rate 0 0).allows (s.cycleOf 0) = true ∧ (s.plot 0).actors = [y] ∧ y.instr = .vadd vx ∧ y.parked = false ∧ y.mis = false ∧
      vx.ty = 0xA ∧ vx.mod = 0 ∧ vx.ge = 0 ∧ vx.a.toNat < 16 ∧ vx.b.toNat < 16 ∧ vx.dst.toNat < 16 ∧ vx.a ≠ vx.b ∧ 1 ≤ (s.plot 0).room (outPort vx.dst)) ∧
    ((∃ ta la, (s.plot 0).port (inPort vx.a) = ta :: la ∧ ta.k = .data beat1) ∧ (∃ tb lb, (s.plot 0).port (inPort vx.b) = tb :: lb ∧ tb.k = .data beat1) ∧
      beat1.err = false ∧ beat1.ws.length = 64 ∧ (∀ w ∈ beat1.ws ++ beat1.ws, CW.check w = none) ∧ s.evt.ok = false ∧ s.evt.ok2 = false ∧
      ({ s with evt := { ok2 := true } } : State).evt.ok2 = true) ∧
    (∃ ta la, ((firing .fin y).plot 0).port (inPort vx.a) = ta :: la ∧ ta.k = .fin ∧ y.left = none) := by
  refine ⟨by decide, by decide, by decide, ⟨⟨_, _, rfl, rfl⟩, ⟨_, _, rfl, rfl⟩, rfl, by decide, by decide +kernel, by decide, by decide, by decide⟩, ⟨_, _, rfl, rfl, rfl⟩⟩

/-- A plot with one stream command of one beat in LOCAL space, and what its port or sink holds. -/
def streaming (i : Instr) (ports : NMap (List Tok)) : State :=
  onPlot running { gen := 1, ports := ports, actors := [{ id := 1, instr := i, left := some 1, ag := { n := [(0, 1)], act := 1 } }] }
/-- SLD vi0 from generator 1, 4 words, LOCAL; SST generator 1 from sink 0. -/
def sldLocal : D := { dd with a := 0, b := 1, d := 0, e := 1 }
def sstLocal : D := { dd with a := 1, b := 0, d := 0, e := 1 }

theorem test_witness_StreamsConfigureIssueAndMove :
    let s := streaming (.sld sldLocal) []
    let w := streaming (.sst sstLocal) [(16, [{ k := .data beat1, by_ := 9 }])]
    let far := onPlot running { gen := 1, actors := [{ id := 1, instr := .sld sldLocal, left := some 1, ag := { base := 0x200000 } }] }
    let full := onPlot running { gen := 1, actors := List.replicate 4 { id := 1, instr := .sld sldLocal } }
    (isHub plain.cur = false ∧ plain.seq.mode = 0) ∧ Readable plain [1, 2] ∧ 2 ^ 32 ≤ ((plain.setReg 1 0x100000000).reg 1).toNat ∧
    ((plain.plot 0).agOf 1).total < 2 ^ 32 ∧ okay ((plain.plot 0).issueTag 0 (tagOf 0x45) 64) = true ∧
    (((plain.plot 0).genQueue 1).length < 4 ∧ 4 ≤ ((full.plot 0).genQueue 1).length) ∧
    (∃ y, ((s.plot 0).genQueue 1).head? = some y ∧ ((s.plot 0).recs.get {} 1).live = false ∧ y.parked = false ∧ s.frozen 0 = false ∧
      (s.plot 0).streamBlocked y.id y.instr = false ∧ (s.plot 0).turn y = true ∧ ((s.plot 0).rate 2 1).allows (s.cycleOf 0) = true ∧ y.instr = .sld sldLocal ∧
      y.fired < y.left.getD 0 ∧ s.roomAt 0 0 ≠ 0 ∧ okay (s.beatRead 0 1 y.id true (y.ag.addr y.fired) (beatWords 0)) = true) ∧
    ((far.seqOf 0).run ≠ .ended ∧ (match far.beatRead 0 1 1 true 0x200000 (beatWords 0) with | .error (.trap r) => r.cause == .space | _ => false) = true) ∧
    (∃ y tk rest, ((w.plot 0).genQueue 1).head? = some y ∧ (w.plot 0).turn y = true ∧ y.instr = .sst sstLocal ∧ (w.plot 0).port 16 = tk :: rest ∧
      tk.k = .data beat1 ∧ ((w.plot 0).wiring 0 tk).kind = 4 ∧ (y.ag.addr y.fired).toNat % 4 = 0 ∧
      (w.plot 0).localFault y.id 0 (4 * beatWords 0) = none) := by
  refine ⟨by decide, readable_of _ _ rfl, by decide, by decide, by decide, by decide,
    ⟨_, rfl, rfl, rfl, by decide, by decide, by decide, by decide, rfl, by decide, by decide, by decide +kernel⟩, ⟨by decide, by decide +kernel⟩,
    ⟨_, _, _, rfl, by decide, rfl, rfl, rfl, by decide, by decide, by decide⟩⟩

/-- A beat that a generator brought, with an unreadable word, whose source can be read again. -/
theorem test_witness_StreamsConfigureIssueAndMove_replay :
    let b : Beat := { ws := [⟨1, 2⟩], seq := 5 }
    let tk : Tok := { k := .data b, by_ := 1, feeder := 1 }
    let s := onPlot running { gen := 1, ports := [(0, [tk])], replay := [(1, [(5, [0], true)])] }
    (s.plot 0).port 0 = [tk] ∧ (s.plot 0).replayable tk = true ∧
    ((s.plot 0).replay.get [] 1).find? (·.1 == b.seq) = some (5, [0], true) ∧ (s.rereadBeat 0 1 [0] true).isSome = true := by decide +kernel

/-! ## Faults of the hardware (R242, R345, R346, R350): what they leave, from the rules' words -/

theorem test_upset_memory :
    let s : State := { State.reset with acres := [(0, { usable := true })], evt := { b := 0x7F, c := 1 } }
    (List.range 16).all (fun k => (s.upset.phys.word false (0x40 + 4 * k)).c == 15) = true ∧ (s.upset.phys.word false 0x3C).c = 0 ∧
    (s.upset.phys.word false 0x80).c = 0 ∧ s.upset.obs.journal.queue.map (fun r => (r.kind, r.sev)) = [(2, 1)] := by decide +kernel

theorem test_upset_code_store :
    let s : State := { plain with plots := [(0, { gen := 1, code := [(0, 0x40C0000000000000)], codeLen := 8 })], evt := { c := 5 } }
    okay s.fetch = true ∧ okay s.upset.fetch = false := by decide +kernel

theorem test_upset_stash : (({ (plain.modPlot 0 fun p => p.put 8 (CW.mk' 7)) with evt := { b := 9, c := 3 } } : State).upset.plot 0).word 8 = CW.poison 7 := by
  decide

theorem test_prediction_fails_twice :
    let y : Actor := { vecActor (.vadd vx) with left := none }
    let s (a b : Bool) : State := { firing (.data beat1) y with evt := { ok := a, ok2 := b } }
    let after (a b : Bool) : List (BitVec 8) × List Cause × Bool := match exec .actorFiring (s a b) with
      | .next t => (t.obs.journal.queue.map (·.kind), (t.seqOf 0).pend.map (·.cause), (match (t.plot 0).port (outPort vx.dst) with | [r] => tokErr r | _ => false))
      | _ => ([], [], false)
    after false false = ([], [], false) ∧ after true false = ([7], [], false) ∧ after false true = ([6], [.lccmis], true) := by decide +kernel

theorem test_mirror_fails :
    let m : MmaF := { q := 0, fmt := 0xC, j := 0, zero := false, half := true }
    let x : Actor := { id := 1, instr := .mma { dd with e := 0x2C } }
    let s : State := plain
    ((s.mirrorStep 0 m x true false).1.obs.journal.queue.map (·.kind), (s.mirrorStep 0 m x true false).2.faulty) = ([8], false) ∧
    ((s.mirrorStep 0 m x false true).1.obs.journal.queue.map (·.kind), (s.mirrorStep 0 m x false true).2.faulty) = ([8], true) ∧
    (s.mirrorStep 0 { m with half := false } x true true).1.obs.journal.queue = [] := by decide +kernel

/-- A strand of launch 1, whose tract has plots 0 and 1. -/
def pair (p : Plot) : State :=
  { onPlot strand1 p with sched := { launches := [(1, { launch1 with tracts := [{ tract0 with nf := 2 }] })] } }

theorem test_witness_RoutesAndTokensTravel :
    let s := pair { gen := 1 }
    let inTract (d : Nat) : Bool := namesPlot d && (match s.tractOf s.cur with | some t => t.has d | none => d = s.cur)
    (isHub s.cur = false ∧ s.seq.mode = 0) ∧ (inTract 1 = true ∧ (1 : Nat) ≠ s.cur ∧ inTract 2 = false ∧ inTract 0xFFF = false) ∧
    ((0 : Nat) + 1 ≤ (cfgShape 0).1 ∧ (s.reg 1).toNat % 8 = 0 ∧ okay (consumeLocal 0 ((List.range 2).map fun j => (s.plot 0).word (4 * j))) = true ∧
      okay (s.cfgEntries 0 0 0 8 (fun _ => 0) (s.plot 0) 1) = true) ∧ Readable s [1] ∧ LocalOk s 0 8 ∧
    ((s.plot 0).banks.get .held 15 = .held ∧ ({ banks := [(15, .away)] } : Plot).banks.get .held 15 ≠ .held) ∧
    (s.plot 0).nextId < ({ k := .fin, by_ := 2 } : Tok).by_ ∧
    (let f : Flight := { src := 0, sink := 0, dst := 1, port := 0, rid := 5, tok := { k := .fin } }
     let t := { s with flight := [f, { f with bank := some 3 }], plots := [(1, { expected := [(0, 6)] })] }
     t.flight[0]? = some f ∧ f.bank = none ∧ t.firstOfSink 0 f = true ∧ (s.plot 1).expected.get 0 0 = 0 ∧ (t.plot 1).expected.get 0 0 ≠ 0 ∧
       (t.plot 1).expected.get 0 0 ≠ f.rid ∧ (t.seqOf 1).run ≠ .ended ∧ t.flight[1]? = some { f with bank := some 3 }) ∧
    (let g (a : List Actor) : Plot := { banks := [(0, .giving 1 2)], actors := a }
     (g []).banks.get .held 0 = .giving 1 2 ∧ (g []).bankBusy 0 2 = false ∧ (g [{ id := 1, instr := .sld sldLocal, left := some 1 }]).bankBusy 0 2 = true) ∧
    okay (s.storesReach 0 9 none ((s.view 0).chosen (s.heldBack 0 []))) = true := by
  refine ⟨by decide, by decide, by decide, readable_of _ _ rfl, ⟨by decide, by decide, fun g => absurd g (by decide)⟩, by decide, by decide,
    by decide, by decide, by decide⟩

/-- A token at the head of sink 0, wired to the plot's own port 1, or to rank mates. -/
theorem test_witness_RoutesAndTokensTravel_send :
    let t : Tok := { k := .fin, by_ := 1 }
    let s (r : Route) := pair { ports := [(16, [t])], routes := [(0, [(0, r)])], nextId := 2 }
    let full := pair { ports := [(1, List.replicate 8 t), (16, [t])], routes := [(0, [(0, { kind := 0, port := 1 })])], nextId := 2 }
    (((s { kind := 0, port := 1 }).plot 0).port 16 = [t] ∧ (((s { kind := 0, port := 1 }).plot 0).wiring 0 t).kind = 0 ∧ (s { kind := 0, port := 1 }).roomAt 0 1 ≠ 0) ∧
    ((full.plot 0).wiring 0 t).kind = 0 ∧ full.roomAt 0 1 = 0 ∧
    (let u := s { kind := 2, port := 1 }; ((u.plot 0).wiring 0 t).kind ≠ 0 ∧ u.receivers 0 ((u.plot 0).wiring 0 t) = [0, 1] ∧
      u.busTurn 0 0 (busOf 0 ((u.plot 0).wiring 0 t)) = (0, 0) ∧
      ∀ d ∈ [0, 1], u.roomAt d 1 ≠ 0 ∧ u.withheld d 1 0 = false) ∧
    (let u := s { kind := 4 }; ((u.plot 0).wiring 0 t).kind ≠ 0 ∧ u.receivers 0 ((u.plot 0).wiring 0 t) = []) := by decide

/-- A tile of one row of 256 bytes in stash at 0 (or 512 bytes), its format f. -/
def tile (f : Nat) (bytes : Nat) : TileDesc := { w0 := 0, w1 := BitVec.ofNat 64 ((bytes / 64 - 1) * 256 + f * 4096 + 2 ^ 21) }
def tiled (f bytes : Nat) : State := onPlot running { gen := 1, tds := [(0, tile f bytes)], wslots := [(0, { st := 2, tag := 1, fmt := 1, kw := 64 })] }

theorem test_witness_TilesAndCopiesOnTheEngine :
    let s := tiled 1 256
    let w := tiled 0 512
    let o : EngOp := { id := 0, instr := .tld dd, sv := [0], bytes := 256, td := tile 1 256 }
    let m : MmaF := { q := 0, fmt := 1, j := 0, zero := true, fromOp := true }
    let x : D := { dd with d := 4, e := 1 }
    ((isHub s.cur = false ∧ s.seq.mode = 0) ∧ okay ((s.plot 0).issueTag 0 none 256) = true ∧ okay (s.issueOp 0 o (s.plot 0)) = true ∧
      32 ≤ ({ ops := List.replicate 32 o } : Plot).ops.length) ∧ Readable s [0, 0, 0] ∧
    (s.desc 0 = tile 1 256 ∧ okay (s.descCheck 0 (tile 1 256) false false anyFmt) = true ∧ okay (s.stashRange 0 256) = true ∧
      okay (s.framed 1 true []) = true ∧ okay (s.tileSource 0 dd (tile 1 256) anyFmt) = true ∧ okay (s.descCheck 0 (tile 1 256) true true anyFmt) = true) ∧
    (okay (w.accOk 0 31) = true ∧ okay (w.descCheck 0 (tile 0 512) false false (fun f => f = 0 || f = 0xA)) = true ∧ (tile 0 512).rowBytes = 512 ∧
      okay (w.needSlot 0 31 1) = true ∧ okay (w.descCheck 0 (tile 0 512) false true (fun f => f = 0 || f = 0xA)) = true ∧
      okay (w.tileSource 0 dd (tile 0 512) fun f => f = 0 || f = 0xA) = true ∧ (tile 0 512).w0.toNat % 4 = 0) ∧
    ((tile 1 256).rows = (tile 1 256).rows ∧ (tile 1 256).rowBytes = 256) ∧
    (mmaOf (.cpymm x) = some m ∧ aFormat m.fmt = true ∧ okay (s.framed 1 true []) = true ∧ mxCode 1 = false ∧ okay (s.descCheck 0 (tile 1 256) false false (· = 1)) = true ∧
      okay (s.mmaChecks 0 m ((tile 1 256).rows * kpc 1)) = true ∧ okay (s.needSlot 0 0 2) = true ∧ (s.plot 0).matrixOps < 4) ∧
    (okay (s.copyRange true 0 0 0) = true ∧ okay (s.copyRange true 0x100 4 1) = true ∧ okay ((s.plot 0).issueTag 0 none 0) = true) := by
  refine ⟨by decide, readable_of _ _ rfl, by decide, by decide, by decide, ⟨rfl, by decide⟩, by decide⟩

/-- The tile operations on an accumulator, and an operand of an MX format in the window that covers it. -/
theorem test_witness_TilesAndCopiesOnTheEngine_forms :
    let s := tiled 0 512
    let x : D := { dd with b := 31, d := 3 }
    let u := { mapped running page0 with fwins := [(0, { base := 0, size := 65536, scale := 0x20000, fmt := 6, enable := true })] }
    let d : TileDesc := { w0 := 0x8000, w1 := 0x6300 }
    (x.d.getLsbD 1 = true ∧ x.d.getLsbD 0 = true ∧ x.b.toNat < s.seq.ctx.accs ∧ okay (s.tileSource 0 x (tile 0 512) anyFmt) = true ∧
      okay (s.tileSource 0 x (tile 0 512) fun f => f = 0 || f = 0xA) = true) ∧
    (mxCode d.fmt = true ∧ d.rowBytes = 256 ∧ d.inStash = false ∧ okay (u.descCheck 0 d false false (· = 6)) = true ∧
      okay (u.framed 6 false (d.pages.zip [page0])) = true ∧ (u.oneWindow ((d.pages.zip [page0]).map fun y => y.2.pa y.1)).any (·.fmt = 6) = true) := by
  decide +kernel

theorem test_witness_TilesAndCopiesOnTheEngine_perform :
    let o : EngOp := { id := 1, instr := .tld dd, sv := [BitVec.ofNat 64 0x1FFF00], bytes := 256, td := tile 1 256 }
    let x : D := { dd with e := 3 }
    let k : EngOp := { id := 1, instr := .cpy x, sv := [BitVec.ofNat 64 0x100, BitVec.ofNat 64 0x1FFFFC, BitVec.ofNat 64 (4 * 1)], bytes := 4 * 1 }
    let fence : Actor := { id := 0, instr := .fence { sm with off := 0x203F } }
    let p (a : List Actor) (o : EngOp) : Plot := { actors := a, ops := [o] }
    ((p [] o).ops.find? (·.id = 1) = some o ∧ (p [] o).opBlocked 1 = false ∧ (onPlot running (p [] o)).frozen 0 = false ∧ (onPlot running (p [] o)).stashGone 0 = false ∧ o.td.inStash = true ∧
      o.td.w0.toNat % 4 = 0 ∧ 0x1FFF00 % 4 = 0 ∧ 0x1FFF00 + o.td.size ≤ 2 ^ 21) ∧
    ((p [] k).ops.find? (·.id = 1) = some k ∧ x.e.getLsbD 0 = true ∧ x.e.getLsbD 1 = true ∧ k.pos = 0 ∧ k.bytes = 4 * 1 ∧ 0x100 % 4 = 0 ∧
      0x1FFFFC % 4 = 0 ∧ 0x1FFFFC + 4 * 1 ≤ 2 ^ 21) ∧
    (p [{ id := 0, instr := .sld sldLocal }, { fence with id := 1 }] { o with id := 2 }).opBlocked 2 = true := by decide

/-- A collective's block at 0: a sum of one I32 element on one participant, into the publishable page at 0x10000. -/
def collBlock : List (Nat × Nat) := [(0, 0xA0A00), (0x10, 0x100), (0x18, 0x10000), (0x28, 1)]
def colling : State :=
  { mapped running page0 with
    plots := [(0, { gen := 1, utlb := [page0, { page0 with vpn := 1, pte := 0xC37 }] })], acres := world.acres, phys := dwords collBlock }

theorem test_witness_CollectivesJoinAndEnd_issue :
    (match colling.translate 0 0 0 0, colling.readWords page0 0 64 true with
     | .ok t, .ok (ws, u) =>
       let b := collBlk (ws.map (·.v))
       t == page0 && colling.popKind (t.pa 0) = 1 && okay (u.consume t 0 (t.pa 0) ws) && b.valuesOk && b.formatsOk &&
       (b.hasDst && b.dst.toNat % 65536 = 0 && !mxCode b.dfmt) && b.src.toNat % 4 = 0 &&
       (match u.collPages b.src b.srcBytes 0, u.collPages b.dst b.dstBytes 1, u.collPages b.dscale b.scaleBytes 1 with
        | .ok _, .ok td, .ok tc => (td ++ tc).all u.pubPage && b.mode = 0 && !u.fabric.expired.contains b.cid &&
          (u.fabric.colls.get default b.cid).parts.isEmpty && okay (u.issueOp 0 { id := 0, instr := .coll dd, bytes := 5 } (u.plot 0))
        | _, _, _ => false)
     | _, _ => false) = true ∧ Readable colling [0] := ⟨by decide +kernel, readable_of _ _ rfl⟩

theorem test_witness_CollectivesJoinAndEnd :
    let q : CollPart := { agent := 0, op := 1, index := 0, sent := true, received := true, frames := [1] }
    let c : Coll := { cid := 0, op := 0, mode := 0, sfmt := 0xA, dfmt := 0xA, n := 2, root := 0, local_ := false, nelem := 1, tmo := 5, parts := [q], startAt := some 0 }
    let s (now : Word) (c : Coll) := { State.reset with tempo := now, fabric := { colls := [(0, c)], links := [(0x100F, { st := 0 })] } }
    (c.op < 2 ∧ c.sfmt = 0xA) ∧ ((s 0 c).fabric.colls.find 0 = some c ∧ c.cid = (s 0 c).evt.a ∧ c.done = false ∧ c.tmo ≠ 0) ∧
    ((∀ q ∈ c.parts.filter (·.here), q.sent = true ∧ q.received = true ∧ c.noDst q = false) ∧ c.parts.filter (·.here) ≠ [] ∧
      ∀ f ∈ (s 0 c).flips, ∀ k ∈ f.frames, ∀ q ∈ c.parts.filter (·.here), k ∉ q.frames) ∧
    (∀ i, i < ({ c with local_ := true, n := 1 } : Coll).n → ∃ q ∈ c.parts.filter (·.here), q.index = i) ∧ ({ c with tmo := 0 } : Coll).tmo = 0 ∧
    (1000 * c.tmo ≤ c.used + ((s 5000 c).tempo - 0).toNat ∧ c.used + ((s 4999 c).tempo - 0).toNat < 1000 * c.tmo) ∧
    (15 < 16 ∧ (s 0 c).portUp 15 = true ∧ ((s 0 c).link (knabryLink 15)).replay = 0 ∧ c.local_ = false) ∧
    (({ (default : Flit) with typ := 4, index := 1 } : Flit).index < c.n ∧ ∀ q ∈ c.parts, q.here = true → q.index ≠ 1) ∧
    State.reset.fabric.colls.find 0 = none := by decide

/-- A matrix operation of format BF16 from port 0 on accumulator 0 and slot 0. -/
def mmaX : D := { dd with e := 1, c := 1 }
def matrixPlot (as : List Actor) (ports : NMap (List Tok)) : Plot :=
  { gen := 1, actors := as, ports := ports, accs := [(0, { st := .live, tag := 1, place := .slot })], wslots := [(0, { st := 2, tag := 1, fmt := 1, kw := 64 })] }
def mmaActor : Actor := { id := 1, instr := .mma mmaX, left := some 1, started := true }

theorem test_witness_MatrixUnitIssuesAndMoves :
    let s := onPlot { running with regs := [(1, { val := 32, tag := 1 })] } (matrixPlot [] [])
    let m : MmaF := { q := 0, fmt := 1, j := 0, zero := false, port := 0 }
    let spill (r : List Region) := { matrixPlot [] [] with regions := r }
    (mmaOf (.mma mmaX) = some m ∧ aFormat 1 = true ∧ m.q < s.seq.ctx.accs ∧ ¬ (mxCode m.fmt = true ∧ m.sc = m.port) ∧ Readable s [1]) ∧
    ((plain.plot 0).slot 0).st ≠ 2 ∧
    (okay (s.mmaChecks 0 m (s.reg 1).toNat) = true ∧ okay ((s.plot 0).needSlot 0 1) = true ∧ (s.plot 0).matrixOps < 4 ∧ (s.plot 0).markers < 16 ∧
      4 ≤ (matrixPlot (List.replicate 4 mmaActor) []).matrixOps) ∧
    ((s.plot 0).accSt 0 ≠ .released ∧ (s.plot 0).inSlot 0 = true ∧ (s.plot 0).inSlot 31 = false ∧ (spill []).spillPlace = none ∧
      (spill [{ kind := 3, base := 0, size := 65536 }]).spillPlace = some 0) ∧
    (((s.plot 0).slot 0).st ≠ 0 ∧ ((s.plot 0).slot 3).st = 0) ∧
    (mxCode (drainFmt dd) = false ∧ dd.d = 0 ∧ dd.c.getLsbD 6 = false ∧ dd.e &&& 0xFFE0#20 = 0 ∧ 0 + drainN dd ≤ s.seq.ctx.accs ∧ ∀ k ∈ (List.range (drainN dd)).map (0 + ·), (s.plot 0).accSt k = .live ∧ drainOk ((s.plot 0).acc k).isInt 0 = true) ∧
    (let x : D := { dd with a := 30, b := 1, c := 0xA8, d := 2, e := 1 }; drainFmt x = 8 ∧ mxCode 8 = true ∧ bits x.d 0 4 ≠ x.b.toNat ∧
      x.c.getLsbD 7 = true ∧ 30 + drainN x ≤ s.seq.ctx.accs ∧ s.seq.gstrict = false ∧ drainOk false 8 = true ∧ (s.plot 0).accSt 31 = .unwritten) ∧
    (let x : D := { dd with d := 1, e := 0x41 }; weightFormat 1 = true ∧ s.depthOf x 1 = 32 ∧ 32 ≤ slotDepth 1 ∧ (s.reg 0).toNat % 256 = 0 ∧
      okay (s.imageCheck 0 true 0 (columnBytes 1 32)) = true ∧ okay (s.issueOp 0 { id := 0, instr := .wld x, bytes := 128 * 64 } (s.plot 0)) = true) ∧
    (let x : D := { dd with b := 255, e := 1 }; x.e.getLsbD 0 = true ∧ x.b.toNat + 1 ≤ 256 ∧ okay (consumeLocal 0 [(s.plot 0).word 0]) = true ∧
      ((s.plot 0).word 0).v.toNat < 2 ^ 24) ∧ isIntFmt 0xC = true := by
  refine ⟨⟨rfl, by decide, by decide, by decide, readable_of _ _ rfl⟩, by decide, by decide, by decide, by decide, by decide, by decide, by decide, by decide, by decide⟩

/-- A fill of an MX format in the window that covers it, and codebook rows of GLOBAL memory. -/
theorem test_witness_MatrixUnitIssuesAndMoves_global :
    let u := { mapped running page0 with fwins := [(0, { base := 0, size := 65536, scale := 0x20000, fmt := 6, enable := true })] }
    let l := (imagePages 0 (columnBytes 6 32)).zip [page0]
    (okay (u.imageCheck 0 false 0 (columnBytes 6 32)) = true ∧ okay (u.framed 6 false l) = true ∧
      ((u.oneWindow (l.map fun y => y.2.pa y.1)).map (·.fmt)) = some 6 ∧ weightFormat 6 = true ∧ 32 % 32 = 0 ∧ 32 ≤ slotDepth 6 ∧
      okay (u.issueOp 0 { id := 0, instr := .wld { dd with d := 1, e := 6 }, bytes := 4096 } (u.plot 0)) = true) ∧
    (dd.e.getLsbD 0 = false ∧ okay (u.reachPages 0xFFFC 4 0 false) = true ∧
      (match u.loadWords 0xFFFC 1 with | .ok (ws, t) => (ws.all fun w => w.v.toNat < 2 ^ 24) && (t.plot t.cur).markers < 16 | .error _ => false) = true) := by
  refine ⟨by decide +kernel, by decide +kernel⟩

theorem test_witness_MatrixUnitIssuesAndMoves_events :
    let s (as : List Actor) (k : TokKind) := onPlot running (matrixPlot as [(0, [{ k := k, by_ := 0 }])])
    let y := mmaActor
    let ended := { y with fired := 1 }
    let follow : Actor := { id := 3, instr := .cpymm { dd with d := 4, e := 1 }, left := some 1 }
    let waits := onPlot running { matrixPlot [follow] [] with ops := [{ id := 2, instr := .cpymm { dd with d := 4, e := 1 }, mma := some 3, landed := true }] }
    let d : D := { dd with b := 0 }
    let drain : Actor := { id := 2, instr := .adrain d, left := some 256 }
    let zero : Actor := { id := 2, instr := .azero dd }
    let fill : EngOp := { id := 1, instr := .wld { dd with e := 0x41 }, sv := [0], pos := 32 }
    let filling : Plot := { gen := 1, ops := [fill], wslots := [(0, { st := 1, tag := 1, fmt := 1, kw := 32 })] }
    (((s [y] .fin).plot 0).matrixQueue.head? = some y ∧ (s [y] .fin).matrixReady 0 y = true ∧ y.left ≠ some y.fired) ∧
    ((s [ended] .fin).matrixReady 0 ended = true ∧ ended.left = some ended.fired) ∧
    ((s [y] (.data beat1)).matrixReady 0 y = true ∧ ((s [y] (.data beat1)).plot 0).awaitsReplay [{ k := .data beat1, by_ := 0 }] = false) ∧
    ((waits.plot 0).matrixQueue.head? = some follow ∧ follow.started = false ∧ waits.matrixReady 0 follow = true ∧
      (waits.plot 0).ops.any (fun o => o.mma == some follow.id && o.landed) = true) ∧
    (let t := onPlot running (matrixPlot [drain] []); t.matrixReady 0 drain = true ∧ d.c.getLsbD 7 = false ∧ drainFmt d = 0 ∧ (t.plot 0).room 16 ≠ 0 ∧
      (drain.ws.getD 0 0).getLsbD 0 = false ∧ (drain.ws.getD 0 0).getLsbD 1 = false) ∧
    (let t := onPlot running (matrixPlot [zero] []); t.frozen 0 = false ∧ (t.plot 0).accBusy zero = false ∧ (t.plot 0).spillsAhead zero.id = false) ∧
    (let p := { matrixPlot [{ mmaActor with id := 5 }] [] with spills := [(5, 0)] }; p.spills = [(5, 0)] ∧ ∀ y ∈ p.matrixQueue, 5 ≤ y.id) ∧
    (filling.ops.find? (fun o => fillOf o == some 0) = some fill ∧ filling.fillReady fill 0 = true ∧ (filling.wslots.get {} 0).st = 1 ∧
      (filling.wslots.get {} 0).tag = filling.gen ∧ ∀ y ∈ filling.ops, fill.id < y.id → fillOf y ≠ some 0) := by decide

/-- ISTEP with a count, and a plot whose bank has its actor. -/
def istepActor : Actor := { id := 1, instr := .istep { dd with a := 1 }, left := some 1, aux := 1 }
def bankState (as : List Actor) (ports : NMap (List Tok)) : State := onPlot running { gen := 1, actors := as, ports := ports }

theorem test_witness_IntegratorsIssueStepAndMove :
    let s := onPlot { running with regs := [(1, { val := 256, tag := 1 })] } { gen := 1 }
    let image := onPlot running { gen := 1, stash := [(0, { tag := 1, ws := [(0, CW.mk' 0x49470001)] })] }
    (isHub s.cur = false ∧ s.seq.mode = 0) ∧ Readable s [1, 1] ∧
    (cfgFault 0 = none ∧ cfgFault 7 = some .iwidth ∧ cfgFault 0x400000 = some .rsvfld ∧ cfgFault 0x3000 = some .cfgbad) ∧
    ((s.plot 0).bankQueue = [] ∧ ({ dd with c := 2 } : D).c.toNat ≠ 3 ∧ (s.reg 1).toNat ≤ 256 ∧ bits ({ dd with d := 1 } : D).d 0 5 ≤ 1) ∧
    16 ≤ ((List.replicate 16 { istepActor with instr := .icfg dd }).filter fun y => !isIstep y.instr).length ∧
    (let x : D := { dd with a := 1 }; ¬ (x.a = 0 ∧ x.b.getLsbD 4 = false) ∧ (256 : Nat) % 1 = 0 ∧ (dd.a = 0 ∧ dd.b.getLsbD 4 = false)) ∧
    (2 ≤ ((List.replicate 2 istepActor).filter fun y => isIstep y.instr).length ∧ ((s.plot 0).bankQueue.filter fun y => isIstep y.instr).length < 2) ∧
    (s.seq.gstrict = false ∧ (s.reg 1).toNat % 64 = 0 ∧ (s.plot 0).localFault (s.plot 0).nextId (s.reg 1).toNat 1088 = none) ∧
    (let w (k : Nat) : CW := (image.plot 0).word (4 * k); okay (consumeLocal 0 ((List.range 272).map w)) = true ∧ (w 0).v = 0x49470001 ∧
      (w 1).v &&& 0xFFFEF0C0 = 0 ∧ (w 4).v.toNat < 65536 ∧ (∀ k, k < 11 → (w (5 + k)).v = 0) ∧
      ∀ i, i < 64 → (w (17 + 4 * i)).v.toNat < 2 ^ 26 ∧ cfgFault ((w (19 + 4 * i)).v ++ (w (18 + 4 * i)).v) = none) := by
  refine ⟨by decide, readable_of _ _ rfl, by decide, by decide, by decide, by decide, by decide, by decide, by decide +kernel⟩

theorem test_witness_IntegratorsIssueStepAndMove_events :
    let s := bankState [istepActor] []
    let one (i : Instr) : Actor := { id := 1, instr := i, sv := [1, 1] }
    let port (i : Instr) := bankState [one i] [(0, [{ k := .data beat1, by_ := 0 }])]
    (let g : Integ := { cfg := 0x1000 }; cfgDxk g.cfg = 1 ∧ cfgDxk 0 = 0) ∧ ({ bank := { stopped := true } } : Plot).bank.stopped = true ∧
    ((s.plot 0).bankQueue.head? = some istepActor ∧ s.frozen 0 = false ∧ istepActor.parked = false ∧ (s.plot 0).bank.stopped = false ∧ (s.plot 0).turn istepActor = true ∧
      ((s.plot 0).rate 3 0).allows (s.cycleOf 0) = true ∧ istepActor.ws = [] ∧ istepActor.aux = 1 ∧ (s.seqOf 0).run ≠ .ended) ∧
    (∀ i ∈ [Instr.icfg dd, .iset dd, .iinject dd, .iwire { dd with b := 4, d := 63 }, .iunwire { dd with b := 4 }, .istream dd, .istreamOff],
      ((bankState [one i] []).plot 0).bankQueue.head? = some (one i)) ∧
    ((∀ i ∈ [Instr.iinjectPort dd, .iload dd], ((port i).plot 0).turn (one i) = true) ∧ beat1.err = false ∧
      ((port (.iload dd)).plot 0).awaitsReplay [{ k := .data beat1, by_ := 0 }] = false ∧ CW.check (beat1.word 0) = none ∧
      ∀ i, i < 64 → (1 : Word).getLsbD i = true → CW.check (laneOf 0 i beat1).2 = none) := by decide

/-- Launch 1 of the world, in its queue and not yet placed, or as `l` has it; its RCB stands; the event names partition 0x200. -/
def queued (l : Launch) : State :=
  { world with phys := held (treeBytes ++ imageBytes ++ rootBytes ++ [(0x100080000100, 1), (0x100080000102, 67), (0x100080000103, 82), (0x100080000104, 4), (0x100080000111, 4)]),
               sched := { launches := [(1, l)] }, evt := { a := 0x200 } }
def head1 : Launch := { launch1 with tracts := [] }

theorem head_queues : (queued head1).queuesOf 0x200 = [0x400] := by
  unfold State.queuesOf; rw [show (((((queued head1).sched.launches.map (·.2)).filter fun l => l.part = 0x200 && l.placedAt.isNone && l.rcb != 0 &&
    !l.fault).map (·.queue)).eraseDups) = [0x400] by decide +kernel]; exact List.mergeSort_singleton _

theorem head_heads : (queued head1).heads 0x200 = [head1] := by
  unfold State.heads State.queued; rw [head_queues]
  simp only [List.filterMap_cons, List.filterMap_nil]
  rw [show (((queued head1).sched.launches.map (·.2)).filter fun l => l.queue = 0x400 && l.placedAt.isNone && l.rcb != 0) = [head1] by decide +kernel,
    List.mergeSort_singleton]; rfl

/-- The queue with its quantum given, as the decision finds it. -/
def dealt : State := (queued head1).setDeficit 0x400 1

theorem test_witness_LaunchesArePlacedStartAndRetire_decision :
    let s := queued head1
    (s.power.ready = true ∧ s.queuesOf 0x200 = [head1.queue] ∧ s.heads 0x200 = [head1] ∧ s.metQueues 0x200 = [] ∧ s.reserving head1 = false) ∧
    ((s.deficit 0x400 == 0 && s.quantum 0x400 == 1 && s.inputsReady head1 && (s.exhausted? 0x400).isNone && dealt.deficit 0x400 == 1) = true) ∧
    s.inputsReady { head1 with inev := [(1, 1)] } = false ∧ State.reset.power.ready = false ∧ (({ dealt with phys := {} } : State).placement head1).isNone = true := by
  refine ⟨⟨rfl, head_queues, head_heads, by decide, by decide +kernel⟩, by decide +kernel, by decide +kernel, by decide, by decide +kernel⟩

theorem test_witness_LaunchesArePlacedStartAndRetire_placed :
    (match dealt.placement head1, dealt.mapsOf head1 with
     | some pl, .ok _ => pl.2.2.2.1 == [{ tract0 with released := false }] && (dealt.logPlacement head1 pl.2.2.2.1).isSome
     | _, _ => false) = true := by decide +kernel

theorem test_witness_LaunchesArePlacedStartAndRetire_rectangle :
    findRect [] [0] (1, 1) = some { tract0 with released := false } ∧
    findRect [coordOf 11 15 6] [11] (16, 1) = some { acre := 11, rank := 0, file := 0, nr := 16, nf := 1 } ∧
    findRect [coordOf 3 0 0] [3] (16, 8) = none := by decide +kernel

theorem test_witness_LaunchesArePlacedStartAndRetire_aging :
    let s (t : Nat) : State := { State.reset with tempo := BitVec.ofNat 64 t }
    (s 9999999).tempo.toNat < (s 9999999).sched.lastAging.toNat + 10000000 ∧ (s 10000000).sched.lastAging.toNat + 10000000 ≤ (s 10000000).tempo.toNat := by decide

/-- The team of launch 1, its tract not yet released. -/
def unreleased : Launch := { launch1 with tracts := [{ tract0 with released := false }] }
def firstHead : ImgHead := { nmap := 1, acc := 1, datasz := 0, argsz := 0, sect := [0x40, 0x80, 0xC0, 0x100, 0x100, 0x100, 0x100, 0x100] }
def firstMap : ImgMap := { frac := 0, ksplit := false, rounded := false, shapes := [(1, 1)], energy := 0, strands := 0x80 }

theorem test_witness_LaunchesArePlacedStartAndRetire_release :
    let s := queued unreleased
    (match s.launch? 1 with | some l => (match l.tracts[0]? with | some t => l.id == 1 && !t.released && !l.stopAll && t.drain.isNone | none => false) | none => false) = true ∧
    (match s.loadTract unreleased 0 with | .ok _ => true | .error _ => false) = true ∧
    (match ({ s with phys := {} } : State).loadTract unreleased 0 with | .ok _ => false | .error _ => true) = true := by
  refine ⟨by decide, by decide +kernel, by decide +kernel⟩

theorem test_witness_LaunchesArePlacedStartAndRetire_strand :
    let s (g : BitVec 16) : State := { queued unreleased with plots := [(0, { gen := g })] }
    (match (s 0xFEFE).loadStrand unreleased { part := 0x200, base := 0x30000, phys := false } firstHead firstMap ([], 0) 0 with | .ok _ => true | .error _ => false) = true ∧
    0 % 2 ^ firstMap.frac = 0 ∧ ((s 0xFEFE).plot 0).gen.toNat + 1 < 0xFF00 ∧ 0xFF00 ≤ ((s 0xFEFF).plot 0).gen.toNat + 1 := by
  refine ⟨by decide +kernel, rfl, by decide, by decide⟩

theorem test_witness_LaunchesArePlacedStartAndRetire_ranks :
    let t : Tract := { tract0 with nr := 2, ranksUp := 1 }
    let s (n : Nat) : State := { queued { launch1 with tracts := [t] } with tempo := BitVec.ofNat 64 n }
    (t.released = true ∧ t.ranksUp < t.nr ∧ 64 * t.ranksUp ≤ ((s 64).tempo.toNat - t.relAt.toNat) * ((s 64).acre t.acre).point / 10) ∧
    ¬ (64 * t.ranksUp ≤ ((s 63).tempo.toNat - t.relAt.toNat) * ((s 63).acre t.acre).point / 10) := by decide +kernel

theorem test_witness_LaunchesArePlacedStartAndRetire_retire :
    let l : Launch := { launch1 with placedAt := some 0 }
    let s (r : Run) : State := { queued l with seqs := [(0, { strand1 with run := r })], areas := [(0x100000, { seq := { run := .ended }, plot := {} })] }
    ((s .running).launch? 1 = some l ∧ l.id = 1) ∧ (s .running).finished l = false ∧ (s .ended).finished l = true ∧ ((s .ended).untaken l).isNone = true ∧
    (match (s .ended).mapsOf l with
     | .ok (h, maps) => (match (s .ended).mapStash ((s .ended).imgOf l.part l.image) h (maps.getD l.mapping default) with | .ok n => n == 0 | .error _ => false)
     | .error _ => false) = true ∧
    l.outev = [] ∧ l.retiring = false ∧ (0 ∈ l.tracts.flatMap Tract.plots ∧ ((s .ended).seqOf 0).ctx.launch = 1) ∧
    ((s .held).agentsWith fun c => c.launch = 1).filter (fun c => ((s .held).seqOf c).run == .held) = [0] := by
  refine ⟨by decide, by decide +kernel, by decide +kernel, by decide +kernel, by decide +kernel, rfl, rfl, by decide, by decide⟩

theorem test_witness_LaunchesArePlacedStartAndRetire_upkeep :
    let h : Headland := { queue := 0x400, tract := tract0, busy := none }
    let idle (g : BitVec 16) : Bool := ([h].any (fun h => h.busy.isNone && h.tract.has 0) && 0xFE00 ≤ ({ gen := g } : Plot).gen.toNat)
    let m := dwords (treeWords ++ [(0x408, 0x100), (0x428, 0x100000000), (0x430, 1), (0x4D0, 0x100000000)])
    let s : State := { queued { launch1 with placedAt := some 0 } with phys := m, tempo := 1000000, seqs := [(0, { strand1 with ctx := { launch := 1, rcb := 0x400 } })] }
    idle 0xFDFF = false ∧ idle 0xFE00 = true ∧ (s.launchesOn 0).length = 1 ∧ s.launchesOn 1 = [] ∧
    (0 ∈ s.agentsWith (fun _ => true) ∧ (s.seqOf 0).run ≠ .ended ∧ (s.seqOf 0).run ≠ .failed ∧ (s.seqOf 0).req.quota = none ∧ (∀ r ∈ (s.seqOf 0).pend, r.cause ≠ .equota) ∧
      s.exhausted? (s.seqOf 0).ctx.rcb = some 0x400 ∧ s.exhaustedNode 0x300 = false) ∧
    (s.periodOver 0x400 0 = true ∧ s.periodOver 0x400 1000000 = false ∧ s.rcb (s.eff 0x400 8) 0x30 4 * 1000000 ≠ 0 ∧
      s.tempo.toNat / (s.rcb (s.eff 0x400 8) 0x30 4 * 1000000) - 0 ≠ 0 ∧
      s.sched.contexts.get 0 0x400 - s.rcb (s.eff 0x400 8) 0x2C 4 * 1000000 < 2 ^ 32 * 1000000) := by
  refine ⟨by decide, by decide, by decide, by decide, ?_, ?_⟩ <;> decide +kernel

/-- A message of kind `k` and flags `fl` on session 1 with a body. -/
def message (k : BitVec 8) (fl : BitVec 8) (body : List (BitVec 32)) : EvArgs :=
  { a := 1, b := 0x200, hdr := { (default : GyordHdr) with magic := 0x47590001, kind := k, flags := fl, len := BitVec.ofNat 32 (4 * body.length) }, body := body }
/-- The world with a session of partition 0x200 and event slot 7, and the message. -/
def talking (q : Session) (x : EvArgs) : State :=
  { world with host := { sessions := [(1, q)] }, evt := x, sched := { events := [(7, { name := 7, count := 3, part := 0x200, launch := none })], records := [(1, (0x40000, 0x200))] } }
def sess : Session := { part := 0x200, isRoot := false }
/-- The words of the record. -/
def recordBody : List (BitVec 32) := [0x4C520001, 0x100, 0x30000, 0, 0, 0, 0x400, 0] ++ List.replicate 24 0

theorem test_witness_HostAndObservationActions_ports :
    let s (n : Nat) : State := { State.reset with fabric := { links := [(etherLink 1, { st := 0, fecFails := n })] }, tempo := 999999 }
    (1 < 2 ∧ ((s 15).link (etherLink 1)).st ≠ 3 ∧ (s 15).tempo.toNat < ((s 15).link (etherLink 1)).winAt.toNat + 1000000 ∧
      ((s 15).link (etherLink 1)).fecFails = 15 ∧ ((s 15).link (etherLink 1)).raised = false) ∧ ((s 14).link (etherLink 1)).fecFails < 15 := by decide

theorem test_witness_HostAndObservationActions_messages :
    let hello := fun v : BitVec 32 => message 6 0 [v]
    (messageOk (hello 2) 6 [4] = true ∧ (hello 2).a < 512 ∧ world.power.ready = true ∧ (((hello 2).body.getD 0 0).getLsbD 1) = true ∧ (((hello 1).body.getD 0 0).getLsbD 1) = false) ∧
    messageOk (message 6 4 [2]) 6 [4] = false ∧ (State.reset.host.sessions.find 1).isNone = true ∧ ((talking sess (hello 2)).host.sessions.find 1 = some sess) ∧
    (¬ ((message 3 1 []).hdr.flags.getLsbD 0 = false ∨ ({ sess with waits := [(7, 4, 0)] } : Session).waits = [])) ∧ (message 3 0 []).hdr.flags.getLsbD 0 = false ∧
    messageOk (message 1 0 []) 1 [128] = false ∧ messageOk (message 2 0 [0]) 2 [32, 40] = false ∧ messageOk (message 5 0 []) 5 [0] = true := by decide

theorem test_witness_HostAndObservationActions_events :
    let s (op v : BitVec 32) : State := talking sess (message 3 0 [op, 7, v])
    (messageOk (s 1 3).evt 3 [12] = true ∧ bodyWord (s 2 3).evt 0 ≤ 2 ∧ bodyWord (s 0 3).evt 0 = 0 ∧ bodyWord (s 1 3).evt 0 = 1) ∧
    ((s 1 3).hostSlot sess 8).isNone = true ∧ (match (s 1 3).hostSlot sess 7 with
      | some e => bodyWord (s 1 3).evt 2 ≤ e.count && decide (e.count < bodyWord (s 1 4).evt 2) && ((s 0 1).launch? (e.launch.getD 0)).isNone
      | none => false) = true ∧ ({ sess with waits := List.replicate 1023 (7, 9, 0) } : Session).waits.length < 1024 ∧
    1024 ≤ ({ sess with waits := List.replicate 1024 (7, 9, 0) } : Session).waits.length ∧ (s 1 4).evt.hdr.flags.getLsbD 1 = false := by
  refine ⟨by decide, by decide, by decide, ?_, ?_, by decide⟩
  · exact Nat.lt_of_le_of_lt (Nat.le_of_eq List.length_replicate) (by decide)
  · exact Nat.le_of_eq List.length_replicate.symm

theorem test_witness_HostAndObservationActions_launch :
    let s := talking sess (message 1 0 recordBody)
    let pa := Config.recordBase + 128 * (s.sched.nextLaunch % 0x100000)
    messageOk s.evt 1 [128] = true ∧ recNum s.evt.body 0x18 8 = 0x400 ∧ (s.meet 0x400).contextRoom = true ∧ (match (s.meet 0x400).checkLaunch sess.part pa s.evt.body false with | .ok l => l == (s.meet 0x400).launchOf pa s.evt.body false | .error _ => false) = true ∧
    (match s.checkLaunch sess.part pa [] false with | .error _ => true | .ok _ => false) = true := by
  refine ⟨by decide +kernel, by decide +kernel, by decide +kernel, by decide +kernel, by decide +kernel⟩

/-- The launch that passed, accepted and its decision made. -/
theorem test_witness_HostAndObservationActions_launched :
    let s := talking sess (message 1 0 recordBody)
    let pa := Config.recordBase + 128 * (s.sched.nextLaunch % 0x100000)
    let z := s.meet 0x400
    (match (z.putRecord pa s.evt.body).enqueue (z.launchOf pa s.evt.body false) with
     | some (t, id) => (match t.decide id 1 0xFFFF 1 0 with | .free _ => true | _ => false)
     | none => false) = true := by decide +kernel

theorem test_witness_HostAndObservationActions_queries :
    let s (op n : BitVec 32) : State := talking sess (message 4 0 [op, 0, n, 0])
    (messageOk (s 0 1).evt 4 [16] = true ∧ bodyWord (s 0 1).evt 1 = 0 ∧ bodyWord (s 0 1).evt 0 = 0 ∧ bodyWord (s 1 0x400).evt 0 = 1) ∧
    ((s 0 1).sched.records.find (bodyDword (s 0 1).evt 2).toNat = some (0x40000, 0x200) ∧ sess.part = 0x200 ∧ (s 0 2).sched.records.find (bodyDword (s 0 2).evt 2).toNat = none) ∧
    ((s 1 0x400).queueOk (bodyDword (s 1 0x400).evt 2).toNat = true ∧ (s 1 0x400).partitionOf 0x400 = sess.part ∧ ({ sess with part := 0x300 } : Session).part ≠ 0x200) ∧
    (let lost : State := { s 0 1 with phys := (s 0 1).phys.put false 0x40060 (CW.poison 0) }; let ws (z : State) := (List.range 2).map fun k => z.homeWord 65536 0 (0x40060 + 4 * k);
      firstBad 0 (ws (s 0 1)) = none ∧ firstBad 0 (ws lost) = some (0, .poison)) := by
  decide +kernel

theorem test_witness_HostAndObservationActions_copies :
    let s (dir : BitVec 32) : State := talking sess (message 2 0 [dir, 0, 0x40000, 0, 0, 0, 7, 4])
    let good (dir : Nat) (ps : Option (List Piece)) : Bool := (match (s (BitVec.ofNat 32 dir)).hostPages sess.part 0x40000 4 (1 - dir) with
      | .ok (l, u) => (match u.reachAll 0x1000 10 (u.hostAccesses l 0x40000 4 ps) with
        | .ok w => firstBad 0 (spanWords (fun y => w.hostRead (tlbFor l y) y) 0x40000 4) == none
        | .error _ => false)
      | .error _ => false)
    (messageOk (s 1).evt 2 [32] = true ∧ bodyWord (s 1).evt 0 ≤ 1 ∧ bodyWord (s 1).evt 1 = 0 ∧ bodyDword (s 1).evt 2 = 0x40000 ∧ bodyWord (s 1).evt 7 = 4 ∧ (s 1).evt.ok2 = false) ∧
    good 0 (some (pieces 0x40000 (copiedWords (s 0).evt 4))) = true ∧ good 1 none = true ∧ (match (s 0).hostPages sess.part 0x8000000000000000 4 1 with | .error _ => true | .ok _ => false) = true := by
  refine ⟨by decide +kernel, by decide +kernel, by decide +kernel, by decide +kernel⟩

theorem test_witness_HostAndObservationActions_journal :
    let j (w b d : Nat) : Journal := { w := w, b := b, dropped := d, queue := [default] }
    ((j 1048575 0 0).w < (j 1048575 0 0).b + Config.journalSlots ∧ (j 1048575 0 0).dropped = 0) ∧ (j 1048576 0 0).b + Config.journalSlots ≤ (j 1048576 0 0).w ∧
    (let s : State := { State.reset with hubRegs := [((regJournal + 0x40 * 31) / 8 + 2, 0x800000)] }; 0x80 ≤ bits (s.hubRegs.get 0 ((regJournal + 0x40 * 31) / 8 + 2)) 16 8) := by
  decide

/-- Hub core 0 with a trial's block at 0x50000, launch 1 running, and one trial underway, its window of 10 us begun at 0. -/
def trial1 : Trial := { (default : Trial) with id := 1, launch := 1, win := 1, winUs := 10 }
def trialling (m : Nat) : State :=
  ({ world with views := [(0x1000, { snap := dwords [(0x50000, 0x100000000 + m), (0x50008, 0x101 * 2 ^ 32), (0x50018, 10)] })], sched := { launches := [(1, { launch1 with placedAt := some 0 })] },
                seqs := [(0, strand1)], obs := { trials := [trial1] }, evt := { a := 1 }, tempo := 10000 }).setReg 1 0x50000

theorem test_witness_HostAndObservationActions_gambit :
    isHub plain.cur = false ∧ isHub (trialling 0x47420001).cur = true ∧ ((trialling 0x47420001).reg 1).toNat % 8 = 0 ∧
    (match (trialling 0x47420001).reachPages 0x50000 64 0 false, (trialling 0x47420001).readBlock 0x50000 8, (trialling 0x47420001).readBlock 0x50000 8 with
     | .ok (), .ok (l, u), .ok _ => (match trialOf l with | some t => u.runs t.launch && decide (u.obs.trials.length < 4) | none => false)
     | _, _, _ => false) = true ∧
    (match (trialling 0).readBlock 0x50000 8 with | .ok (l, _) => (trialOf l).isNone | .error _ => false) = true ∧
    ((trialling 0).setReg 1 1).obs.trials.find? (·.id = bits (((trialling 0).setReg 1 1).reg 1) 0 16) = some trial1 := by
  refine ⟨by decide, by decide, by decide, by decide +kernel, by decide +kernel, by decide⟩

theorem test_witness_HostAndObservationActions_windows :
    let s (n : Nat) : State := { trialling 0 with tempo := BitVec.ofNat 64 n }
    let last : Trial := { trial1 with exper := true }
    ((s 9999).obs.trials.find? (·.id = 1) = some trial1 ∧ ¬ trial1.winAt.toNat + 1000 * trial1.winUs ≤ (s 9999).tempo.toNat ∧ trial1.winAt.toNat + 1000 * trial1.winUs ≤ (s 10000).tempo.toNat ∧
      trial1.exper = false) ∧ (State.reset.launch? trial1.launch).isNone = true ∧ ((s 10000).launch? last.launch).isSome = true ∧ (last.exper = true ∧ last.win ≤ last.window + 1) := by decide

theorem test_witness_HostAndObservationActions_tempo :
    let s (t v : Nat) (w : Bool) : State := { State.reset with tempo := BitVec.ofNat 64 t, power := { stopAt := some 5000, warned := w }, evt := { v := BitVec.ofNat 64 v } }
    let reg := regPodRanges + 1024
    ((s 3999 0 false).tempo.toNat + 1000 < (5000 : Word).toNat ∧ (5000 : Word).toNat ≤ (s 4000 0 false).tempo.toNat + 1000 ∧ (s 4000 0 false).power.warned = false ∧
      (s 4999 0 true).tempo.toNat < (5000 : Word).toNat ∧ (s 4999 0 true).power.warned = true) ∧
    ((s 5 4 true).evt.v.toNat < (s 5 4 true).tempo.toNat ∧ (s 5 5 true).tempo.toNat ≤ (s 5 5 true).evt.v.toNat) ∧ (fatalCause 0x38 = true ∧ fatalCause 0x5D = true ∧ State.reset.power.recovery = false) ∧
    (hubSpace ≤ reg ∧ reg < 0x1000000000000 ∧ reg % 8 = 0 ∧ reg < regScope ∧ (State.reset.hubStore (hubAgent 0) reg 1).isSome = true) := by decide

/-- A module at index 0 of a pod: port 15 up, a flit at it. -/
def receiving (f : Flit) (F : Fabric) : State := { State.reset with fabric := { F with links := [(knabryLink 15, { st := 0 })] }, evt := { a := 15, flit := f } }
def flit0 : Flit := { (default : Flit) with src := 1, req := 5 }
def req0 (k m : Nat) : DirReq := { id := 5, kind := k, sector := 0, modl := m, agent := 0, unit := 0 }
/-- A directory whose sector 0 has an entry and a request at its head. -/
def directory (e : DirEntry) (r : DirReq) : State := { State.reset with fabric := { dir := [(0, e)], dirQ := [r] } }

theorem test_witness_FabricAndDirectoryActions_flits :
    let s (t i : Nat) : State := receiving { flit0 with typ := t, index := i } {}
    let held (k : Nat) : Fabric := { dirQ := [req0 k 0], lines := [(0, { st := k, words := [] })], dir := [(0, { st := 2, owner := 1 })] }
    (15 < 16 ∧ (s 0 5).portUp 15 = true ∧ ((s 0 5).link (knabryLink 15)).replay = 0) ∧ 9 ≤ (s 9 0).evt.flit.typ ∧ ((s 0 5).evt.flit.typ = 0 ∧ (s 0 5).evt.flit.index ≤ 8 ∧ (s 0 8).evt.flit.index ≠ 6) ∧
    (((held 2).dir.get {} (s 0 6).evt.flit.target).st = 2 ∧ ((held 2).dir.get {} 0).owner = (s 0 6).evt.flit.src ∧ (s 0 6).evt.flit.index = 6) ∧
    (∀ k ∈ [10, 11, 12], ((receiving { flit0 with typ := 1 } (held k)).fabric.dirQ.find? fun r => 10 ≤ r.kind && r.id = (5 : Nat) && r.sector = (0 : Nat)) = some (req0 k 0)) ∧
    ({ flit0 with status := 1 } : Flit).status ≠ 0 ∧ flit0.status = 0 ∧ (s 2 7).evt.flit.index = 7 ∧
    ((receiving { flit0 with typ := 2, index := 1 } (held 3)).fabric.lines.find 0 = some { st := 3, words := [] }) ∧
    ((receiving { flit0 with typ := 2, index := 2 } (held 1)).fabric.lines.find 0 = some { st := 1, words := [] }) := by decide

theorem test_witness_FabricAndDirectoryActions_replies :
    let s (e : DirEntry) : State := { receiving { flit0 with typ := 3 } { dir := [(0, e)], dirQ := [{ req0 0 2 with snooped := some 0 }] } with tempo := 1 }
    ((s {}).dirHead (s {}).evt.flit.target = some { req0 0 2 with snooped := some 0 } ∧ (req0 0 2).id = flit0.req) ∧
    (((s { st := 2, owner := 1 }).fabric.dir.get {} 0).st = 2 ∧ (s {}).evt.flit.src = 1 ∧ ((s { st := 3, owner := 2 }).fabric.dir.get {} 0).owner ≠ 1 ∧
      ((s { st := 4, owner := 1 }).fabric.dir.get {} 0).st = 4) ∧ (receiving { flit0 with typ := 3 } {}).dirHead 0 = none := by decide

theorem test_witness_FabricAndDirectoryActions_served :
    let d := directory
    let lost : State := { d {} (req0 0 1) with fabric := { dirQ := [req0 0 1], dir := (List.range 16).map fun k => (65536 * (k + 1), { st := 4 }) } }
    let full : State := { lost with fabric := { lost.fabric with dir := (List.range 16).map fun k => (65536 * (k + 1), { st := 2, ord := k + 1 }) } }
    (∀ k ∈ [0, 1, 2, 4, 5, 7, 8, 9], ((d {} (req0 k 1)).dirHead 0 = some (req0 k 1) ∧ (d {} (req0 k 1)).grantBusy 0 = false ∧ ((d {} (req0 k 1)).fabric.dir.get {} 0).st = 0 ∧
      ((d {} (req0 k 1)).dirWays 0).length < 16)) ∧
    ((16 ≤ (lost.dirWays 0).length ∧ ∀ y ∈ lost.dirWays 0, y.2.st = 4) ∧ (16 ≤ (full.dirWays 0).length ∧ (∃ y ∈ full.dirWays 0, y.2.st ≠ 4) ∧ ∀ q ∈ full.fabric.dirQ, ¬ (q.kind = 9 ∧ q.sector = 65536)) ∧ (lost.fabric.dir.get {} 0).st = 0 ∧ (req0 0 1).snooped = none ∧ lost.dirHead 0 = some (req0 0 1)) ∧
    (((d { st := 1, sharers := [1] } (req0 1 1)).fabric.dir.get {} 0).st = 1 ∧ [1].filter (fun m => m != 1 && m != 0) = [] ∧ [1, 2].filter (fun m => m != 1 && m != 0) ≠ []) ∧
    (let own : State := { d { st := 3, owner := 0 } (req0 0 1) with fabric := { dir := [(0, { st := 3, owner := 0 })], dirQ := [req0 0 1], lines := [(0, { st := 3, words := [] })] } };
      (own.fabric.dir.get {} 0).owner = own.fabric.podIndex ∧ own.fabric.lines.find 0 = some { st := 3, words := [] } ∧ own.dirHead 0 = some (req0 0 1)) ∧
    (((d { st := 2, owner := 1 } (req0 0 2)).fabric.dir.get {} 0).owner ≠ 0 ∧ ((d { st := 4, owner := 1 } (req0 0 0)).fabric.dir.get {} 0).st = 4 ∧ (req0 0 0).modl = 0) := by decide

theorem test_witness_FabricAndDirectoryActions_released :
    let d := directory { st := 3, owner := 1 } (req0 3 1)
    let mine : State := { State.reset with fabric := { podRanges := [(0, { w0 := 0, w1 := 0x8000000100000001 })], lines := [(0, { st := 3, words := [] })] } }
    (d.dirHead 0 = some (req0 3 1) ∧ (d.fabric.dir.get {} 0).owner = (req0 3 1).modl ∧ ({ req0 3 1 with words := [CW.zero] } : DirReq).words ≠ []) ∧
    ((directory { st := 3, owner := 2 } (req0 3 1)).fabric.dir.get {} 0).owner ≠ (req0 3 1).modl ∧
    (let e := directory { st := 2, owner := 1 } (req0 3 1); e.homedHere (0 * 64) = true ∧ (e.fabric.dir.get {} 0).st = 2 ∧ (e.fabric.dir.get {} 0).owner ≠ e.fabric.podIndex) ∧
    (mine.homedHere (0 * 64) = false ∧ mine.fabric.lines.find 0 = some { st := 3, words := [] }) := by decide

theorem test_witness_FabricAndDirectoryActions_timeouts :
    let s (t : Nat) (e : DirEntry) : State := { directory e { req0 1 2 with snooped := some 0 } with tempo := BitVec.ofNat 64 t, evt := { b := 1 } }
    let sh : DirEntry := { st := 1, sharers := [1, 2] }
    (s 49999 sh).dirHead 0 = some { req0 1 2 with snooped := some 0 } ∧ ¬ ((0 : Word).toNat + 1000 * (s 49999 sh).fabric.snptmo ≤ (s 49999 sh).tempo.toNat) ∧
    (0 : Word).toNat + 1000 * (s 50000 sh).fabric.snptmo ≤ (s 50000 sh).tempo.toNat ∧ ((s 50000 sh).evt.b ∈ sh.sharers) ∧ ((s 50000 { st := 3, owner := 1 }).fabric.dir.get {} 0).st = 3 := by decide

theorem test_witness_FabricAndDirectoryActions_links :
    let s (l : Nat) (k : Link) : State := { State.reset with fabric := { links := [(l, k)] }, tempo := 999999, evt := { a := l, b := 512 } }
    (linkOf (BitVec.ofNat 64 0xB07) = some 0xB07 ∧ isEther 0xB07 = false ∧ isUcie 0xB07 = true ∧ ((s 0xB07 { st := 0 }).link 0xB07).st = 0 ∧
      (s 0xB07 { st := 0 }).tempo.toNat < ((s 0xB07 { st := 0 }).link 0xB07).winAt.toNat + (s 0xB07 { st := 0 }).retryLimit.2) ∧
    (linkOf (BitVec.ofNat 64 0x100F) = some 0x100F ∧ isUcie 0x100F = false ∧ ({ st := 0, flitFails := 14 } : Link).flitFails < 15 ∧ ({ st := 0, flitFails := 15 } : Link).flitFails = 15) ∧
    (s 0 {}).retryLimit.1 < ({ retries := 65 } : Link).retries ∧ ({ retries := 64 } : Link).retries ≤ (s 0 {}).retryLimit.1 ∧ ({ retries := 65 } : Link).raised = false := by decide

theorem test_witness_BringUpDebugAndManagement_power :
    let p (n stage : Nat) (t : Nat) : State := { State.reset with power := { stage := stage, acresUp := n, lastAcreAt := some 0 }, tempo := BitVec.ofNat 64 t, evt := { a := n } }
    let up (n : Nat) : State := { world with power := { acresUp := 12, trained := n, stage := 4 }, evt := { a := n } }
    let half : State := { up 1 with acres := (List.range 12).map fun k => (k, { powered := true }) }
    (((p 11 3 2000000).power.stage = 3 ∧ (p 11 3 2000000).evt.a = (p 11 3 2000000).power.acresUp ∧ 11 < 12 ∧ ∀ t0, (p 11 3 2000000).power.lastAcreAt = some t0 → t0.toNat + 2000000 ≤ (p 11 3 2000000).tempo.toNat) ∧
      ¬ ((0 : Word).toNat + 2000000 ≤ (p 11 3 1999999).tempo.toNat) ∧ ({ State.reset with power := { stage := 2 } } : State).power.stage = 2) ∧
    ((up 4).power.acresUp = 12 ∧ (up 4).power.ready = false ∧ (up 4).evt.a = (up 4).power.trained ∧ (4 : Nat) < 5 ∧ ¬ ((up 5).evt.a < 5)) ∧
    ((half.acre 11).powered = true ∧ (∀ i, i < 4 → (({ half with fabric := { links := (List.range 4).map fun i => (ucieLink 11 i, { st := 0 }) } } : State).link (ucieLink 11 i)).st ≠ 3) ∧
      (∃ i, i < 4 ∧ (half.link (ucieLink 11 i)).st = 3) ∧ 11 ∉ half.evt.ns) ∧
    ((up 5).power.trained = 5 ∧ (up 5).power.recovery = false ∧ ∃ k, k < 12 ∧ ((up 5).acre k).usable = true) := by
  refine ⟨⟨⟨rfl, rfl, by decide, fun t h => ?_⟩, by decide, rfl⟩, ⟨rfl, rfl, rfl, by decide, by decide⟩, ⟨by decide, by decide, ⟨1, by decide⟩, by decide⟩, ⟨rfl, rfl, 0, by decide⟩⟩
  cases h; decide

theorem test_witness_BringUpDebugAndManagement_segments :
    let bad (n : Nat) : Link := { badLanes := BitVec.ofNat 64 n }
    let up (k : Link) (w : Nat) : Prop := ∃ j, j < 64 / w ∧ k.segmentBad w j = false
    up (bad 0) 64 ∧ (¬ up (bad 1) 64 ∧ up (bad 1) 32) ∧ (¬ up (bad (2 ^ 63 + 1)) 64 ∧ ¬ up (bad (2 ^ 63 + 1)) 32 ∧ up (bad (2 ^ 63 + 1)) 16) ∧
    (¬ up (bad 0x0001000100010001) 64 ∧ ¬ up (bad 0x0001000100010001) 32 ∧ ¬ up (bad 0x0001000100010001) 16) := by
  refine ⟨⟨0, by decide⟩, ⟨?_, 1, by decide⟩, ⟨?_, ?_, 1, by decide⟩, ?_, ?_, ?_⟩ <;> decide

theorem test_witness_BringUpDebugAndManagement_signals :
    let on : State := { State.reset with acres := [(11, { powered := true })] }
    ((on.acre 11).powered = true ∧ (11 : Nat) < 12) ∧ ((0x13 : Nat) < 12 ∨ (0x10 ≤ (0x13 : Nat) ∧ (0x13 : Nat) < 0x14)) ∧ ¬ ((0x14 : Nat) < 12 ∨ (0x10 ≤ (0x14 : Nat) ∧ (0x14 : Nat) < 0x14)) ∧
    State.reset.power.recovery = false ∧ State.reset.evt.ns = [] ∧ sessionSees [0x200] running.ctx.part = false ∧ (running.run ≠ .idle ∧ running.run ≠ .ended ∧ running.run ≠ .failed ∧ running.mode ≠ 2 ∧ running.pend.any (·.cause == .dbghalt) = false) ∧
    ({ running with pend := [{ cause := .dbghalt }] } : Seq).pend.any (·.cause == .dbghalt) = true ∧ (({ running with mode := 2 } : Seq).mode = 2 ∧ isHub 0x1000 = true) := by decide

theorem test_witness_BringUpDebugAndManagement_access :
    let s (m : Nat) : State := { onPlot { running with mode := m } { gen := 1 } with evt := { b := 0, c := 0, d := 31 } }
    State.reset.power.recovery = false ∧ sessionSees [] (s 2).seq.ctx.part = true ∧ sessionSees [0x200] (s 2).seq.ctx.part = false ∧ (∃ v g, (s 2).raw 0 0 31 = some (v, g)) ∧
    ((s 0).seq.mode ≠ 2 ∧ (s 2).seq.mode = 2) ∧ (∃ v g, (s 2).raw 0 1 0x3FFFF = some (v, g)) ∧ (s 2).granuleSector 0 (0x3FFFF / 8) = none := by
  refine ⟨rfl, by decide, by decide, ⟨_, _, rfl⟩, by decide, ⟨_, _, rfl⟩, rfl⟩

theorem test_witness_BringUpDebugAndManagement_archives :
    let s : State := { State.reset with obs := { journal := { w := 5, b := 2 }, seedW := 5, seedB := 2 } }
    s.power.recovery = false ∧ (s.obs.journal.b ≤ 5 ∧ 5 ≤ s.obs.journal.w) ∧ (1 < s.obs.journal.b ∧ s.obs.journal.w < 6) ∧ (s.obs.seedB ≤ 2 ∧ 2 ≤ s.obs.seedW) := by decide

end Sys2Proof.Tests
end

section
/-! PROOF. What it is for an answer of the machine to leave physical memory in its canonical form, and how that
passes through the ways in which the model puts computations together. -/

namespace Sys2Proof.Machine

/-- What a stop leaves behind has canonical memory. -/
def Stop.Canonical : Stop → Prop
  | .trap _ => True
  | .stall t => t.phys.wf = true

/-- Every state that a decision may go on with has canonical memory. -/
def Decision.Canonical : Decision → Prop
  | .free t | .forced t _ | .full t | .diverged t => t.phys.wf = true

/-- `P` holds of what was answered, `E` of the error that came instead. -/
def Answers {ε α : Type} (E : ε → Prop) (P : α → Prop) : Except ε α → Prop
  | .ok a => P a
  | .error e => E e

/-- A next state, if one is answered, has canonical memory. -/
def Leaves : Out → Prop
  | .next t => t.phys.wf = true
  | _ => True

@[simp] theorem memCanonical_iff (s : State) : MemCanonical s ↔ s.phys.wf = true := Iff.rfl

@[simp] theorem stop_trap (r : Raise) : (Stop.trap r).Canonical := trivial

@[simp] theorem stop_stall (t : State) : (Stop.stall t).Canonical ↔ t.phys.wf = true := Iff.rfl

@[simp] theorem decision_free (t : State) : (Decision.free t).Canonical ↔ t.phys.wf = true := Iff.rfl

@[simp] theorem decision_forced (t : State) (e : LogEnt) :
    (Decision.forced t e).Canonical ↔ t.phys.wf = true := Iff.rfl

@[simp] theorem decision_full (t : State) : (Decision.full t).Canonical ↔ t.phys.wf = true := Iff.rfl

@[simp] theorem decision_diverged (t : State) : (Decision.diverged t).Canonical ↔ t.phys.wf = true := Iff.rfl

@[simp] theorem leaves_next (t : State) : Leaves (.next t) ↔ t.phys.wf = true := Iff.rfl

@[simp] theorem leaves_fault (r : Fault) : Leaves (.fault r) := trivial

@[simp] theorem leaves_refused (r : Refusal) : Leaves (.refused r) := trivial

@[simp] theorem leaves_ite (c : Prop) [Decidable c] (x y : Out) :
    Leaves (if c then x else y) ↔ (c → Leaves x) ∧ (¬ c → Leaves y) := by
  split <;> simp [*]

/-! ### Answers of one computation after another -/

section
variable {ε α β : Type} {E : ε → Prop} {P : α → Prop} {Q : β → Prop}

@[simp] theorem answers_ok (a : α) : Answers E P (.ok a) ↔ P a := Iff.rfl

@[simp] theorem answers_pure (a : α) : Answers E P (pure a) ↔ P a := Iff.rfl

@[simp] theorem answers_error (e : ε) : Answers E P (.error e) ↔ E e := Iff.rfl

@[simp] theorem answers_trap (c : Cause) (t0 t1 t2 : Word) : Answers Stop.Canonical P (trap c t0 t1 t2) := trivial

@[simp] theorem answers_ite (c : Prop) [Decidable c] (x y : Except ε α) :
    Answers E P (if c then x else y) ↔ (c → Answers E P x) ∧ (¬ c → Answers E P y) := by
  split <;> simp [*]

@[simp] theorem answers_trivial (x : Except ε α) : Answers (fun _ => True) (fun _ => True) x := by
  cases x <;> trivial

theorem Answers.of_ok {x : Except ε α} (hx : Answers E P x) {a : α} (e : x = .ok a) : P a := by
  subst e; exact hx

theorem Answers.of_error {x : Except ε α} (hx : Answers E P x) {e : ε} (h : x = .error e) : E e := by
  subst h; exact hx

theorem answers_bind (x : Except ε α) (f : α → Except ε β) :
    Answers E Q (x >>= f) ↔ Answers E (fun a => Answers E Q (f a)) x := by
  cases x <;> rfl

/-- What is known of the first computation's answer, the second may use. -/
theorem answers_bind_iff {x : Except ε α} {f : α → Except ε β} (hx : Answers E P x) :
    Answers E Q (x >>= f) ↔ ∀ a, x = .ok a → P a → Answers E Q (f a) := by
  cases x with
  | error e => exact ⟨fun _ _ h => (nomatch h), fun _ => hx⟩
  | ok a => exact ⟨fun h _ e _ => by cases e; exact h, fun h => h a rfl hx⟩

theorem Answers.bind {x : Except ε α} {f : α → Except ε β} (hx : Answers E P x) (h : ∀ a, P a → Answers E Q (f a)) :
    Answers E Q (x >>= f) :=
  (answers_bind_iff hx).mpr fun a _ => h a

/-- A check: what passes it goes on. -/
@[simp] theorem answers_bind_calm {x : Except ε α} {f : α → Except ε β} (hx : Answers E (fun _ => True) x) :
    Answers E Q (x >>= f) ↔ ∀ a, x = .ok a → Answers E Q (f a) := by
  simp [answers_bind_iff hx]

@[simp] theorem answers_bind_state {x : Except ε State} {f : State → Except ε β}
    (hx : Answers E (fun t => t.phys.wf = true) x) :
    Answers E Q (x >>= f) ↔ ∀ t, x = .ok t → t.phys.wf = true → Answers E Q (f t) :=
  answers_bind_iff hx

@[simp] theorem answers_bind_snd {x : Except ε (α × State)} {f : α × State → Except ε β}
    (hx : Answers E (fun r => r.2.phys.wf = true) x) :
    Answers E Q (x >>= f) ↔ ∀ a t, x = .ok (a, t) → t.phys.wf = true → Answers E Q (f (a, t)) :=
  (answers_bind_iff hx).trans Prod.forall

@[simp] theorem answers_bind_fst {x : Except ε (State × α)} {f : State × α → Except ε β}
    (hx : Answers E (fun r => r.1.phys.wf = true) x) :
    Answers E Q (x >>= f) ↔ ∀ t a, x = .ok (t, a) → t.phys.wf = true → Answers E Q (f (t, a)) :=
  (answers_bind_iff hx).trans Prod.forall

theorem answers_map_iff {x : Except ε α} {f : α → β} (hx : Answers E P x) :
    Answers E Q (f <$> x) ↔ ∀ a, x = .ok a → P a → Q (f a) := by
  rw [← bind_pure_comp, answers_bind_iff hx]; rfl

@[simp] theorem answers_map_calm {x : Except ε α} {f : α → β} (hx : Answers E (fun _ => True) x) :
    Answers E Q (f <$> x) ↔ ∀ a, x = .ok a → Q (f a) := by
  simp [answers_map_iff hx]

@[simp] theorem answers_map_state {x : Except ε State} {f : State → β} (hx : Answers E (fun t => t.phys.wf = true) x) :
    Answers E Q (f <$> x) ↔ ∀ t, x = .ok t → t.phys.wf = true → Q (f t) :=
  answers_map_iff hx

@[simp] theorem answers_map_snd {x : Except ε (α × State)} {f : α × State → β}
    (hx : Answers E (fun r => r.2.phys.wf = true) x) :
    Answers E Q (f <$> x) ↔ ∀ a t, x = .ok (a, t) → t.phys.wf = true → Q (f (a, t)) :=
  (answers_map_iff hx).trans Prod.forall

@[simp] theorem answers_map_fst {x : Except ε (State × α)} {f : State × α → β}
    (hx : Answers E (fun r => r.1.phys.wf = true) x) :
    Answers E Q (f <$> x) ↔ ∀ t a, x = .ok (t, a) → t.phys.wf = true → Q (f (t, a)) :=
  (answers_map_iff hx).trans Prod.forall

theorem answers_foldlM {f : α → β → Except ε α} (hf : ∀ a b, P a → Answers E P (f a b)) (l : List β) {a : α} (ha : P a) :
    Answers E P (l.foldlM f a) := by
  induction l generalizing a with
  | nil => exact ha
  | cons b l ih =>
    rw [List.foldlM_cons, answers_bind_iff (hf a b ha)]
    exact fun c _ hc => ih hc

@[simp] theorem answers_mapM {f : α → Except ε β} (h : ∀ a, Answers E (fun _ => True) (f a)) (l : List α) :
    Answers E (fun _ => True) (l.mapM f) := by
  induction l with
  | nil => simp
  | cons a l ih => rw [List.mapM_cons, answers_bind_calm (h a)]; intro b _; rw [answers_bind_calm ih]; simp

@[simp] theorem answers_need (b : Bool) (c : Cause) (t0 t1 : Word) :
    Answers Stop.Canonical (fun _ => True) (need b c t0 t1) := by
  cases b <;> simp [need]

@[simp] theorem waitFor_answers {s : State} (hp : s.phys.wf = true) (a unit : Nat) :
    Answers Stop.Canonical P (waitFor s a unit : Res α) := by
  unfold waitFor; split <;> simp [State.modSeqOf, hp]

@[simp] theorem stall_answers {s : State} (hp : s.phys.wf = true) : Answers Stop.Canonical P (stall s : Res α) := by
  unfold stall; simp [State.stalledAt, hp]

end

/-! ### Folds, and the operations of physical memory -/

@[simp] theorem foldl_phys {β : Type} {f : State → β → State} (h : ∀ t b, (f t b).phys = t.phys) (l : List β)
    (s : State) : (l.foldl f s).phys = s.phys := by
  induction l generalizing s with
  | nil => rfl
  | cons b l ih => exact (ih _).trans (h s b)

/-- The premise speaks of `MemCanonical` so that the kernel compares the states and never evaluates their memories. -/
@[simp] theorem foldl_wf {β : Type} {f : State → β → State} (h : ∀ t b, t.phys.wf = true → MemCanonical (f t b))
    (l : List β) {s : State} (hp : s.phys.wf = true) : (l.foldl f s).phys.wf = true :=
  foldl_keeps MemCanonical f h l s hp

theorem getD_wf {s : State} (hp : s.phys.wf = true) {o : Option State} (ho : ∀ t, o = some t → t.phys.wf = true) :
    (o.getD s).phys.wf = true := by
  cases o with
  | none => exact hp
  | some t => exact ho t rfl

section
variable {p : Phys} (h : p.wf = true)
include h

@[simp] theorem Phys.put_wf (x : Bool) (a : Nat) (w : CW) : (p.put x a w).wf = true := Phys.wf_put h x a w

@[simp] theorem Phys.flip_wf (f : Nat) : (p.flip f).wf = true := Phys.wf_flip h f

@[simp] theorem Phys.putDword_wf (a : Nat) (v : Word) : (p.putDword a v).wf = true := Phys.wf_putDword h a v

@[simp] theorem Phys.putNum_wf (a n v : Nat) : (p.putNum a n v).wf = true := Phys.wf_putNum h a n v

end

@[simp] theorem Phys.foldl_wf {β : Type} {f : Phys → β → Phys} (h : ∀ p b, p.wf = true → (f p b).wf = true) (l : List β)
    {p : Phys} (hp : p.wf = true) : (l.foldl f p).wf = true :=
  foldl_keeps (fun p : Phys => p.wf = true) f h l p hp

@[simp] theorem Phys.putDwords_wf {p : Phys} (h : p.wf = true) (a : Nat) (l : List Word) :
    (p.putDwords a l).wf = true := by
  unfold Phys.putDwords; simp +contextual [h]

end Sys2Proof.Machine
end

section
/-! PROOF. The operations that leave physical memory as it is: `f_phys` says so of `f`. -/

namespace Sys2Proof.Machine

@[simp] theorem State.modPower_phys (s : State) (f : Power → Power) : (s.modPower f).phys = s.phys := by rfl

@[simp] theorem State.answerPort_phys (s : State) (l : List Word) : (s.answerPort l).phys = s.phys := by rfl

@[simp] theorem State.setWindow_phys (s : State) (w : Window) : (s.setWindow w).phys = s.phys := by rfl

@[simp] theorem State.learnt_phys (s : State) (a : Nat) (r : Raise) : (s.learnt a r).phys = s.phys := by
  unfold State.learnt
  split <;> simp

@[simp] theorem State.emit_phys (s : State) (l : List Flit) : (s.emit l).phys = s.phys := by rfl

@[simp] theorem State.rebase_phys (s : State) (f : Nat → Bool) (now : Word) : (s.rebase f now).phys = s.phys := by rfl

@[simp] theorem State.report_phys (s : State) (unit kind sev : Nat) (cause : BitVec 7) (addr syn : Word) (launch : Nat) :
    (s.report unit kind sev cause addr syn launch).phys = s.phys := by rfl

@[simp] theorem State.exclude_phys (s : State) (unit : Nat) : (s.exclude unit).phys = s.phys := by rfl

@[simp] theorem State.settleAcre_phys (s : State) (k : Nat) : (s.settleAcre k).phys = s.phys := by
  unfold State.settleAcre
  dsimp only
  (repeat' split) <;> simp

@[simp] theorem State.scrubAcre_phys (s : State) (k : Nat) : (s.scrubAcre k).phys = s.phys := by rfl

@[simp] theorem State.stopTempo_phys (s : State) : s.stopTempo.phys = s.phys := by
  unfold State.stopTempo
  dsimp only
  (repeat' split) <;> simp

@[simp] theorem State.askQuota_phys (s : State) : s.askQuota.phys = s.phys := by
  unfold State.askQuota
  refine foldl_phys (fun _ _ => ?_) _ _
  dsimp only
  (repeat' split) <;> simp

@[simp] theorem State.poisonBit_phys (s : State) (pa : Nat) : (s.poisonBit pa).phys = s.phys := by rfl

@[simp] theorem State.overrides_phys (s : State) (keep : Option Nat) (pa : Nat) (mask : BitVec 4) :
    (s.overrides keep pa mask).phys = s.phys := by rfl

@[simp] theorem State.setPlain_phys (s : State) (pa : Nat) (v : Word) : (s.setPlain pa v).phys = s.phys := by rfl

@[simp] theorem State.setScopeCtl_phys (s : State) (k : Nat) (v : Word) : (s.setScopeCtl k v).phys = s.phys := by rfl

@[simp] theorem State.setPodRange_phys (s : State) (i word : Nat) (v : Word) :
    (s.setPodRange i word v).phys = s.phys := by rfl

@[simp] theorem State.setCollPath_phys (s : State) (v : Word) : (s.setCollPath v).phys = s.phys := by
  unfold State.setCollPath
  split <;> simp

@[simp] theorem State.setRing_phys (s : State) (which : Nat) (v : Word) : (s.setRing which v).phys = s.phys := by rfl

@[simp] theorem State.setRetryCfg_phys (s : State) (v : Word) : (s.setRetryCfg v).phys = s.phys := by rfl

@[simp] theorem State.setSnptmo_phys (s : State) (v : Word) : (s.setSnptmo v).phys = s.phys := by
  unfold State.setSnptmo
  split <;> simp

@[simp] theorem State.expire_phys (s : State) (cid : Nat) : (s.expire cid).phys = s.phys := by
  unfold State.expire
  simp

@[simp] theorem State.junkWords_phys (s : State) (n : Nat) : (s.junkWords n).2.phys = s.phys := by rfl

@[simp] theorem State.keepParts_phys (s : State) (c : Coll) (l : List CollPart) :
    (s.keepParts c l).phys = s.phys := by rfl

@[simp] theorem State.setDir_phys (s : State) (sec : Nat) (e : DirEntry) : (s.setDir sec e).phys = s.phys := by rfl

@[simp] theorem State.setLine_phys (s : State) (sec : Nat) (l : Option PodLine) :
    (s.setLine sec l).phys = s.phys := by rfl

@[simp] theorem State.snoopLine_phys (s : State) (sec kind : Nat) : (s.snoopLine sec kind).2.phys = s.phys := by
  unfold State.snoopLine
  dsimp only
  (repeat' split) <;> simp

@[simp] theorem State.markSnooped_phys (s : State) (r : DirReq) : (s.markSnooped r).phys = s.phys := by rfl

@[simp] theorem State.recall_phys (s : State) (sec : Nat) : (s.recall sec).phys = s.phys := by
  unfold State.recall
  dsimp only
  (repeat' split) <;> simp

@[simp] theorem State.setColl_phys (s : State) (c : Coll) : (s.setColl c).phys = s.phys := by rfl

@[simp] theorem State.takeContribution_phys (s : State) (c : Coll) (f : Flit) :
    (s.takeContribution c f).phys = s.phys := by
  unfold State.takeContribution
  dsimp only
  (repeat' split) <;> simp

@[simp] theorem State.lateEvict_phys (s : State) (sec owner : Nat) : (s.lateEvict sec owner).2.phys = s.phys := by
  unfold State.lateEvict
  split <;> simp

@[simp] theorem State.replyLine_phys (s : State) (sec : Nat) (ws : Option (List CW)) :
    (s.replyLine sec ws).phys = s.phys := by
  unfold State.replyLine
  split <;> simp

@[simp] theorem State.resend_phys (s : State) (f : Flit) : (s.resend f).phys = s.phys := by
  unfold State.resend
  dsimp only
  (repeat' split) <;> simp

@[simp] theorem State.reply_phys (s : State) (c : Option Cause) (body : List (BitVec 32)) :
    (s.reply c body).phys = s.phys := by
  unfold State.reply
  dsimp only
  (repeat' split) <;> simp

@[simp] theorem State.replyWords_phys (s : State) (pa n : Nat) : (s.replyWords pa n).phys = s.phys := by
  unfold State.replyWords
  dsimp only
  (repeat' split) <;> simp

@[simp] theorem State.setSlot_phys (s : State) (e : EvSlot) : (s.setSlot e).phys = s.phys := by rfl

@[simp] theorem State.failColls_phys (s : State) (a : Nat) : (s.failColls a).phys = s.phys := by rfl

@[simp] theorem State.tagSector_phys (s : State) (a pa scope : Nat) : (s.tagSector a pa scope).phys = s.phys := by rfl

@[simp] theorem State.askDirectory_phys (s : State) (a unit kind pa : Nat) (words : List CW) (mask : List Bool) :
    (s.askDirectory a unit kind pa words mask).phys = s.phys := by
  unfold State.askDirectory
  dsimp only
  (repeat' split) <;> simp

@[simp] theorem State.askWindow_phys (s : State) (a : Nat) (w : Window) (va pa : Nat) :
    (s.askWindow a w va pa).phys = s.phys := by
  unfold State.askWindow
  dsimp only
  (repeat' split) <;> simp

@[simp] theorem State.forgiveQuota_phys (s : State) : s.forgiveQuota.phys = s.phys := by
  unfold State.forgiveQuota
  refine foldl_phys (fun _ _ => ?_) _ _
  dsimp only
  (repeat' split) <;> simp

@[simp] theorem State.modAcre_phys (s : State) (k : Nat) (f : Acre → Acre) : (s.modAcre k f).phys = s.phys := by rfl

@[simp] theorem State.leaveSlots_phys (s : State) (me : Nat) : (s.leaveSlots me).phys = s.phys := by rfl

@[simp] theorem State.homeCheckReport_phys (s : State) (a pa : Nat) : (s.homeCheckReport a pa).phys = s.phys := by rfl

@[simp] theorem State.noteLanding_phys (s : State) (a : Nat) (va : Word) (pa : Nat) (old : CW) (mask : BitVec 4)
    (ep : Option Nat) : (s.noteLanding a va pa old mask ep).phys = s.phys := by
  unfold State.noteLanding
  dsimp only
  (repeat' split) <;> simp

@[simp] theorem State.miss_phys (s : State) (a unit vpn kind : Nat) : (s.miss a unit vpn kind).phys = s.phys := by
  unfold State.miss
  dsimp only
  (repeat' split) <;> simp

@[simp] theorem State.mirrorStep_phys (s : State) (c : Nat) (m : MmaF) (x : Actor) (once twice : Bool) :
    (s.mirrorStep c m x once twice).1.phys = s.phys := by
  unfold State.mirrorStep
  split <;> simp

@[simp] theorem State.holdColls_phys (s : State) (a : Nat) : (s.holdColls a).phys = s.phys := by
  unfold State.holdColls
  split
  · rfl
  · refine foldl_phys (fun t kc => ?_) _ _
    dsimp only
    (repeat' split) <;> simp

@[simp] theorem State.freeSlot_phys (s : State) (name : Nat) : (s.freeSlot name).phys = s.phys := by rfl

@[simp] theorem State.fillTlb_phys (s : State) (k : Nat) (t : Tlb) : (s.fillTlb k t).phys = s.phys := by rfl

@[simp] theorem State.engineRefused_phys (s : State) (c : Nat) (l : List Access) :
    (s.engineRefused c l).phys = s.phys := by
  unfold State.engineRefused
  split <;> simp

@[simp] theorem State.issued_phys (s : State) (pc : Word) : (s.issued pc).phys = s.phys := by
  unfold State.issued
  split <;> simp

@[simp] theorem State.freshTag_phys (s : State) (a : Nat) (t : Option Nat) : (s.freshTag a t).phys = s.phys := by
  unfold State.freshTag
  dsimp only
  (repeat' split) <;> simp

@[simp] theorem State.joinColl_phys (s : State) (b : CollBlk) (p : CollPart) :
    (s.joinColl b p).phys = s.phys := by rfl

@[simp] theorem State.stopBy_phys (s : State) (t : Word) : (s.stopBy t).phys = s.phys := by
  unfold State.stopBy
  dsimp only
  (repeat' split) <;> simp

@[simp] theorem State.dropTlbs_phys (s : State) (f : Tlb → Bool) (mode asid : Nat) :
    (s.dropTlbs f mode asid).phys = s.phys := by rfl

@[simp] theorem State.ownStore_phys (s : State) (a : Nat) (t : Tlb) (va : Word) (pa : Nat) (mask : BitVec 4)
    (data : BitVec 32) (code : BitVec 4) (unit : Nat) :
    (s.ownStore a t va pa mask data code unit).phys = s.phys := by rfl

@[simp] theorem State.draw_phys (s : State) : s.draw.2.phys = s.phys := by rfl

@[simp] theorem State.loaded_phys (s : State) (x : Area) : (s.loaded x).phys = s.phys := by rfl

@[simp] theorem State.progress_phys (s : State) (id : Nat) : (s.progress id).phys = s.phys := by
  unfold State.progress
  split <;> simp

@[simp] theorem State.setLink_phys (s : State) (n : Nat) (l : Link) : (s.setLink n l).phys = s.phys := by rfl

@[simp] theorem State.modLaunch_phys (s : State) (id : Nat) (f : Launch → Launch) :
    (s.modLaunch id f).phys = s.phys := by
  unfold State.modLaunch
  split <;> simp

@[simp] theorem State.refresh_phys (s : State) (a : Nat) : (s.refresh a).phys = s.phys := by rfl

@[simp] theorem State.raiseHub_phys (s : State) (core : Nat) (r : Raise) : (s.raiseHub core r).phys = s.phys := by rfl

@[simp] theorem State.raiseSup_phys (s : State) (c : Cause) (t0 t1 t2 : Word) :
    (s.raiseSup c t0 t1 t2).phys = s.phys := by rfl

@[simp] theorem State.restoreMasks_phys (s : State) (a : Nat) : (s.restoreMasks a).phys = s.phys := by
  unfold State.restoreMasks
  split <;> simp

@[simp] theorem State.raiseAt_phys (s : State) (a : Nat) (r : Raise) : (s.raiseAt a r).phys = s.phys := by
  unfold State.raiseAt
  dsimp only
  (repeat' split) <;> simp

@[simp] theorem State.resumeWdog_phys (s : State) (launch : Nat) : (s.resumeWdog launch).phys = s.phys := by
  unfold State.resumeWdog
  dsimp only
  (repeat' split) <;> simp

@[simp] theorem State.letGoColls_phys (s : State) (a : Nat) : (s.letGoColls a).phys = s.phys := by
  unfold State.letGoColls
  refine foldl_phys (fun _ _ => ?_) _ _
  dsimp only
  (repeat' split) <;> simp

@[simp] theorem State.setPoint_phys (s : State) (k pt : Nat) : (s.setPoint k pt).phys = s.phys := by rfl

@[simp] theorem State.trainUcie_phys (s : State) : s.trainUcie.phys = s.phys := by
  refine foldl_phys (fun t k => ?_) _ _
  split
  · rfl
  · exact foldl_phys (fun u i => by simp) _ t

@[simp] theorem State.freeCores_phys (s : State) : s.freeCores.phys = s.phys :=
  foldl_phys (fun _ _ => State.modSeqOf_phys _ _ _) _ _

@[simp] theorem State.warnStop_phys (s : State) : s.warnStop.phys = s.phys := by
  unfold State.warnStop
  split
  · rfl
  · split
    · rfl
    · simp

@[simp] theorem State.finishOp_phys (s : State) (c : Nat) (o : EngOp) : (s.finishOp c o).phys = s.phys := by rfl

@[simp] theorem State.endPart_phys (s : State) (p : CollPart) : (s.endPart p).phys = s.phys := by
  unfold State.endPart
  split <;> simp

@[simp] theorem State.answerReq_phys (s : State) (r : DirReq) (err : Option Cause) (dirty : Bool) (ws : List CW) :
    (s.answerReq r err dirty ws).phys = s.phys := by
  unfold State.answerReq
  dsimp only
  (repeat' split) <;> simp

@[simp] theorem State.needWay_phys (s : State) (r : DirReq) (ways : List (Nat × DirEntry)) :
    (s.needWay r ways).phys = s.phys := by
  unfold State.needWay
  split
  · simp
  · split <;> simp

@[simp] theorem State.sendFlits_phys (s : State) (port : Nat) : (s.sendFlits port).phys = s.phys := by rfl

@[simp] theorem State.fecFailure_phys (s : State) (port : Nat) : (s.fecFailure port).phys = s.phys := by
  unfold State.fecFailure
  dsimp only
  (repeat' split) <;> simp

@[simp] theorem State.signal_phys (s : State) (e : EvSlot) (inc : Nat) : (s.signal e inc).phys = s.phys := by rfl

@[simp] theorem State.take1_phys (s : State) (l : Launch) (node kind strandix key : Nat) :
    (s.take1 l node kind strandix key).phys = s.phys := by
  unfold State.take1
  split <;> simp

@[simp] theorem State.recFull_phys (s : State) (rcb : Nat) : (s.recFull rcb).phys = s.phys := by
  unfold State.recFull
  dsimp only
  (repeat' split) <;> simp

@[simp] theorem State.noteFault_phys (s : State) (launch : Nat) (c : BitVec 7) :
    (s.noteFault launch c).phys = s.phys := by
  unfold State.noteFault
  simp

@[simp] theorem State.failOne_phys (s : State) (c : BitVec 7) (a : Nat) : (s.failOne c a).phys = s.phys := by
  unfold State.failOne
  dsimp only
  (repeat' split) <;> simp

@[simp] theorem State.stopLaunches_phys (s : State) (c : BitVec 7) (l : List Nat) :
    (s.stopLaunches c l).phys = s.phys :=
  foldl_phys (fun t k => by simp) l s

@[simp] theorem State.dropReplies_phys (s : State) (a unit : Nat) : (s.dropReplies a unit).phys = s.phys := by rfl

@[simp] theorem State.bumpRemnants_phys (s : State) (c : Nat) : (s.bumpRemnants c).phys = s.phys := by rfl

@[simp] theorem State.vacate_phys (s : State) (c : Nat) : (s.vacate c).phys = s.phys := by rfl

@[simp] theorem State.refuseStores_phys (s : State) (a : Nat) (r : Raise) : (s.refuseStores a r).phys = s.phys := by
  unfold State.refuseStores
  simp

@[simp] theorem State.dropFaults_phys (s : State) (a unit : Nat) : (s.dropFaults a unit).phys = s.phys := by rfl

@[simp] theorem State.genFault_phys (s : State) (c g : Nat) (x : Actor) (r : Raise) (loc : Bool) :
    (s.genFault c g x r loc).phys = s.phys := by
  unfold State.genFault
  simp

@[simp] theorem State.indexReport_phys (s : State) (c g : Nat) (b : Beat) : (s.indexReport c g b).phys = s.phys := by
  unfold State.indexReport
  dsimp only
  (repeat' split) <;> simp

@[simp] theorem State.endWrite_phys (s : State) (c : Nat) (x : Actor) (port bytes : Nat) :
    (s.endWrite c x port bytes).phys = s.phys := by rfl

@[simp] theorem State.acceptTok_phys (s : State) (c port : Nat) (t : Tok) : (s.acceptTok c port t).phys = s.phys := by
  unfold State.acceptTok
  dsimp only
  (repeat' split) <;> simp

@[simp] theorem State.endGather_phys (s : State) (c : Nat) (x : Actor) (ixPort : Nat) (fin : Bool) :
    (s.endGather c x ixPort fin).phys = s.phys := by rfl

@[simp] theorem State.placeEnd_phys (s : State) (c g : Nat) (x : Actor) (port : Nat) :
    (s.placeEnd c g x port).phys = s.phys := by
  unfold State.placeEnd
  split <;> simp

@[simp] theorem State.sendBus_phys (s : State) (c sink bus : Nat) : (s.sendBus c sink bus).phys = s.phys := by
  unfold State.sendBus
  split <;> simp

@[simp] theorem State.recordFlags_phys (s : State) (a unit : Nat) (f : BitVec 5) :
    (s.recordFlags a unit f).phys = s.phys := by
  unfold State.recordFlags
  dsimp only
  (repeat' split) <;> simp

@[simp] theorem State.reportWords_phys (s : State) (c unit : Nat) (ws : List CW) :
    (s.reportWords c unit ws).phys = s.phys := by
  unfold State.reportWords
  dsimp only
  (repeat' split) <;> simp

@[simp] theorem State.setLenmis_phys (s : State) (c : Nat) : (s.setLenmis c).phys = s.phys := by rfl

theorem istepBody_phys (c : Nat) (x : Actor) (d : D) (s : State) (toks : List (List Tok)) :
    (istepBody c x d s toks).s.phys = s.phys := by
  unfold istepBody
  dsimp only
  (repeat' split) <;> simp

theorem State.takeTurn_phys (s : State) (c : Nat) (x : Actor) (ins outs : List (Nat × Nat)) (t : Turn)
    {body : State → List (List Tok) → Firing} (hb : ∀ u toks, (body u toks).s.phys = u.phys) :
    (s.takeTurn c x ins outs t body).phys = s.phys := by
  unfold State.takeTurn
  split
  · simp
  · dsimp only; split <;> simp
  · simp
  · dsimp only; split <;> simp [hb]

@[simp] theorem State.mirrorFail_phys (s : State) (c : Nat) (x : Actor) : (s.mirrorFail c x).phys = s.phys := by
  unfold State.mirrorFail
  split
  · split
    · simp
    · rfl
  · rfl

@[simp] theorem State.prediction_phys (s : State) (c : Nat) (once twice : Bool) :
    (s.prediction c once twice).phys = s.phys := by
  unfold State.prediction
  dsimp only
  (repeat' split) <;> simp

theorem fromBody_phys (c : Nat) (x : Actor) (i : V) (ins : List (Nat × Nat)) (s : State) (toks : List (List Tok)) :
    (fromBody c x i ins s toks).s.phys = s.phys := by
  unfold fromBody
  extract_lets p f src stale l v bad t
  split
  · simp
  · dsimp only [t]; split <;> simp

theorem scanBody_phys (c : Nat) (x : Actor) (i : V) (ins : List (Nat × Nat)) (s : State) (toks : List (List Tok)) :
    (scanBody c x i ins s toks).s.phys = s.phys := by
  unfold scanBody
  dsimp only
  (repeat' split) <;> simp

@[simp] theorem State.mailTo_phys (s : State) (a sender tag : Nat) (w1 w2 : Word) :
    (s.mailTo a sender tag w1 w2).phys = s.phys := by rfl

@[simp] theorem State.holdWdog_phys (s : State) (launch : Nat) : (s.holdWdog launch).phys = s.phys := by
  unfold State.holdWdog
  simp

@[simp] theorem State.clearPlots_phys (s : State) (l : Launch) : (s.clearPlots l).phys = s.phys := by
  unfold State.clearPlots
  dsimp only
  exact foldl_phys (fun t c => by simp) _ _

@[simp] theorem State.nextPhase_phys (s : State) (launch tract : Nat) : (s.nextPhase launch tract).phys = s.phys := by
  unfold State.nextPhase
  rw [State.modLaunch_phys]
  exact foldl_phys (fun t a => by simp) _ _

@[simp] theorem State.mergeTract_phys (s : State) (launch tract : Nat) :
    (s.mergeTract launch tract).phys = s.phys := by
  unfold State.mergeTract
  refine foldl_phys (fun _ _ => ?_) _ _
  dsimp only
  (repeat' split) <;> simp

@[simp] theorem State.raiseReplies_phys (s : State) (c : Nat) (bad : List (Nat × Raise)) :
    (s.raiseReplies c bad).phys = s.phys := by
  unfold State.raiseReplies
  rw [State.modSeqOf_phys]
  exact foldl_phys (fun t r => by simp) bad s

@[simp] theorem State.reportUsed_phys (s : State) (c : Nat) (o : EngOp) (used : Used) :
    (s.reportUsed c o used).phys = s.phys := by
  unfold State.reportUsed
  dsimp only
  (repeat' split) <;> simp

@[simp] theorem State.stalledAt_phys (s : State) : s.stalledAt.phys = s.phys := by rfl

@[simp] theorem State.setReg_phys (s : State) (r : BitVec 5) (v : Word) : (s.setReg r v).phys = s.phys := by
  unfold State.setReg
  split <;> simp

@[simp] theorem State.addVec_phys (s : State) (a : Actor) : (s.addVec a).phys = s.phys := by
  unfold State.addVec
  split <;> simp

@[simp] theorem State.watchAccess_phys (s : State) (va : Word) (n : Nat) (write : Bool) :
    (s.watchAccess va n write).phys = s.phys := by
  unfold State.watchAccess
  dsimp only
  (repeat' split) <;> simp

@[simp] theorem State.activate_phys (s : State) (l : Nat) : (s.activate l).phys = s.phys := by rfl

@[simp] theorem State.joinFold_phys (s : State) (c : Nat) (x : Area) : (s.joinFold c x).phys = s.phys := by rfl

@[simp] theorem State.restartWdog_phys (s : State) (launch : Nat) : (s.restartWdog launch).phys = s.phys := by
  unfold State.restartWdog
  dsimp only
  (repeat' split) <;> simp

@[simp] theorem State.disengage_phys (s : State) (c : Nat) : (s.disengage c).phys = s.phys := by rfl

@[simp] theorem State.engage_phys (s : State) (c : Nat) : (s.engage c).phys = s.phys := by rfl

@[simp] theorem State.stopRestarts_phys (s : State) (launch : Nat) : (s.stopRestarts launch).phys = s.phys := by
  unfold State.stopRestarts
  split <;> simp

@[simp] theorem State.stopFull_phys (s : State) : s.stopFull.phys = s.phys := by rfl

@[simp] theorem State.countRelease_phys (s : State) : s.countRelease.phys = s.phys := by rfl

@[simp] theorem State.countAcquire_phys (s : State) : s.countAcquire.phys = s.phys := by rfl

@[simp] theorem State.join_phys (s : State) (e : Episode) (k : Nat) : (s.join e k).phys = s.phys := by rfl

@[simp] theorem State.honour_phys (s : State) : s.honour.phys = s.phys := by
  unfold State.honour
  dsimp only
  (repeat' split) <;> simp

@[simp] theorem State.endStrand_phys (s : State) : s.endStrand.phys = s.phys := by rfl

@[simp] theorem State.noteSat_phys (s : State) : s.noteSat.phys = s.phys := by rfl

@[simp] theorem State.copyGroup_phys (s : State) (sd sa : BitVec 5) (n : Nat) : (s.copyGroup sd sa n).phys = s.phys :=
  foldl_phys (fun t i => by simp) _ s

@[simp] theorem State.acquire_phys (s : State) (a : Nat) : (s.acquire a).phys = s.phys := by rfl

@[simp] theorem State.resumeGen_phys (s : State) (a g : Nat) : (s.resumeGen a g).phys = s.phys := by
  unfold State.resumeGen
  dsimp only
  (repeat' split) <;> simp

@[simp] theorem State.trainGroup_phys (s : State) : s.trainGroup.phys = s.phys := by
  unfold State.trainGroup
  split <;> simp

@[simp] theorem State.refuseWaiting_phys (s : State) (sec : Nat) : (s.refuseWaiting sec).phys = s.phys :=
  foldl_phys (fun t r => by split <;> simp) _ s

@[simp] theorem State.tookEntry_phys (s : State) (launch kind strandix : Nat) (key : Word) :
    (s.tookEntry launch kind strandix key).phys = s.phys := by
  unfold State.tookEntry
  split <;> simp

@[simp] theorem State.failWhere_phys (s : State) (c : BitVec 7) (f : Ctx → Bool) : (s.failWhere c f).phys = s.phys :=
  (foldl_phys (fun t l => by simp) _ _).trans (foldl_phys (fun t b => by simp) _ s)

@[simp] theorem State.putContext_phys (s : State) (c : Nat) (x : Area) (run : Bool) :
    (s.putContext c x run).phys = s.phys := by rfl

@[simp] theorem State.beatDone_phys (s : State) (c g : Nat) (x : Actor) (bytes : Nat) (fin : Bool) :
    (s.beatDone c g x bytes fin).phys = s.phys := by rfl

@[simp] theorem State.markerWords_phys (s : State) (c : Nat) (err : Bool) (ws : List CW) :
    (s.markerWords c err ws).phys = s.phys := by
  unfold State.markerWords
  split <;> simp

@[simp] theorem State.retireMma_phys (s : State) (c : Nat) (x : Actor) : (s.retireMma c x).phys = s.phys := by
  unfold State.retireMma
  split <;> simp

@[simp] theorem State.takeBeat_phys (s : State) (c : Nat) (x : Actor) (m : MmaF) (a : Beat) (sc : Option Beat) :
    (s.takeBeat c x m a sc).phys = s.phys := by
  unfold State.takeBeat
  dsimp only
  (repeat' split) <;> simp

theorem fireBody_phys (c : Nat) (x : Actor) (i : V) (v : VPlan) (ins : List (Nat × Nat)) (s : State)
    (toks : List (List Tok)) : (fireBody c x i v ins s toks).s.phys = s.phys := by
  unfold fireBody
  dsimp only
  (repeat' split) <;> simp

@[simp] theorem State.failStrand_phys (s : State) (a : Nat) (c : BitVec 7) : (s.failStrand a c).phys = s.phys := by
  unfold State.failStrand
  dsimp only
  (repeat' split) <;> simp

@[simp] theorem State.pauseWdog_phys (s : State) (a : Nat) : (s.pauseWdog a).phys = s.phys := by
  unfold State.pauseWdog
  simp

@[simp] theorem State.doubleFault_phys (s : State) (r : Raise) : (s.doubleFault r).phys = s.phys := by
  unfold State.doubleFault
  dsimp only
  (repeat' split) <;> simp

@[simp] theorem State.toUser_phys (s : State) (a : Nat) : (s.toUser a).phys = s.phys :=
  (foldl_phys (fun t g => by simp) _ _).trans (s.restoreMasks_phys a)

@[simp] theorem State.failLaunch_phys (s : State) (launch : Nat) (c : Cause) :
    (s.failLaunch launch c).phys = s.phys := by
  unfold State.failLaunch
  simp

@[simp] theorem State.portMarker_phys (s : State) (c : Nat) (x : Actor) (port : Nat) (used : Beat → List CW)
    (eff : Plot → Beat → Plot × FlagSet) : (s.portMarker c x port used eff).phys = s.phys := by
  unfold State.portMarker
  dsimp only
  (repeat' split) <;> simp

@[simp] theorem State.forward_phys (s : State) (r : Raise) (boundary : Bool) (epc : Word) :
    (s.forward r boundary epc).phys = s.phys := by
  unfold State.forward
  dsimp only
  (repeat' split) <;> simp

@[simp] theorem State.returnFrom_phys (s : State) (a : Nat) : (s.returnFrom a).phys = s.phys := by
  unfold State.returnFrom
  dsimp only
  (repeat' split) <;> simp

@[simp] theorem State.diverge_phys (s : State) (launch : Nat) (tick : Word) (ix : Nat) :
    (s.diverge launch tick ix).phys = s.phys := by
  unfold State.diverge
  simp

@[simp] theorem State.takeException_phys (s : State) (r : Raise) (boundary : Bool) (epc : Word) :
    (s.takeException r boundary epc).phys = s.phys := by
  unfold State.takeException
  split
  · simp
  · split <;> simp

@[simp] theorem State.takeFault_phys (s : State) (r : Raise) : (s.takeFault r).phys = s.phys := by
  unfold State.takeFault
  dsimp only
  (repeat' split) <;> simp

@[simp] theorem State.takeAfter_phys (s : State) (r : Raise) : (s.takeAfter r).phys = s.phys := by
  unfold State.takeAfter
  split <;> simp

@[simp] theorem State.retireWith_phys (s : State) (r : Raise) : (s.retireWith r).phys = s.phys := by
  unfold State.retireWith
  dsimp only
  (repeat' split) <;> simp

@[simp] theorem State.completed_phys (s : State) (pc : Word) : (s.completed pc).phys = s.phys := by
  unfold State.completed
  dsimp only
  (repeat' split) <;> simp

@[simp] theorem State.callTo_phys (s : State) (target : Word) : (s.callTo target).phys = s.phys := by
  unfold State.callTo
  simp

@[simp] theorem State.branchTo_phys (s : State) (target : Word) : (s.branchTo target).phys = s.phys := by
  unfold State.branchTo
  simp

@[simp] theorem State.retire_phys (s : State) : s.retire.phys = s.phys := by
  unfold State.retire
  simp

@[simp] theorem State.endQuiesce_phys (s : State) (x : SC) (l st : Nat) (v : Word) :
    (s.endQuiesce x l st v).phys = s.phys := by
  unfold State.endQuiesce
  simp

@[simp] theorem State.finishAtomic_phys (s : State) (x : SM) (o : AOp) (w m : Nat) (fl : FlagSet) (va : Word) :
    (s.finishAtomic x o w m fl va).phys = s.phys := by
  unfold State.finishAtomic
  dsimp only
  (repeat' split) <;> simp

@[simp] theorem settle_leaves {s : State} (hp : s.phys.wf = true) (r : Res State) :
    Leaves (settle s r) ↔ Answers Stop.Canonical (fun t => t.phys.wf = true) r := by
  match r with
  | .ok t => rfl
  | .error (.trap x) => simp [hp]
  | .error (.stall t) => rfl

end Sys2Proof.Machine
end

section
/-! PROOF. The operations that write memory, call one that may, or answer without a state: each keeps the canonical form in every state
it answers. Of the function `f`, `f_wf` says so where the answer is a state or holds one, `f_answers` where it may be an error,
`f_some` where there may be none, `f_leaves` where it is the outcome of a step, `f_canonical` where it is a decision of the log. -/

namespace Sys2Proof.Machine

theorem State.putWindow_some (s : State) (sel n : Nat) (v : Word) (hp : s.phys.wf = true) {t : State}
    (e : s.putWindow sel n v = some t) : t.phys.wf = true := by
  revert e
  unfold State.putWindow
  extract_lets w done w'
  have set : ∀ x, done x = some t → t.phys.wf = true := fun x e => by cases e; exact hp
  split
  · split
    · exact fun e => nomatch e
    · exact set _
  · split
    · exact fun e => nomatch e
    · (repeat' split) <;> exact set _

@[simp] theorem State.appendEntry_wf (s : State) (r : Report) (count : Nat) (hp : s.phys.wf = true) :
    (s.appendEntry r count).phys.wf = true := by
  unfold State.appendEntry
  simp [hp]

@[simp] theorem State.setRcb_wf (s : State) (r off n v : Nat) (hp : s.phys.wf = true) :
    (s.setRcb r off n v).phys.wf = true := by
  unfold State.setRcb
  simp [hp]

@[simp] theorem State.lostWords_wf (s : State) (pa : Nat) (hp : s.phys.wf = true) :
    (s.lostWords pa).phys.wf = true := by
  unfold State.lostWords
  simp +contextual [hp]

@[simp] theorem State.dumpHeader_wf (s : State) (d : Dump) (hp : s.phys.wf = true) :
    (s.dumpHeader d).phys.wf = true := by
  unfold State.dumpHeader
  simp [hp]

theorem State.submitEntry_some (s : State) (c : Nat) (hp : s.phys.wf = true) {t : State} (e : s.submitEntry c = some t) :
    t.phys.wf = true := by
  revert e
  unfold State.submitEntry
  extract_lets d r
  rw [Option.ite_none_left_eq_some]
  rintro ⟨-, e⟩
  cases e
  rwa [State.modObs_phys]

@[simp] theorem State.performHidden_wf (s : State) (r : DirReq) (hp : s.phys.wf = true) :
    (s.performHidden r).phys.wf = true := by
  unfold State.performHidden
  refine Phys.foldl_wf (fun p k h => ?_) _ hp
  dsimp only
  split
  · exact h
  · exact Phys.wf_put h _ _ _

theorem State.message_leaves (s : State) (kind : Nat) (lens : List Nat) (act : Session → State) (hp : s.phys.wf = true)
    (ha : ∀ q, (act q).phys.wf = true) : Leaves (s.message kind lens act) := by
  unfold State.message; (repeat' split) <;> simp [*]

theorem State.hostQuery_leaves (s : State) (item : Nat) (act : Session → Nat → State) (hp : s.phys.wf = true)
    (ha : ∀ q n, (act q n).phys.wf = true) : Leaves (s.hostQuery item act) := by
  refine s.message_leaves _ _ _ hp fun q => ?_
  split <;> simp [*]

theorem State.hostEvent_leaves (s : State) (op : Nat) (act : Session → EvSlot → Nat → State) (hp : s.phys.wf = true)
    (ha : ∀ q e n, (act q e n).phys.wf = true) : Leaves (s.hostEvent op act) := by
  refine s.message_leaves _ _ _ hp fun q => ?_
  (repeat' split) <;> simp [*]

theorem State.appendLog_some (s : State) (l : Launch) (kind strandix : Nat) (key value : Word) (hp : s.phys.wf = true)
    {t : State} (e : s.appendLog l kind strandix key value = some t) : t.phys.wf = true := by
  unfold State.appendLog at e
  dsimp only at e
  split at e
  · cases e
  · cases e
    refine State.setRcb_wf _ _ _ _ _ ?_
    dsimp only
    exact Phys.wf_putDword (Phys.wf_putDword (Phys.wf_putDword (Phys.wf_putNum (Phys.wf_putNum hp _ _ _) _ _ _) _ _) _ _) _ _

@[simp] theorem State.putRecord_wf (s : State) (pa : Nat) (ws : List (BitVec 32)) (hp : s.phys.wf = true) :
    (s.putRecord pa ws).phys.wf = true := by
  unfold State.putRecord
  simp +contextual [hp]

@[simp] theorem State.writeRcb_wf (s : State) (a queue : Nat) (hp : s.phys.wf = true) :
    (s.writeRcb a queue).phys.wf = true := by
  have h := Phys.foldl_wf (f := fun p k => p.putDword (a + 8 * k) 0) (fun p k h => Phys.wf_putDword h _ _) (List.range 32) hp
  unfold State.writeRcb
  rw [State.modSched_phys]
  iterate 3 refine State.setRcb_wf _ _ _ _ _ ?_
  dsimp only
  exact h

@[simp] theorem State.writeDepths_wf (s : State) (q : Nat) (hp : s.phys.wf = true) :
    (s.writeDepths q).phys.wf = true :=
  foldl_wf (fun t k ht => by simp [ht]) _ hp

@[simp] theorem State.meetNode_wf (s : State) (r : Nat) (hp : s.phys.wf = true) : (s.meetNode r).phys.wf = true := by
  unfold State.meetNode
  split
  · exact hp
  · rw [State.modSched_phys]
    exact foldl_wf (fun t f ht => by simp [ht]) rcbOwn hp

@[simp] theorem State.newPeriods_wf (s : State) (r : Nat) (last : Word) (hp : s.phys.wf = true) :
    (s.newPeriods r last).phys.wf = true := by
  unfold State.newPeriods
  extract_lets g period m nj t
  have ht : t.phys.wf = true := hp
  split
  · exact hp
  · exact State.setRcb_wf _ _ _ _ _ (State.setRcb_wf _ _ _ _ _ ht)

@[simp] theorem State.present_answers (s : State) (a unit : Nat) (t : Tlb) (va : Word) (kind : Nat) :
    Answers Stop.Canonical (fun _ => True) (s.present a unit t va kind) := by
  unfold State.present
  simp

@[simp] theorem State.streamLocal_answers (s : State) (c id : Nat) (va : Word) (n : Nat) (write : Bool) :
    Answers Stop.Canonical (fun _ => True) (s.streamLocal c id va n write) := by
  unfold State.streamLocal
  split <;> simp

@[simp] theorem State.trace_wf (s : State) (a : Nat) (va : Word) (scope reason publisher : Nat) (hp : s.phys.wf = true) :
    (s.trace a va scope reason publisher).phys.wf = true := by
  unfold State.trace
  dsimp only
  split
  · exact hp
  · dsimp only
    exact Phys.wf_putDword (Phys.wf_putNum (Phys.wf_putNum (Phys.wf_putDword (Phys.wf_putDword hp _ _) _ _) _ _ _) _ _ _) _ _

@[simp] theorem State.setAreaFlags_wf (s : State) (pa f : Nat) (hp : s.phys.wf = true) :
    (s.setAreaFlags pa f).phys.wf = true := by
  unfold State.setAreaFlags
  simp [hp]

@[simp] theorem State.setDeficit_wf (s : State) (q : Nat) (d : Int) (hp : s.phys.wf = true) :
    (s.setDeficit q d).phys.wf = true := by
  unfold State.setDeficit
  simp [hp]

@[simp] theorem State.useLess_wf (s : State) (r used ulen k : Nat) (hp : s.phys.wf = true) :
    (s.useLess r used ulen k).phys.wf = true := by
  unfold State.useLess
  simp +contextual [hp]

@[simp] theorem State.useMore_wf (s : State) (r used ulen k : Nat) (hp : s.phys.wf = true) :
    (s.useMore r used ulen k).phys.wf = true := by
  unfold State.useMore
  simp +contextual [hp]

@[simp] theorem State.dropHeadlands_wf (s : State) (q : Nat) (hp : s.phys.wf = true) :
    (s.dropHeadlands q).phys.wf = true := by
  unfold State.dropHeadlands
  simp [hp]

@[simp] theorem State.firmwareFree_wf (s : State) (name : Nat) (hp : s.phys.wf = true) :
    (s.firmwareFree name).phys.wf = true := by
  unfold State.firmwareFree
  split
  · split <;> simp [hp]
  · exact hp

@[simp] theorem State.firmwareSlot_wf (s : State) (part : Nat) (hp : s.phys.wf = true) :
    (s.firmwareSlot part).phys.wf = true := by
  unfold State.firmwareSlot
  dsimp only
  (repeat' split) <;> simp [hp]

@[simp] theorem State.enterUnit_wf (s : State) (b pa : Nat) (hp : s.phys.wf = true) :
    (s.enterUnit b pa).phys.wf = true := by
  unfold State.enterUnit
  simp [hp]

@[simp] theorem State.ownNow_wf (s : State) (a pa : Nat) (ws : List CW) (hp : s.phys.wf = true) :
    (s.ownNow a pa ws).phys.wf = true := by
  unfold State.ownNow
  simp [hp]

@[simp] theorem State.datapath_answers (s : State) (word : Word) :
    Answers Stop.Canonical (fun _ => True) (s.datapath word) := by
  unfold State.datapath
  simp

@[simp] theorem State.routeCheck_answers (s : State) (word : Word) (r : Route) :
    Answers Stop.Canonical (fun _ => True) (s.routeCheck word r) := by
  unfold State.routeCheck
  simp

@[simp] theorem consumeLocal_answers (a : Nat) (ws : List CW) :
    Answers Stop.Canonical (fun _ => True) (consumeLocal a ws) := by
  unfold consumeLocal; split <;> simp

@[simp] theorem State.granules_answers (s : State) (word : Word) (stale : Bool) :
    Answers Stop.Canonical (fun _ => True) (s.granules word stale) := by
  unfold State.granules
  simp

@[simp] theorem State.localCheck_answers (s : State) (a n : Nat) :
    Answers Stop.Canonical (fun _ => True) (s.localCheck a n) := by
  unfold State.localCheck
  split
  · simp
  · split <;> simp

@[simp] theorem State.sources_answers (s : State) (word : Word) (rs : List (BitVec 5)) :
    Answers Stop.Canonical (fun _ => True) (s.sources word rs) := by
  unfold State.sources
  simp

@[simp] theorem State.intFresh_answers (s : State) (word : Word) (i : Nat) :
    Answers Stop.Canonical (fun _ => True) (s.intFresh word i) := by
  unfold State.intFresh
  simp

@[simp] theorem State.accOk_answers (s : State) (word : Word) (q : Nat) :
    Answers Stop.Canonical (fun _ => True) (s.accOk word q) := by
  unfold State.accOk
  simp

@[simp] theorem State.consume_answers (s : State) (t : Tlb) (va : Word) (pa : Nat) (ws : List CW) :
    Answers Stop.Canonical (fun _ => True) (s.consume t va pa ws) := by
  unfold State.consume
  split <;> simp

@[simp] theorem Plot.issueTag_answers (p : Plot) (word : Word) (t : Option Nat) (n : Nat) :
    Answers Stop.Canonical (fun _ => True) (p.issueTag word t n) := by
  unfold Plot.issueTag; (repeat' split) <;> simp

@[simp] theorem State.framed_answers (s : State) (f : Nat) (loc : Bool) (l : List (Word × Tlb)) :
    Answers Stop.Canonical (fun _ => True) (s.framed f loc l) := by
  unfold State.framed
  simp

@[simp] theorem State.accRead_answers (s : State) (word : Word) (q : Nat) :
    Answers Stop.Canonical (fun _ => True) (s.accRead word q) := by
  unfold State.accRead
  simp

@[simp] theorem State.stashRange_answers (s : State) (a : Word) (n : Nat) :
    Answers Stop.Canonical (fun _ => True) (s.stashRange a n) := by
  unfold State.stashRange
  simp

@[simp] theorem State.count32_answers (s : State) (word : Word) (r : BitVec 5) :
    Answers Stop.Canonical (fun _ => True) (s.count32 word r) := by
  unfold State.count32
  simp

@[simp] theorem State.privileged_answers (s : State) (word : Word) :
    Answers Stop.Canonical (fun _ => True) (s.privileged word) := by
  unfold State.privileged
  simp

@[simp] theorem State.hubOnly_answers (s : State) (word : Word) :
    Answers Stop.Canonical (fun _ => True) (s.hubOnly word) := by
  unfold State.hubOnly
  simp

@[simp] theorem State.markRelinked_wf (s : State) (es : List Relinked) (as : List Area) (folded : Bool)
    (hp : s.phys.wf = true) : (s.markRelinked es as folded).phys.wf = true := by
  refine foldl_wf (fun t ea ht => ?_) _ hp
  rw [memCanonical_iff]
  dsimp only
  exact Phys.wf_putNum (State.setAreaFlags_wf _ _ _ ht) _ _ _

theorem State.bumpPlot_some (s : State) (c : Nat) (hp : s.phys.wf = true) {t : State} (e : s.bumpPlot c = some t) :
    t.phys.wf = true := by
  revert e
  unfold State.bumpPlot
  extract_lets p regs
  rw [Option.ite_none_left_eq_some]
  rintro ⟨-, e⟩
  cases e
  rwa [State.setSeqOf_phys, State.setPlot_phys]

@[simp] theorem State.target_answers (s : State) (word v : Word) :
    Answers Stop.Canonical (fun _ => True) (s.target word v) := by
  unfold State.target
  simp

@[simp] theorem State.writeHeader_wf (s : State) (pa : Nat) (x : Area) (hp : s.phys.wf = true) :
    (s.writeHeader pa x).phys.wf = true := by
  unfold State.writeHeader
  dsimp only
  refine Phys.foldl_wf (fun p k h => Phys.wf_putDword h _ _) _ ?_
  iterate 5 refine Phys.wf_putDword ?_ _ _
  iterate 5 refine Phys.wf_putNum ?_ _ _ _
  exact hp

@[simp] theorem State.logSeed_wf (s : State) (seed : Word) (hp : s.phys.wf = true) :
    (s.logSeed seed).phys.wf = true := by
  unfold State.logSeed
  dsimp only
  exact Phys.wf_putDword (Phys.wf_putDword (Phys.wf_putDword (Phys.wf_putDword hp _ _) _ _) _ _) _ _

@[simp] theorem State.slotNamed_answers (s : State) (v : Word) :
    Answers Stop.Canonical (fun _ => True) (s.slotNamed v) := by
  unfold State.slotNamed
  split <;> simp

theorem State.openEpisode_some (s : State) (scope k : Nat) (hp : s.phys.wf = true) {t : State}
    (e : s.openEpisode scope k = some t) : t.phys.wf = true := by
  unfold State.openEpisode at e
  dsimp only at e
  (repeat' split at e) <;> cases e <;> simp [hp]

@[simp] theorem State.tagSources_answers (s : State) (word : Word) (x : SC) :
    Answers Stop.Canonical (fun _ => True) (s.tagSources word x) := by
  unfold State.tagSources
  simp

@[simp] theorem State.writeLocal_answers (s : State) (a n : Nat) (v : Word) (hp : s.phys.wf = true) :
    Answers Stop.Canonical (fun t => t.phys.wf = true) (s.writeLocal a n v) := by
  unfold State.writeLocal
  simp [hp]

@[simp] theorem State.readLocal_answers (s : State) (word : Word) (a n : Nat) :
    Answers Stop.Canonical (fun _ => True) (s.readLocal word a n) := by
  unfold State.readLocal
  rw [answers_bind_calm (s.localCheck_answers a n)]
  intros
  rw [answers_bind_calm (s.granules_answers word _)]
  intros
  rw [answers_bind_calm (consumeLocal_answers a _)]
  exact fun _ _ => trivial

@[simp] theorem State.loseSector_wf (s : State) (alt : Bool) (pa : Nat) (hp : s.phys.wf = true) :
    (s.loseSector alt pa).phys.wf = true := by
  unfold State.loseSector
  dsimp only
  (repeat' split) <;> simp +contextual [hp]

@[simp] theorem State.takeReport_wf (s : State) (hp : s.phys.wf = true) : s.takeReport.phys.wf = true := by
  unfold State.takeReport
  dsimp only
  (repeat' split) <;> simp [hp]

@[simp] theorem State.buildRoot_wf (s : State) (hp : s.phys.wf = true) : s.buildRoot.phys.wf = true := by
  unfold State.buildRoot
  rw [State.modSched_phys]
  exact foldl_wf (fun t _ ht => by simp [ht]) _ (foldl_wf (fun t _ ht => by simp [ht]) _ hp)

@[simp] theorem State.chargePath_wf (s : State) (node nj : Nat) (hp : s.phys.wf = true) :
    (s.chargePath node nj).phys.wf = true := by
  unfold State.chargePath
  extract_lets path used t
  have ht : t.phys.wf = true := foldl_wf (fun u r hu => by dsimp only; split <;> simp [hu]) _ hp
  split <;> simp [ht]

theorem State.journalStore_some (s : State) (a pa : Nat) (v : Word) (hp : s.phys.wf = true) {t : State}
    (e : s.journalStore a pa v = some t) : t.phys.wf = true := by
  have hq : (s.setPlain pa v).phys.wf = true := by simpa
  revert e
  unfold State.journalStore
  dsimp only
  split
  · exact fun e => nomatch e
  · split
    · exact fun e => State.submitEntry_some _ _ hq e
    · exact fun e => Option.some.inj e ▸ hq

theorem State.flitIn_leaves (s : State) (typ : Nat) (act : State → Flit → State) (hp : s.phys.wf = true)
    (ha : ∀ t f, t.phys.wf = true → (act t f).phys.wf = true) : Leaves (s.flitIn typ act) := by
  unfold State.flitIn; dsimp only
  (repeat' split) <;> simp [*]

@[simp] theorem State.meet_wf (s : State) (q : Nat) (hp : s.phys.wf = true) : (s.meet q).phys.wf = true := by
  unfold State.meet
  simp +contextual [hp]

@[simp] theorem State.chargeSample_wf (s : State) (acre nj : Nat) (hp : s.phys.wf = true) :
    (s.chargeSample acre nj).phys.wf = true := by
  unfold State.chargeSample
  split <;> simp +contextual [hp]

@[simp] theorem State.translate_answers (s : State) (a unit : Nat) (va : Word) (kind : Nat) (hp : s.phys.wf = true) :
    Answers Stop.Canonical (fun _ => True) (s.translate a unit va kind) := by
  unfold State.translate
  dsimp only
  (repeat' split) <;> simp [hp]

@[simp] theorem State.scopeCheck_wf (s : State) (a : Nat) (va : Word) (pa : Nat) (hp : s.phys.wf = true) :
    (s.scopeCheck a va pa).phys.wf = true := by
  unfold State.scopeCheck
  dsimp only
  (repeat' split) <;> simp [hp]

theorem State.fireBits_some (s : State) (c : Nat) (x : Actor) (ins outs : List (Nat × Nat)) (hp : s.phys.wf = true)
    {t : State} (e : s.fireBits c x ins outs = some t) : t.phys.wf = true := by
  revert e
  unfold State.fireBits
  split <;> intro e <;> cases e
  rwa [State.takeTurn_phys]
  exact fun _ _ => rfl

theorem State.fireMerge_some (s : State) (c : Nat) (x : Actor) (i : V) (hp : s.phys.wf = true) {t : State}
    (e : s.fireMerge c x i = some t) : t.phys.wf = true := by
  revert e
  unfold State.fireMerge
  extract_lets p
  split
  · exact fun e => nomatch e
  · extract_lets sel ins
    split <;> intro e <;> cases e
    rwa [State.takeTurn_phys]
    exact fun _ _ => rfl

theorem State.fireSteer_some (s : State) (c : Nat) (x : Actor) (i : V) (hp : s.phys.wf = true) {t : State}
    (e : s.fireSteer c x i = some t) : t.phys.wf = true := by
  revert e
  unfold State.fireSteer
  dsimp only
  split <;> intro e <;> cases e
  rw [State.takeTurn_phys]
  · exact hp
  · exact fun _ _ => rfl

theorem State.fireTos_some (s : State) (c : Nat) (x : Actor) (i : V) (hp : s.phys.wf = true) {t : State}
    (e : s.fireTos c x i = some t) : t.phys.wf = true := by
  revert e
  unfold State.fireTos
  dsimp only
  (repeat' split) <;> intro e <;> cases e <;> simp [hp]

@[simp] theorem State.giveBack_wf (s : State) (l : Launch) (hp : s.phys.wf = true) :
    (s.giveBack l).phys.wf = true := by
  unfold State.giveBack
  extract_lets s1 mine s2 s3 group ends eps s4
  have h2 : s2.phys.wf = true := State.useLess_wf _ _ _ _ _ (State.useLess_wf _ _ _ _ _ (State.useLess_wf _ _ _ _ _ hp))
  have h3 : s3.phys.wf = true := foldl_wf (fun t ke ht => by simp [ht]) mine h2
  have h4 : s4.phys.wf = true := foldl_wf (fun t e ht => by split <;> simp [ht]) eps h3
  exact h4

@[simp] theorem State.chargePlots_wf (s : State) (queue plots stash : Nat) (hp : s.phys.wf = true) :
    (s.chargePlots queue plots stash).phys.wf = true := by
  unfold State.chargePlots
  simp [hp]

@[simp] theorem State.makeFlip_wf (s : State) (i : Nat) (f : Flip) (hp : s.phys.wf = true) :
    (s.makeFlip i f).phys.wf = true := by
  unfold State.makeFlip
  dsimp only
  (repeat' split) <;> simp +contextual [hp]

@[simp] theorem State.cfgEntry_answers (s : State) (word : Word) (kind n : Nat) (d : Nat → Word) (p : Plot) :
    Answers Stop.Canonical (fun _ => True) (s.cfgEntry word kind n d p) := by
  unfold State.cfgEntry
  dsimp only
  (repeat' split) <;> simp

@[simp] theorem State.mapM_translate_answers {α : Type} (s : State) (a unit kind : Nat) (f : α → Word) (l : List α)
    (hp : s.phys.wf = true) :
    Answers Stop.Canonical (fun _ => True) (l.mapM fun x => s.translate a unit (f x) kind) :=
  answers_mapM (fun x => s.translate_answers a unit (f x) kind hp) l

@[simp] theorem State.reachPages_answers (s : State) (a : Word) (n kind : Nat) (pubBad : Bool) (hp : s.phys.wf = true) :
    Answers Stop.Canonical (fun _ => True) (s.reachPages a n kind pubBad) := by
  unfold State.reachPages
  refine (answers_mapM (fun va => s.translate_answers _ _ va _ hp) _).bind fun ts _ => ?_
  extract_lets pairs
  obtain ⟨l, hl⟩ : ∃ l, l = pairs := ⟨_, rfl⟩
  rw [← hl]
  split
  · exact answers_trap _ _ _ _
  · split <;> simp

@[simp] theorem State.tilePages_answers (s : State) (l : List Word) (kind : Nat) (hp : s.phys.wf = true) :
    Answers Stop.Canonical (fun _ => True) (s.tilePages l kind) :=
  answers_mapM (fun va => by simp [hp]) l

@[simp] theorem State.mmaChecks_answers (s : State) (word : Word) (m : MmaF) (k : Nat) :
    Answers Stop.Canonical (fun _ => True) (s.mmaChecks word m k) := by
  unfold State.mmaChecks
  simp

@[simp] theorem State.collPages_answers (s : State) (a : Word) (n kind : Nat) (hp : s.phys.wf = true) :
    Answers Stop.Canonical (fun _ => True) (s.collPages a n kind) := by
  unfold State.collPages
  split
  · simp
  · exact answers_mapM (fun va => by simp [hp]) _

@[simp] theorem State.descCheck_answers (s : State) (word : Word) (d : TileDesc) (strict write : Bool) (ok : Nat → Bool)
    (hp : s.phys.wf = true) : Answers Stop.Canonical (fun _ => True) (s.descCheck word d strict write ok) := by
  unfold State.descCheck
  simp only [answers_bind_calm, answers_need]
  intro _ _ _ _ _ _
  split
  · split <;> simp
  · simp [hp]

@[simp] theorem State.copyRange_answers (s : State) (loc : Bool) (a : Word) (n kind : Nat) (hp : s.phys.wf = true) :
    Answers Stop.Canonical (fun _ => True) (s.copyRange loc a n kind) := by
  unfold State.copyRange
  simp [hp]

@[simp] theorem State.tileSource_answers (s : State) (word : Word) (x : D) (d : TileDesc) (ok : Nat → Bool) :
    Answers Stop.Canonical (fun _ => True) (s.tileSource word x d ok) := by
  unfold State.tileSource
  simp

@[simp] theorem State.storeCW_answers (s : State) (va : Word) (w : CW) (hp : s.phys.wf = true) :
    Answers Stop.Canonical (fun t => t.phys.wf = true) (s.storeCW va w) := by
  unfold State.storeCW
  simp [hp]

@[simp] theorem State.retract_wf (s : State) (l : Launch) (k : Nat) (ts : List Tract) (hp : s.phys.wf = true) :
    (s.retract l k ts).phys.wf = true := by
  unfold State.retract
  simp [hp]

@[simp] theorem State.areaPa_answers (s : State) (a : Word) (kind : Nat) (hp : s.phys.wf = true) :
    Answers Stop.Canonical (fun _ => True) (s.areaPa a kind) := by
  unfold State.areaPa
  simp [hp]

@[simp] theorem State.reachGlobal_answers (s : State) (va : Word) (kind : Nat) (pubBad : Bool) (hp : s.phys.wf = true) :
    Answers Stop.Canonical (fun _ => True) (s.reachGlobal va kind pubBad) := by
  unfold State.reachGlobal
  simp [hp]

@[simp] theorem State.reachGroup_answers (s : State) (va : Word) (n kind : Nat) (pubBad : Bool) (hp : s.phys.wf = true) :
    Answers Stop.Canonical (fun _ => True) (s.reachGroup va n kind pubBad) := by
  unfold State.reachGroup
  refine (s.mapM_translate_answers _ _ _ _ _ hp).bind fun ts _ => ?_
  extract_lets pas
  split
  · exact s.present_answers _ _ _ _ _
  · split <;> simp

@[simp] theorem State.upset_wf (s : State) (hp : s.phys.wf = true) : s.upset.phys.wf = true := by
  unfold State.upset
  dsimp only
  (repeat' split) <;> simp [hp]

theorem State.putSpecial_some (s : State) (a n : Nat) (v : Word) (hp : s.phys.wf = true) {t : State}
    (e : s.putSpecial a n v = some t) : t.phys.wf = true := by
  revert e
  unfold State.putSpecial
  split
  · intro e; cases e; simp [hp]
  · split
    · exact fun e => nomatch e
    · split
      · exact fun e => State.putWindow_some _ _ _ _ hp e
      · split <;> intro e <;> cases e <;> simp [hp]

@[simp] theorem State.flushJournal_wf (s : State) (hp : s.phys.wf = true) : s.flushJournal.phys.wf = true := by
  unfold State.flushJournal
  simp +contextual [hp]

@[simp] theorem State.charge_wf (s : State) (launch nj : Nat) (hp : s.phys.wf = true) :
    (s.charge launch nj).phys.wf = true := by
  unfold State.charge
  split
  · (repeat' split) <;> simp [hp]
  · refine State.chargePath_wf _ _ _ ?_
    split <;> simp [hp]

@[simp] theorem State.writeBack_wf (s : State) (pa : Nat) (podc : Bool) (hp : s.phys.wf = true) :
    (s.writeBack pa podc).phys.wf = true := by
  unfold State.writeBack
  dsimp only
  (repeat' split) <;> simp [hp]

theorem State.hubStore_some (s : State) (a pa : Nat) (v : Word) (hp : s.phys.wf = true) {t : State}
    (e : s.hubStore a pa v = some t) : t.phys.wf = true := by
  revert e
  unfold State.hubStore
  split
  · exact fun e => State.journalStore_some _ _ _ _ hp e
  · (repeat' split) <;> intro e <;> cases e <;> simp [hp]

@[simp] theorem State.podReady_answers (s : State) (a unit : Nat) (x : Access) (hp : s.phys.wf = true) :
    Answers Stop.Canonical (fun t => t.phys.wf = true) (s.podReady a unit x) := by
  unfold State.podReady
  dsimp only
  (repeat' split) <;> simp [hp]

@[simp] theorem State.sampleAcre_wf (s : State) (k : Nat) (hp : s.phys.wf = true) :
    (s.sampleAcre k).phys.wf = true := by
  unfold State.sampleAcre
  simp [hp]

@[simp] theorem State.hubFetch_answers (s : State) (hp : s.phys.wf = true) :
    Answers Stop.Canonical (fun _ => True) s.hubFetch := by
  have h := s.translate_answers s.cur 0 (s.seq.codeBase + s.seq.pc) 2 hp
  unfold State.hubFetch
  dsimp only
  split
  · split <;> simp
  · simp
  · exact h.of_error ‹_›

theorem State.stopBeat_wf (s : State) (c g : Nat) (x : Actor) (loc : Bool) (e : Stop) (hp : s.phys.wf = true)
    (he : e.Canonical) : (s.stopBeat c g x loc e).phys.wf = true := by
  cases e with
  | trap r => simpa [State.stopBeat] using hp
  | stall t => simpa [State.stopBeat] using he

theorem State.fireFrom_some (s : State) (c : Nat) (x : Actor) (i : V) (hp : s.phys.wf = true) {t : State}
    (e : s.fireFrom c x i = some t) : t.phys.wf = true := by
  revert e
  unfold State.fireFrom
  extract_lets p ins outs
  split
  · exact fun e => nomatch e
  · rw [Option.ite_none_left_eq_some]
    rintro ⟨-, e⟩
    cases e
    rwa [State.takeTurn_phys _ _ _ _ _ _ (fromBody_phys c x i _)]

theorem State.fireScan_some (s : State) (c : Nat) (x : Actor) (i : V) (hp : s.phys.wf = true) {t : State}
    (e : s.fireScan c x i = some t) : t.phys.wf = true := by
  revert e
  unfold State.fireScan
  extract_lets p v ports ins
  split
  · exact fun e => nomatch e
  · extract_lets again
    split <;> intro e <;> cases e
    rwa [State.takeTurn_phys _ _ _ _ _ _ (scanBody_phys c x i _)]

@[simp] theorem State.sampleTracts_wf (s : State) (l : List Tract) (hp : s.phys.wf = true) :
    (s.sampleTracts l).phys.wf = true := by
  unfold State.sampleTracts
  simp +contextual [hp]

@[simp] theorem State.start_wf (s : State) (l : Launch) (x : Nat × ImgMap × Nat × List Tract × Bool)
    (full : List (Nat × Nat)) (p : Nat) (hp : s.phys.wf = true) : (s.start l x full p).phys.wf = true := by
  obtain ⟨k, m, stash, ts, warm⟩ := x
  unfold State.start
  dsimp -zeta only
  extract_lets s1 held s2 n s3 head s4 s5 s6
  have h2 : MemCanonical s2 := by unfold s2 s1; simp [hp]
  have h4 : MemCanonical s4 := by
    unfold s4 s3
    exact State.setRcb_wf _ _ _ _ _ (State.setRcb_wf _ _ _ _ _ h2)
  clear_value s4
  have h5 : MemCanonical s5 := by
    unfold s5
    split
    · exact State.setRcb_wf _ _ _ _ _ h4
    · exact h4
  clear_value s5
  rwa [State.modSched_phys, State.modLaunch_phys]

@[simp] theorem State.completeEpisode_wf (s : State) (e : Episode) (hp : s.phys.wf = true) :
    (s.completeEpisode e).phys.wf = true := by
  unfold State.completeEpisode
  extract_lets t seqs areas u v
  have hv : v.phys.wf = true := by
    unfold v
    rw [State.modSched_phys]
    exact foldl_wf (fun t lt ht => by simp [ht]) _ hp
  split <;> simp [hv]

@[simp] theorem State.bankRoom_answers (s : State) (hp : s.phys.wf = true) :
    Answers Stop.Canonical (fun _ => True) s.bankRoom := by
  unfold State.bankRoom
  simp [hp]

@[simp] theorem State.markerRoom_answers (s : State) (hp : s.phys.wf = true) :
    Answers Stop.Canonical (fun _ => True) s.markerRoom := by
  unfold State.markerRoom
  simp [hp]

@[simp] theorem State.issueOp_answers (s : State) (word : Word) (o : EngOp) (p : Plot) (hp : s.phys.wf = true) :
    Answers Stop.Canonical (fun t => t.phys.wf = true) (s.issueOp word o p) := by
  unfold State.issueOp
  simp [hp]

@[simp] theorem State.imageCheck_answers (s : State) (word : Word) (loc : Bool) (a : Word) (len : Nat)
    (hp : s.phys.wf = true) : Answers Stop.Canonical (fun _ => True) (s.imageCheck word loc a len) := by
  unfold State.imageCheck
  dsimp only
  (repeat' split) <;> simp [hp]

@[simp] theorem State.needSlot_answers (s : State) (word : Word) (q id : Nat) (hp : s.phys.wf = true) :
    Answers Stop.Canonical (fun _ => True) (s.needSlot word q id) := by
  unfold State.needSlot
  split <;> simp [hp]

@[simp] theorem State.vecActor_answers (s : State) (word : Word) (i : Instr) (x : V) (once : Bool)
    (hp : s.phys.wf = true) : Answers Stop.Canonical (fun _ => True) (s.vecActor word i x once) := by
  unfold State.vecActor
  simp [hp]

@[simp] theorem State.lnkctl_answers (s : State) (word : Word) (x : SC) (admitted : Nat → Bool) (hp : s.phys.wf = true) :
    Answers Stop.Canonical (fun r => r.2.phys.wf = true) (s.lnkctl word x admitted) := by
  unfold State.lnkctl
  split <;> simp [hp]

@[simp] theorem State.releaseAt_answers (s : State) (scope : Nat) (ep : Option Nat) (hp : s.phys.wf = true) :
    Answers Stop.Canonical (fun t => t.phys.wf = true) (s.releaseAt scope ep) := by
  unfold State.releaseAt
  simp [hp]

@[simp] theorem State.arriveAt_answers (s : State) (x : SC) (e : Episode) (k : Nat) (hp : s.phys.wf = true) :
    Answers Stop.Canonical (fun r => r.1.phys.wf = true) (s.arriveAt x e k) := by
  unfold State.arriveAt
  simp [hp]

@[simp] theorem State.awaitBarrier_answers (s : State) (word : Word) (scope k : Nat) (hp : s.phys.wf = true) :
    Answers Stop.Canonical (fun t => t.phys.wf = true) (s.awaitBarrier word scope k) := by
  unfold State.awaitBarrier
  split <;> simp [hp]

@[simp] theorem State.writeHub_answers (s : State) (va : Word) (pa n : Nat) (v : Word) (hp : s.phys.wf = true) :
    Answers Stop.Canonical (fun t => t.phys.wf = true) (s.writeHub va pa n v) := by
  unfold State.writeHub
  split
  · simp
  · dsimp only
    split
    · exact State.hubStore_some _ _ _ _ hp ‹_›
    · simp

@[simp] theorem State.flipsDue_wf (n : Nat) (s : State) (hp : s.phys.wf = true) :
    (State.flipsDue n s).phys.wf = true := by
  induction n generalizing s with
  | zero => exact hp
  | succ n ih =>
    unfold State.flipsDue
    split
    · exact hp
    · exact ih _ (s.makeFlip_wf _ _ hp)

@[simp] theorem State.samplesDue_wf (s : State) (hp : s.phys.wf = true) : s.samplesDue.phys.wf = true :=
  foldl_wf (fun t ka ht => by split <;> simp [ht]) s.acres hp

@[simp] theorem State.putRaw_wf (s : State) (a item i : Nat) (v : Word) (hp : s.phys.wf = true) :
    (s.putRaw a item i v).phys.wf = true := by
  unfold State.putRaw
  dsimp only
  split
  case h_7 => exact getD_wf hp fun t e => State.putSpecial_some _ _ _ _ hp e
  all_goals (repeat' split) <;> simp [hp]

@[simp] theorem State.fillSector_wf (s : State) (l pa : Nat) (podc : Bool) (hp : s.phys.wf = true) :
    (s.fillSector l pa podc).phys.wf = true := by
  unfold State.fillSector
  dsimp only
  (repeat' split) <;> simp [hp]

@[simp] theorem State.dropSector_wf (s : State) (pa : Nat) (hp : s.phys.wf = true) :
    (s.dropSector pa).phys.wf = true := by
  unfold State.dropSector
  simp [hp]

@[simp] theorem State.reach_answers (s : State) (a unit : Nat) (x : Access) (hp : s.phys.wf = true) :
    Answers Stop.Canonical (fun t => t.phys.wf = true) (s.reach a unit x) := by
  unfold State.reach
  dsimp only
  (repeat' split) <;> simp [hp]

@[simp] theorem State.askAll_wf (s : State) (a unit : Nat) (l : List Access) (hp : s.phys.wf = true) :
    (s.askAll a unit l).1.phys.wf = true := by
  refine foldl_keeps (fun w : State × Bool => w.1.phys.wf = true) _ (fun w x hw => ?_) l _ hp
  have h := w.1.reach_answers a unit x hw
  split
  · exact hw
  · split
    · exact h.of_error ‹_›
    · exact hw

@[simp] theorem State.quotaBoundary_wf (s : State) (hp : s.phys.wf = true) : s.quotaBoundary.phys.wf = true := by
  unfold State.quotaBoundary
  rw [State.modSched_phys]
  split
  · rw [State.forgiveQuota_phys]
    exact foldl_wf (fun t kw ht => by simp [ht]) _ (foldl_wf (fun t ka ht => by simp [ht]) _ hp)
  · exact hp

@[simp] theorem State.fetch_answers (s : State) (hp : s.phys.wf = true) :
    Answers Stop.Canonical (fun _ => True) s.fetch := by
  unfold State.fetch
  simp [hp]

theorem State.firePlan_some (s : State) (c : Nat) (x : Actor) (i : V) (v : VPlan) (hp : s.phys.wf = true) {t : State}
    (e : s.firePlan c x i v = some t) : t.phys.wf = true := by
  revert e
  unfold State.firePlan
  extract_lets p ports ins
  split
  · exact fun e => nomatch e
  · extract_lets again
    split <;> intro e <;> cases e
    rwa [State.takeTurn_phys _ _ _ _ _ _ (fireBody_phys c x i v _)]

@[simp] theorem State.loseSave_wf (s : State) (l : Launch) (hp : s.phys.wf = true) :
    (s.loseSave l).phys.wf = true := by
  unfold State.loseSave
  simp +contextual [hp]

@[simp] theorem State.retireLaunch_wf (s : State) (l : Launch) (hp : s.phys.wf = true) :
    (s.retireLaunch l).phys.wf = true := by
  unfold State.retireLaunch
  extract_lets plots us s1 s2 s3 s4
  have h2 : s2.phys.wf = true := Phys.wf_putDword (s.sampleTracts_wf _ hp) _ _
  have h3 : s3.phys.wf = true := s2.giveBack_wf l h2
  simp [s4, h3]

@[simp] theorem State.cfgEntries_answers (s : State) (word : Word) (kind first size : Nat) (d : Nat → Word) (p : Plot)
    (n : Nat) : Answers Stop.Canonical (fun _ => True) (s.cfgEntries word kind first size d p n) := by
  induction n with
  | zero => simp [State.cfgEntries]
  | succ k ih => simp [State.cfgEntries, ih]

@[simp] theorem State.storeSpan_answers (s : State) (a : Word) (l : List CW) (k : Nat) (hp : s.phys.wf = true) :
    Answers Stop.Canonical (fun t => t.phys.wf = true) (s.storeSpan a l k) := by
  induction l generalizing s k with
  | nil => exact hp
  | cons w l ih =>
    unfold State.storeSpan
    rw [answers_bind_state (s.storeCW_answers _ _ hp)]
    exact fun t _ ht => ih t _ ht

@[simp] theorem State.relinkAreas_answers (s : State) (word : Word) (ws : List CW) (n : Nat) (hp : s.phys.wf = true) :
    Answers Stop.Canonical (fun _ => True) (s.relinkAreas word ws n) := by
  induction n with
  | zero => simp [State.relinkAreas]
  | succ n ih =>
    simp only [State.relinkAreas, answers_bind_calm, ih, answers_need, State.areaPa_answers, hp]
    intros
    split <;> simp

@[simp] theorem State.evict_wf (s : State) (sec : Nat) (hp : s.phys.wf = true) : (s.evict sec).phys.wf = true := by
  unfold State.evict
  split <;> simp [hp]

@[simp] theorem State.quotasDue_wf (s : State) (before : Word) (hp : s.phys.wf = true) :
    (s.quotasDue before).phys.wf = true := by
  unfold State.quotasDue
  split <;> simp [hp]

@[simp] theorem State.touch_wf (s : State) (a pa : Nat) (podc unc write : Bool) (hp : s.phys.wf = true) :
    (s.touch a pa podc unc write).phys.wf = true := by
  unfold State.touch
  dsimp only
  (repeat' split) <;> simp [hp]

@[simp] theorem State.scaleStore_wf (s : State) (pa : Nat) (hp : s.phys.wf = true) :
    (s.scaleStore pa).phys.wf = true := by
  refine foldl_wf (fun t kw ht => ?_) _ hp
  dsimp only
  split
  · exact foldl_wf (fun u k hu => by split <;> simp [hu]) _ ht
  · exact ht

theorem State.fireVec_some (s : State) (c : Nat) (x : Actor) (hp : s.phys.wf = true) {t : State}
    (e : s.fireVec c x = some t) : t.phys.wf = true := by
  revert e
  unfold State.fireVec
  dsimp only
  split
  · exact fun e => nomatch e
  · split
    · exact fun e => nomatch e
    · intro e
      split at e
      · exact State.fireScan_some _ _ _ _ hp e
      · exact State.fireTos_some _ _ _ _ hp e
      · exact State.fireSteer_some _ _ _ _ hp e
      · exact State.fireMerge_some _ _ _ _ hp e
      · exact State.fireFrom_some _ _ _ _ hp e
      · exact State.fireBits_some _ _ _ _ _ hp e
      · exact State.fireBits_some _ _ _ _ _ hp e
      · exact State.fireBits_some _ _ _ _ _ hp e
      · exact State.fireBits_some _ _ _ _ _ hp e
      · exact State.fireBits_some _ _ _ _ _ hp e
      all_goals exact State.firePlan_some _ _ _ _ _ hp e

@[simp] theorem State.tick_wf (s : State) (n : Nat) (hp : s.phys.wf = true) : (s.tick n).phys.wf = true := by
  unfold State.tick
  simp [hp]

@[simp] theorem State.touchAt_wf (s : State) (a : Nat) (va : Word) (pa : Nat) (podc unc write : Bool)
    (hp : s.phys.wf = true) : (s.touchAt a va pa podc unc write).phys.wf = true := by
  unfold State.touchAt
  split <;> simp [hp]

@[simp] theorem State.putMemory_wf (s : State) (pa : Nat) (cw : CW) (hp : s.phys.wf = true) :
    (s.putMemory pa cw).phys.wf = true := by
  unfold State.putMemory
  dsimp only
  (repeat' split) <;> simp [hp]

@[simp] theorem State.engineWord_wf (s : State) (a : Nat) (t : Tlb) (va : Word) (pa : Nat) (w : CW) (mask : BitVec 4)
    (by_ : Writer) (hp : s.phys.wf = true) : (s.engineWord a t va pa w mask by_).phys.wf = true := by
  unfold State.engineWord
  dsimp only
  (repeat' split) <;> simp [hp]

@[simp] theorem State.writeSectorWords_wf (s : State) (pa : Nat) (ws : List CW) (hp : s.phys.wf = true) :
    (s.writeSectorWords pa ws).phys.wf = true := by
  unfold State.writeSectorWords
  simp +contextual [hp]

@[simp] theorem State.performWord_wf (s : State) (pa : Nat) (cw : CW) (m : BitVec 4) (hp : s.phys.wf = true) :
    (s.performWord pa cw m).phys.wf = true := by
  unfold State.performWord
  simp [hp]

@[simp] theorem State.performAdds_wf (s : State) (r : DirReq) (hp : s.phys.wf = true) :
    (s.performAdds r).1.phys.wf = true :=
  foldl_wf (fun t k ht => by dsimp only; split <;> simp [ht]) _ hp

@[simp] theorem State.performAtomic_wf (s : State) (r : DirReq) (hp : s.phys.wf = true) :
    (s.performAtomic r).2.phys.wf = true := by
  unfold State.performAtomic
  dsimp only
  (repeat' split) <;> simp +contextual [hp]

@[simp] theorem State.decide_canonical (s : State) (launch kind strandix : Nat) (key value : Word)
    (hp : s.phys.wf = true) : (s.decide launch kind strandix key value).Canonical := by
  unfold State.decide
  (repeat' split) <;> simp [hp]
  exact State.appendLog_some _ _ _ _ _ _ hp ‹_›

@[simp] theorem State.writeSector_wf (s : State) (w : WinSector) (hp : s.phys.wf = true) :
    (s.writeSector w).phys.wf = true := by
  unfold State.writeSector
  split
  · rw [State.poisonBit_phys]
    exact State.charge_wf _ _ _ (foldl_wf (fun t k ht => by simp [ht]) _ hp)
  · exact hp

@[simp] theorem State.closeWindows_wf (s : State) (a : Nat) (hp : s.phys.wf = true) :
    (s.closeWindows a).phys.wf = true := by
  unfold State.closeWindows
  extract_lets mine s1 s2
  have h1 : s1.phys.wf = true := foldl_wf (fun t w ht => foldl_wf (fun u kx hu => by simp [hu]) _ ht) _ hp
  have h2 : s2.phys.wf = true := by dsimp only [s2]; split <;> simp [h1]
  exact h2

theorem State.logPlacement_some (s : State) (l : Launch) (ts : List Tract) (hp : s.phys.wf = true) {t : State}
    (e : s.logPlacement l ts = some t) : t.phys.wf = true := by
  refine foldl_keeps (fun o : Option State => ∀ t, o = some t → t.phys.wf = true) _
    (fun o k ho => ?_) (List.range ts.length) (some s)
    (fun t e => Option.some.inj e ▸ hp) t e
  cases o with
  | none => exact fun t e => nomatch e
  | some u =>
    have hu : u.phys.wf = true := ho u rfl
    dsimp only
    split <;> rename_i e <;> intro t e' <;> cases e'
    · exact (decision_free _).1 (e ▸ u.decide_canonical _ _ _ _ _ hu)
    · rw [State.tookEntry_phys]
      exact (decision_forced _ _).1 (e ▸ u.decide_canonical _ _ _ _ _ hu)

@[simp] theorem State.leaveBank_wf (s : State) (k : Nat) (all : Bool) (w : Window) (hp : s.phys.wf = true) :
    (s.leaveBank k all w).phys.wf = true := by
  unfold State.leaveBank
  simp +contextual [hp]

@[simp] theorem State.engineTouch_wf (s : State) (c : Nat) (l : List Access) (hp : s.phys.wf = true) :
    (s.engineTouch c l).phys.wf = true :=
  foldl_wf (fun t x ht => by split <;> simp [ht]) l hp

@[simp] theorem State.readWords_answers (s : State) (t : Tlb) (va : Word) (n : Nat) (current : Bool)
    (hp : s.phys.wf = true) :
    Answers Stop.Canonical (fun r => r.2.phys.wf = true) (s.readWords t va n current) := by
  unfold State.readWords
  extract_lets pa
  rw [answers_bind_state (s.reach_answers _ _ _ hp)]
  intro u _ hu
  split
  · simp [hu]
  · extract_lets v ws
    have hv : v.phys.wf = true := by simp [v, hu]
    rw [answers_pure]
    split <;> simp [hv]

@[simp] theorem State.strandDecision_answers (s : State) (kind : Nat) (value key : Word) (hp : s.phys.wf = true) :
    Answers Stop.Canonical (fun r => r.1.phys.wf = true) (s.strandDecision kind value key) := by
  have h := s.decide_canonical s.seq.ctx.launch kind s.seq.ctx.strandix key value hp
  unfold State.strandDecision
  dsimp only
  split <;> rename_i e <;> rw [e] at h <;> simpa using h

@[simp] theorem State.reserveLaunch_answers (s : State) (word : Word) (x : SC) (hp : s.phys.wf = true) :
    Answers Stop.Canonical (fun r => r.1.phys.wf = true) (s.reserveLaunch word x) := by
  unfold State.reserveLaunch
  split
  · exact hp
  · extract_lets a
    refine (answers_need _ _ _ _).bind fun _ _ => ?_
    refine (s.reachGlobal_answers _ _ _ hp).bind fun t _ => ?_
    extract_lets pa
    refine (answers_need _ _ _ _).bind fun _ _ => ?_
    rw [answers_bind_snd (s.readWords_answers _ _ _ _ hp)]
    intro w1 t1 _ h1
    rw [answers_bind_snd (t1.readWords_answers _ _ _ _ h1)]
    intro w2 t2 _ h2
    refine (t2.consume_answers _ _ _ _).bind fun _ _ => ?_
    extract_lets ws t3
    have h3 : MemCanonical t3 := by unfold t3; simp [h2]
    clear_value t3
    split
    · exact answers_trap _ _ _ _
    · refine (answers_need _ _ _ _).bind fun _ _ => ?_
      refine (t3.sources_answers _ _).bind fun _ _ => ?_
      rwa [answers_pure, State.modSeq_phys]

@[simp] theorem State.tagOutcome_answers (s : State) (kind : Nat) (p y : Word) (own : Option Nat)
    (hp : s.phys.wf = true) :
    Answers Stop.Canonical (fun r => r.1.phys.wf = true) (s.tagOutcome kind p y own) := by
  have h := s.decide_canonical s.seq.ctx.launch kind s.seq.ctx.strandix 0 0 hp
  unfold State.tagOutcome
  extract_lets c
  split
  · split <;> rename_i e <;> rw [e] at h
    · rw [decision_forced] at h
      dsimp only
      (repeat' split) <;> simp [h]
    · rw [decision_free] at h
      split <;> simp [h]
    · simpa using h
    · simpa using h
  · split
    · simp [hp]
    · simp +contextual [hp]

@[simp] theorem State.cleanLine_wf (s : State) (pa : Nat) (l : PodLine) (hp : s.phys.wf = true) :
    (s.cleanLine pa l).phys.wf = true := by
  unfold State.cleanLine
  simp +contextual [hp]

@[simp] theorem State.writeGlobal_answers (s : State) (va : Word) (n : Nat) (v : Word) (hp : s.phys.wf = true) :
    Answers Stop.Canonical (fun t => t.phys.wf = true) (s.writeGlobal va n v) := by
  unfold State.writeGlobal
  split <;> simp +contextual [hp]

@[simp] theorem State.readGlobal_answers (s : State) (va : Word) (n : Nat) (current : Bool) (hp : s.phys.wf = true) :
    Answers Stop.Canonical (fun r => r.2.phys.wf = true) (s.readGlobal va n current) := by
  unfold State.readGlobal
  refine (s.reachGlobal_answers _ _ _ hp).bind fun t _ => ?_
  extract_lets pa
  split
  · split <;> simp [hp]
  · rw [answers_bind_snd (s.readWords_answers _ _ _ _ hp)]
    intro ws u _ hu
    simp [hu]

@[simp] theorem State.homePut_wf (s : State) (l asid va pa : Nat) (cw : CW) (hp : s.phys.wf = true) :
    (s.homePut l asid va pa cw).phys.wf = true := by
  unfold State.homePut
  dsimp only
  (repeat' split) <;> simp [hp]

@[simp] theorem State.putEntry_wf (s : State) (a : Nat) (e : Word) (hp : s.phys.wf = true) :
    (s.putEntry a e).phys.wf = true := by
  unfold State.putEntry
  simp [hp]

@[simp] theorem State.enginePiece_wf (s : State) (c : Nat) (o : EngOp) (by_ : Writer) (bad : List (Nat × Raise))
    (x : Piece) (hp : s.phys.wf = true) : (s.enginePiece c o by_ bad x).phys.wf = true := by
  unfold State.enginePiece
  dsimp only
  (repeat' split) <;> simp [hp]

@[simp] theorem State.performWrh_wf (s : State) (r : DirReq) (hp : s.phys.wf = true) :
    (s.performWrh r).phys.wf = true := by
  refine foldl_wf (fun t k ht => ?_) _ hp
  extract_lets m pa w x u
  have hu : u.phys.wf = true := by simp [u, ht]
  split
  · exact ht
  · split <;> simp [hu]

@[simp] theorem State.takeResult_wf (s : State) (c : Coll) (f : Flit) (hp : s.phys.wf = true) :
    (s.takeResult c f).phys.wf = true := by
  unfold State.takeResult
  dsimp only
  (repeat' split) <;> simp +contextual [hp]

@[simp] theorem State.atLocation_canonical (s : State) (launch kind : Nat) (key issuer : Word) (hp : s.phys.wf = true) :
    (s.atLocation launch kind key issuer).Canonical := by
  have h := s.decide_canonical launch kind 0xFFFF key issuer hp
  unfold State.atLocation
  split <;> simp_all
  split <;> simp_all

@[simp] theorem State.hostWrite_wf (s : State) (l : List (Word × Tlb)) (x : Piece) (hp : s.phys.wf = true) :
    (s.hostWrite l x).phys.wf = true := by
  unfold State.hostWrite
  dsimp only
  (repeat' split) <;> simp [hp]

@[simp] theorem State.fillWindow_wf (s : State) (w : Window) (l pa va : Nat) (hp : s.phys.wf = true) :
    (s.fillWindow w l pa va).phys.wf = true := by
  unfold State.fillWindow
  dsimp only
  (repeat' split) <;> simp [hp]

@[simp] theorem State.land_wf (s : State) (a : Nat) (st : Store) (ep : Option Nat) (hp : s.phys.wf = true) :
    (s.land a st ep).phys.wf = true := by
  unfold State.land
  dsimp only
  (repeat' split) <;> simp [hp]

@[simp] theorem State.sendBank_wf (s : State) (c k dest : Nat) (hp : s.phys.wf = true) :
    (s.sendBank c k dest).phys.wf = true :=
  foldl_wf (fun t w ht => by simp [ht]) _ hp

@[simp] theorem State.atLocations_answers (s : State) (launch kind : Nat) (issuer : Word) (keys : List Word)
    (hp : s.phys.wf = true) :
    Answers (fun t => t.phys.wf = true) (fun t => t.phys.wf = true) (s.atLocations launch kind issuer keys) := by
  unfold State.atLocations
  extract_lets next
  have h : (keys.foldl next (.free s)).Canonical := by
    refine foldl_keeps Decision.Canonical next (fun r k hr => ?_) keys _ hp
    cases r with
    | free t => exact t.atLocation_canonical _ _ _ _ hr
    | forced t e => exact hr
    | full t => exact hr
    | diverged t => exact hr
  split <;> rename_i e <;> rw [e] at h
  · exact h
  · exact hp
  · rw [answers_error]; split <;> simp [hp]
  · exact h

@[simp] theorem State.routeSink_leaves (s : State) (word : Word) (x : D) (kind : Nat) (hp : s.phys.wf = true) :
    Leaves (s.routeSink word x kind) := by
  unfold State.routeSink
  simp [hp]

@[simp] theorem State.bankMarker_answers (s : State) (i : Instr) (sv : List Word) (also : Plot → Plot)
    (hp : s.phys.wf = true) : Answers Stop.Canonical (fun t => t.phys.wf = true) (s.bankMarker i sv also) := by
  unfold State.bankMarker
  simp [hp]

@[simp] theorem State.issueMma_leaves (s : State) (i : Instr) (x : D) (m : MmaF) (hp : s.phys.wf = true) :
    Leaves (s.issueMma i x m) := by
  unfold State.issueMma
  simp [hp]

theorem State.issueTile_leaves (s : State) (i : Instr) (x : D) (ok : Nat → Bool) (own : List Tlb → TileDesc → Res Unit)
    (hp : s.phys.wf = true) (ho : ∀ ts d, Answers Stop.Canonical (fun _ => True) (own ts d)) :
    Leaves (s.issueTile i x ok own) := by
  unfold State.issueTile
  simp [hp, ho]

@[simp] theorem State.issueStream_leaves (s : State) (word : Word) (i : Instr) (g : Nat) (tagByte : BitVec 8)
    (srcs : List (BitVec 5)) (fin : Bool) (hp : s.phys.wf = true) :
    Leaves (s.issueStream word i g tagByte srcs fin) := by
  unfold State.issueStream
  simp [hp]

@[simp] theorem State.issueVec_leaves (s : State) (i : Instr) (x : V) (hp : s.phys.wf = true) :
    Leaves (s.issueVec i x) := by
  unfold State.issueVec
  simp [hp]

@[simp] theorem State.issueOnce_leaves (s : State) (i : Instr) (x : V) (hp : s.phys.wf = true) :
    Leaves (s.issueOnce i x) := by
  unfold State.issueOnce
  simp [hp]

@[simp] theorem State.readBlock_answers (s : State) (a : Word) (n : Nat) (hp : s.phys.wf = true) :
    Answers Stop.Canonical (fun r => r.2.phys.wf = true) (s.readBlock a n) := by
  induction n with
  | zero => exact hp
  | succ n ih =>
    unfold State.readBlock
    rw [answers_bind_snd ih]
    intro l t _ ht
    simp +contextual [ht]

@[simp] theorem State.readSpan_answers (s : State) (a : Word) (n : Nat) (hp : s.phys.wf = true) :
    Answers Stop.Canonical (fun r => r.2.phys.wf = true) (s.readSpan a n) := by
  induction n with
  | zero => exact hp
  | succ n ih =>
    unfold State.readSpan
    rw [answers_bind_snd ih]
    intro l t _ ht
    simp [ht]

@[simp] theorem State.writeSpecial_leaves (s : State) (word : Word) (x : SC) (hp : s.phys.wf = true) :
    Leaves (s.writeSpecial word x) := by
  unfold State.writeSpecial
  simp only [settle_leaves, answers_bind_calm, State.sources_answers, answers_need, hp]
  intros
  split
  · simp
  · have ht := State.putSpecial_some _ _ _ _ hp ‹_›
    simp [ht]

@[simp] theorem State.readSpecial_leaves (s : State) (word : Word) (x : SC) (hp : s.phys.wf = true) :
    Leaves (s.readSpecial word x) := by
  unfold State.readSpecial
  extract_lets n c
  rw [settle_leaves hp]
  refine (answers_need _ _ _ _).bind fun _ _ => ?_
  split
  · simp
  · split
    · rw [answers_bind_fst (s.strandDecision_answers _ _ _ hp)]
      intro t f _ ht
      dsimp only
      split <;> simp [ht]
    · simp [hp]

@[simp] theorem State.exhaust_answers (s : State) (c : Cause) (sd : BitVec 5) (t0 t2 : Word) (hp : s.phys.wf = true) :
    Answers Stop.Canonical (fun t => t.phys.wf = true) (s.exhaust c sd t0 t2) := by
  unfold State.exhaust
  simp [hp]

@[simp] theorem State.locationDecision_answers (s : State) (launch kind : Nat) (key : Word) (hp : s.phys.wf = true) :
    Answers Stop.Canonical (fun t => t.phys.wf = true) (s.locationDecision launch kind key) := by
  have h := s.atLocation_canonical launch kind key (s.issuer s.cur) hp
  unfold State.locationDecision
  split <;> rename_i e <;> rw [e] at h
  · exact h
  · rw [decision_forced] at h; split <;> simp [h]
  · rw [decision_full] at h; rw [answers_error]; split <;> simp [h]
  · exact h

@[simp] theorem State.arriveFull_answers (s : State) (x : SC) (scope k : Nat) (hp : s.phys.wf = true) :
    Answers Stop.Canonical (fun r => r.1.phys.wf = true) (s.arriveFull x scope k) := by
  unfold State.arriveFull
  simp +contextual [hp]

@[simp] theorem State.branchIf_leaves (s : State) (word : Word) (x : SB) (c : Bool) (hp : s.phys.wf = true) :
    Leaves (s.branchIf word x c) := by
  unfold State.branchIf
  split <;> simp [hp]

@[simp] theorem State.atomicLocal_answers (s : State) (word : Word) (x : SM) (o : AOp) (n v c : Nat)
    (hp : s.phys.wf = true) :
    Answers Stop.Canonical (fun t => t.phys.wf = true) (s.atomicLocal word x o n v c) := by
  unfold State.atomicLocal
  split <;> simp [hp]

@[simp] theorem State.cleanSector_answers (s : State) (va : Word) (t : Tlb) (hp : s.phys.wf = true) :
    Answers Stop.Canonical (fun t => t.phys.wf = true) (s.cleanSector va t) := by
  unfold State.cleanSector
  dsimp only
  (repeat' split) <;> simp [hp]

@[simp] theorem State.storeOf_leaves (s : State) (word : Word) (x : SM) (n : Nat) (hp : s.phys.wf = true) :
    Leaves (s.storeOf word x n) := by
  unfold State.storeOf
  simp [hp]

@[simp] theorem State.loadThen_leaves (s : State) (word : Word) (x : SM) (n : Nat) (ext : Nat → Word)
    (hp : s.phys.wf = true) : Leaves (s.loadThen word x n ext) := by
  unfold State.loadThen
  simp [hp]

@[simp] theorem State.scalar_leaves (s : State) (word : Word) (srcs : List (BitVec 5)) (sd : BitVec 5) (v : Word)
    (hp : s.phys.wf = true) : Leaves (s.scalar word srcs sd v) := by
  unfold State.scalar
  simp [hp]

@[simp] theorem State.scalarExact_leaves (s : State) (word : Word) (srcs : List (BitVec 5)) (sd : BitVec 5) (sat : Bool)
    (x : Int) (hp : s.phys.wf = true) : Leaves (s.scalarExact word srcs sd sat x) := by
  unfold State.scalarExact
  simp [hp]

@[simp] theorem State.putNow_wf (s : State) (a : Nat) (va : Word) (pa : Nat) (podc unc : Bool) (ws : List CW)
    (hp : s.phys.wf = true) : (s.putNow a va pa podc unc ws).phys.wf = true :=
  State.touchAt_wf _ _ _ _ _ _ _ (foldl_wf (fun t k ht => by simp [ht]) _ hp)

@[simp] theorem State.walk_wf (s : State) (asid root pbase plimit vpn kind : Nat) (user : Bool) (hp : s.phys.wf = true) :
    (s.walk asid root pbase plimit vpn kind user).2.phys.wf = true := by
  unfold State.walk
  dsimp only
  (repeat' split) <;> simp [hp]

@[simp] theorem State.failPart_wf (s : State) (cid : Nat) (p : CollPart) (hp : s.phys.wf = true) :
    (s.failPart cid p).phys.wf = true := by
  unfold State.failPart
  split
  · exact hp
  · dsimp only
    rw [State.raiseAt_phys, State.finishOp_phys]
    exact foldl_wf (fun t x ht => by simp [ht]) _ (by simp [hp])

@[simp] theorem State.finishServe_wf (s : State) (r : DirReq) (e : DirEntry) (dirty : Option (List CW))
    (hp : s.phys.wf = true) : (s.finishServe r e dirty).phys.wf = true := by
  unfold State.finishServe
  dsimp only
  (repeat' split) <;> simp [hp]

@[simp] theorem State.signalFor_answers (s : State) (launch : Nat) (x : EvSlot) (inc : Nat) (hp : s.phys.wf = true) :
    Answers (fun t => t.phys.wf = true) (fun t => t.phys.wf = true) (s.signalFor launch x inc) := by
  have h := s.atLocation_canonical launch 6 (w64 x.name) (BitVec.allOnes 64) hp
  unfold State.signalFor
  split <;> rename_i e <;> rw [e] at h <;> simpa using h

@[simp] theorem State.takeAll_wf (s : State) (a unit : Nat) (l : List Access) (hp : s.phys.wf = true) :
    (s.takeAll a unit l).phys.wf = true := by
  refine foldl_wf (fun t x ht => ?_) l hp
  have h := t.reach_answers a unit x ht
  split
  · simp [ht]
  · split
    · exact h.of_ok ‹_›
    · exact ht

@[simp] theorem State.hostPages_answers (s : State) (part : Nat) (va : Word) (n kind : Nat) (hp : s.phys.wf = true) :
    Answers (fun _ => True) (fun r => r.2.phys.wf = true) (s.hostPages part va n kind) := by
  refine answers_foldlM (fun r v hr => ?_) _ hp
  extract_lets p
  split
  · trivial
  · have h := r.2.walk_wf (p.num (part + 0x40) 2) (p.num (part + 0x48) 8) (p.num (part + 0x50) 8) (p.num (part + 0x58) 8)
      (vpnOf v) kind true hr
    split <;> rename_i e
    · rw [e] at h; exact h
    · trivial

@[simp] theorem State.walkRange_wf (s : State) (part base n kind : Nat) (user : Bool) (hp : s.phys.wf = true) :
    (s.walkRange part base n kind user).phys.wf = true :=
  foldl_wf (fun t k ht => by simp [ht]) _ hp

@[simp] theorem State.performStore_wf (s : State) (a : Nat) (r : Release) (st : Store) (hp : s.phys.wf = true) :
    (s.performStore a r st).phys.wf = true := by
  unfold State.performStore
  split <;> simp [hp]

@[simp] theorem State.outputEvent_answers (s : State) (l : Launch) (e : Nat × Nat) (hp : s.phys.wf = true) :
    Answers (fun t => t.phys.wf = true) (fun t => t.phys.wf = true) (s.outputEvent l e) := by
  unfold State.outputEvent
  split
  · exact hp
  · split <;> simp [hp]

@[simp] theorem State.walkArgs_wf (s : State) (l : Launch) (ds : List ImgDecl) (hp : s.phys.wf = true) :
    (s.walkArgs l ds).phys.wf = true :=
  foldl_wf (fun t d ht => by simp [ht]) _ hp

@[simp] theorem State.placeHeadland_wf (s : State) (q : Nat) (hp : s.phys.wf = true) :
    (s.placeHeadland q).phys.wf = true := by
  unfold State.placeHeadland
  extract_lets sh n
  clear_value sh n
  obtain ⟨code, hcode⟩ : ∃ f, f = s.headCode q := ⟨_, rfl⟩
  rw [← hcode]
  split
  · split
    · exact hp
    · split
      · exact hp
      · extract_lets s1
        have h1 : MemCanonical s1 := by
          unfold s1
          exact foldl_wf (fun t x ht => by simp [ht]) _ hp
        clear_value s1
        rw [State.modSched_phys]
        exact State.useMore_wf _ _ _ _ _ h1
  · exact hp

@[simp] theorem State.answerWalk_wf (s : State) (m : Miss) (r : MissReq) (hp : s.phys.wf = true) :
    (s.answerWalk m r).phys.wf = true := by
  have h := s.walk_wf m.asid m.root m.pbase m.plimit m.vpn r.kind r.user hp
  unfold State.answerWalk
  split <;> rename_i e <;> rw [e] at h
  · dsimp only; split <;> simp [h]
  · simp [h]

@[simp] theorem State.engineReach_answers (s : State) (c : Nat) (l : List Access) (hp : s.phys.wf = true) :
    Answers (fun t => t.phys.wf = true) (fun r => r.1.phys.wf = true) (s.engineReach c l) := by
  unfold State.engineReach
  simp [hp]

@[simp] theorem State.contribute_wf (s : State) (a : Nat) (o : EngOp) (c : Coll) (p : CollPart) (hp : s.phys.wf = true) :
    (s.contribute a o c p).phys.wf = true := by
  unfold State.contribute
  extract_lets r w src n l
  have h := s.engineReach_answers a l hp
  split <;> rename_i e <;> rw [e] at h
  · exact h
  · rw [answers_ok] at h
    extract_lets s1 els s2 c1 c2 s3 fl
    have h3 : s3.phys.wf = true := by simp [s3, s2, s1, h]
    rw [State.raiseReplies_phys]
    split <;> simp [h3]

@[simp] theorem State.copyRead_answers (s : State) (c : Nat) (o : EngOp) (loc : Bool) (a : Word) (n : Nat)
    (hp : s.phys.wf = true) :
    Answers (fun t => t.phys.wf = true) (fun r => r.1.phys.wf = true) (s.copyRead c o loc a n) := by
  unfold State.copyRead
  extract_lets ws l
  have h := s.engineReach_answers c l hp
  split
  · exact hp
  · split <;> rename_i e <;> rw [e] at h
    · exact h
    · rw [answers_ok] at h; simp [h]

@[simp] theorem State.tileAdd_wf (s : State) (c : Nat) (o : EngOp) (bad : List (Nat × Raise)) (va : Word) (v : CW)
    (hp : s.phys.wf = true) : (s.tileAdd c o bad va v).1.phys.wf = true := by
  unfold State.tileAdd
  dsimp only
  (repeat' split) <;> simp [hp]

@[simp] theorem State.addTurns_answers (s : State) (c : Nat) (o : EngOp) (hp : s.phys.wf = true) :
    Answers (fun t => t.phys.wf = true) (fun t => t.phys.wf = true) (s.addTurns c o) := by
  have h := s.atLocations_answers (s.seqOf c).ctx.launch 7 (s.issuer c) (o.recFrames.map w64) hp
  unfold State.addTurns
  split
  · exact hp
  · split <;> rename_i e <;> rw [e] at h <;> simpa using h

@[simp] theorem State.tileRead_answers (s : State) (c : Nat) (o : EngOp) (d : TileDesc) (hp : s.phys.wf = true) :
    Answers (fun t => t.phys.wf = true) (fun r => r.1.phys.wf = true) (s.tileRead c o d) := by
  unfold State.tileRead
  extract_lets rows l
  have h := s.engineReach_answers c l hp
  split
  · exact hp
  · split <;> rename_i e <;> rw [e] at h
    · exact h
    · rw [answers_ok] at h; simp [h]

@[simp] theorem State.loadWords_answers (s : State) (a : Word) (n : Nat) (hp : s.phys.wf = true) :
    Answers Stop.Canonical (fun r => r.2.phys.wf = true) (s.loadWords a n) := by
  induction n with
  | zero => exact hp
  | succ n ih =>
    unfold State.loadWords
    rw [answers_bind_snd ih]
    intro l t _ ht
    simp +contextual [ht]

@[simp] theorem State.arrive_answers (s : State) (word : Word) (x : SC) (hp : s.phys.wf = true) :
    Answers Stop.Canonical (fun r => r.1.phys.wf = true) (s.arrive word x) := by
  unfold State.arrive
  extract_lets scope k
  refine (answers_need _ _ _ _).bind fun _ _ => ?_
  split
  · simp [hp]
  · split
    · simp [hp]
    · rename_i t e
      have ht := s.openEpisode_some _ _ hp e
      split <;> simp [ht]

@[simp] theorem State.writeGroup_answers (s : State) (loc : Bool) (a : Word) (l : List Word) (k : Nat)
    (hp : s.phys.wf = true) : Answers Stop.Canonical (fun t => t.phys.wf = true) (s.writeGroup loc a l k) := by
  induction l generalizing s k with
  | nil => exact hp
  | cons v l ih =>
    have h : Answers Stop.Canonical (fun t => t.phys.wf = true)
        (if loc then s.writeLocal (a + w64 (8 * k)).toNat 8 v else s.writeGlobal (a + w64 (8 * k)) 8 v) := by
      split <;> simp [hp]
    rw [State.writeGroup]
    rw [answers_bind_state h]
    exact fun t _ ht => ih t (k + 1) ht

@[simp] theorem State.readGroup_answers (s : State) (word : Word) (loc : Bool) (a : Word) (n : Nat)
    (hp : s.phys.wf = true) :
    Answers Stop.Canonical (fun r => r.2.phys.wf = true) (s.readGroup word loc a n) := by
  induction n with
  | zero => exact hp
  | succ n ih =>
    rw [State.readGroup, answers_bind_snd ih]
    intro l t _ ht
    dsimp only
    split
    · rw [answers_bind_calm (t.readLocal_answers _ _ _)]
      exact fun _ _ => ht
    · rw [answers_bind_snd (t.readGlobal_answers _ _ _ ht)]
      exact fun _ _ _ h => h

@[simp] theorem State.enginePuts_wf (s : State) (a : Nat) (l : List Word) (hp : s.phys.wf = true) :
    (s.enginePuts a l).phys.wf = true :=
  foldl_wf (fun t k ht => by simp [ht]) _ hp

@[simp] theorem State.resultPa_wf (s : State) (t : Trial) (hp : s.phys.wf = true) :
    (s.resultPa t).2.phys.wf = true := by
  unfold State.resultPa
  extract_lets c va memory
  have h := s.walk_wf c.asid c.ptroot 0 (2 ^ 52 - 1) (vpnOf va) 1 false hp
  split
  · exact hp
  · split
    · exact hp
    · split <;> rename_i e <;> rw [e] at h <;> exact h

@[simp] theorem State.serve_wf (s : State) (sec : Nat) (kinds : List Nat) (hp : s.phys.wf = true) :
    (s.serve sec kinds).phys.wf = true := by
  unfold State.serve
  dsimp only
  (repeat' split) <;> simp [hp]

@[simp] theorem State.hostSignal_answers (s : State) (e : EvSlot) (inc : Nat) (hp : s.phys.wf = true) :
    Answers (fun t => t.phys.wf = true) (fun t => t.phys.wf = true) (s.hostSignal e inc) := by
  unfold State.hostSignal
  simp [hp]

@[simp] theorem State.copyOut_wf (s : State) (l : List (Word × Tlb)) (va : Word) (n : Nat) (e : Option EvSlot)
    (hp : s.phys.wf = true) : (s.copyOut l va n e).phys.wf = true := by
  unfold State.copyOut
  extract_lets x ws out done
  split
  · simp [hp]
  · split
    · simp [hp]
    · have hd : ∀ t : State, t.phys.wf = true → (done t).phys.wf = true := fun t ht => by simp [done, ht]
      split
      · exact hd s hp
      · rename_i x
        have h := s.hostSignal_answers x (bodyWord s.evt 9) hp
        split
        · exact hd _ (h.of_ok ‹_›)
        · exact h.of_error ‹_›

@[simp] theorem State.copyIn_wf (s : State) (l : List (Word × Tlb)) (ps : List Piece) (e : Option EvSlot)
    (hp : s.phys.wf = true) : (s.copyIn l ps e).phys.wf = true := by
  unfold State.copyIn
  extract_lets x t
  have ht : t.phys.wf = true := foldl_wf (fun t y h => by simp [h]) _ hp
  split
  · simp [ht]
  · split
    · simp [ht]
    · rename_i y
      have h := t.hostSignal_answers y (bodyWord x 9) ht
      split
      · simp [h.of_ok ‹_›]
      · exact h.of_error ‹_›

@[simp] theorem State.reachAll_answers (s : State) (a unit : Nat) (l : List Access) (hp : s.phys.wf = true) :
    Answers Stop.Canonical (fun t => t.phys.wf = true) (s.reachAll a unit l) := by
  unfold State.reachAll
  split <;> simp [hp]

@[simp] theorem State.walkImage_wf (s : State) (m : Img) (h : ImgHead) (hp : s.phys.wf = true) :
    (s.walkImage m h).phys.wf = true := by
  unfold State.walkImage
  split <;> simp [hp]

@[simp] theorem State.performAll_wf (s : State) (a : Nat) (r : Release) (hp : s.phys.wf = true) :
    (s.performAll a r).phys.wf = true := by
  unfold State.performAll
  simp +contextual [hp]

@[simp] theorem State.storesReach_answers (s : State) (a unit : Nat) (ep : Option Nat) (l : List Store)
    (hp : s.phys.wf = true) :
    Answers Stop.Canonical (fun t => t.phys.wf = true) (s.storesReach a unit ep l) := by
  unfold State.storesReach
  extract_lets far old go
  have hgo : ∀ t : State, t.phys.wf = true → Answers Stop.Canonical (fun u => u.phys.wf = true) (go t) := fun t ht => by
    have h := t.reachAll_answers a unit (t.storeAccesses a ep l) ht
    unfold go
    split
    · rw [answers_error, stop_stall]
      have hu : Stop.Canonical (.stall _) := h.of_error ‹_›
      exact foldl_wf (fun t st h => by simp [h]) _ hu
    · exact h
  split
  · exact hgo s hp
  · rw [answers_bind_state (s.reachAll_answers _ _ _ hp)]
    exact fun t _ ht => hgo t ht

@[simp] theorem State.streamReach_answers (s : State) (c g : Nat) (va : Word) (n kind : Nat) (ws : List CW)
    (hp : s.phys.wf = true) :
    Answers Stop.Canonical (fun r => r.2.phys.wf = true) (s.streamReach c g va n kind ws) := by
  unfold State.streamReach
  extract_lets vas
  refine (answers_need _ _ _ _).bind fun _ _ => ?_
  refine (answers_mapM (fun v => s.translate_answers c (1 + g) v kind hp) vas).bind fun ts _ => ?_
  extract_lets l access
  split
  · rw [answers_bind_calm (s.present_answers _ _ _ _ _)]
    exact fun _ _ => hp
  · split
    · exact answers_trap _ _ _ _
    · rw [answers_bind_state (s.reachAll_answers _ _ _ hp)]
      exact fun t _ ht => ht

@[simp] theorem State.streamRead_answers (s : State) (c g : Nat) (va : Word) (n : Nat) (hp : s.phys.wf = true) :
    Answers Stop.Canonical (fun r => r.2.phys.wf = true) (s.streamRead c g va n) := by
  unfold State.streamRead
  rw [answers_bind_snd (s.streamReach_answers _ _ _ _ _ _ hp)]
  intro l t _ ht
  exact foldl_wf (fun u v hu => by dsimp only; split <;> simp [hu]) _ ht

@[simp] theorem State.loadStrand_answers (s : State) (l : Launch) (m : Img) (h : ImgHead) (x : ImgMap)
    (handler : List Word × Nat) (ix : Nat) (hp : s.phys.wf = true) :
    Answers (fun _ => True) (fun t => t.phys.wf = true) (s.loadStrand l m h x handler ix) := by
  unfold State.loadStrand
  refine (answers_trivial _).bind fun st _ => ?_
  refine (answers_trivial _).bind fun ds _ => ?_
  extract_lets seat full t c p0 p banks first cx tvec u key
  have hu : u.phys.wf = true := State.walkArgs_wf _ _ _ hp
  refine (answers_trivial _).bind fun ws _ => ?_
  extract_lets p1 p2 q
  refine (answers_trivial _).bind fun dw _ => ?_
  extract_lets p3 u1 u2 u3
  split
  · simp [u2, u1, hu]
  · simp [u3, hu]

/-- One round of the choice of a launch, given that the rounds after it keep memory canonical. -/
theorem State.choose_round_canonical (s : State) (part : Nat) (resv : List Launch) (n : Nat)
    (rest : Nat.below (motive := fun _ => List Launch → State) (n + 1)) (l : List Launch) (hp : s.phys.wf = true)
    (ih : ∀ l, MemCanonical (rest.1 l)) : MemCanonical (State.choose._f s part resv (n + 1) rest l) := by
  delta State.choose._f
  obtain ⟨ring, hring⟩ : ∃ f, f = ringFrom := ⟨_, rfl⟩
  rw [← hring]
  dsimp -zeta only
  extract_lets p lvl k u
  have hu : MemCanonical u := foldl_wf (fun t x ht => by simp [ht]) _ hp
  clear_value u
  split
  · exact hp
  · rename_i x _
    extract_lets held
    split
    · split
      · exact State.start_wf _ _ _ _ _ (u.logPlacement_some _ _ hu ‹_›)
      · have h := s.decide_canonical x.id 9 0xFFFF 0 0 hp
        split <;> rename_i e <;> rw [e] at h
        · exact h
        · exact h
        · simp [hp]
        · exact hp
    · exact ih _

@[simp] theorem State.choose_wf (s : State) (part : Nat) (resv : List Launch) (n : Nat) (l : List Launch)
    (hp : s.phys.wf = true) : (s.choose part resv n l).phys.wf = true := by
  have rounds : ∀ n l,
      MemCanonical (Nat.brecOn (motive := fun _ => List Launch → State) n (State.choose._f s part resv) l) := by
    intro n
    induction n with
    | zero => exact fun _ => hp
    | succ n ih =>
      intro l
      rw [Nat.brecOn.eq (n + 1) (State.choose._f s part resv)]
      exact s.choose_round_canonical part resv n _ l hp ih
  rw [← memCanonical_iff]
  delta State.choose
  exact rounds n l
--!! NEW

@[simp] theorem State.keepHeadlands_wf (s : State) (q : Nat) (hp : s.phys.wf = true) :
    (s.keepHeadlands q).phys.wf = true := by
  unfold State.keepHeadlands
  simp +contextual [hp]

@[simp] theorem State.engineWrite_answers (s : State) (c : Nat) (o : EngOp) (by_ : Writer) (sectors : List Word)
    (ps : List Piece) (hp : s.phys.wf = true) :
    Answers (fun t => t.phys.wf = true) (fun r => r.1.phys.wf = true) (s.engineWrite c o by_ sectors ps) := by
  unfold State.engineWrite
  extract_lets l
  have h := s.engineReach_answers c l hp
  split <;> rename_i e <;> rw [e] at h
  · exact h
  · exact foldl_wf (fun t x ht => by simp [ht]) _ h

@[simp] theorem State.copyWrite_answers (s : State) (c : Nat) (o : EngOp) (loc : Bool) (a : Word) (n : Nat)
    (ps : List Piece) (hp : s.phys.wf = true) :
    Answers (fun t => t.phys.wf = true) (fun r => r.1.phys.wf = true) (s.copyWrite c o loc a n ps) := by
  have h := s.engineWrite_answers c o o.writer (sectorsOf a n) ps hp
  unfold State.copyWrite
  split
  · rw [answers_ok]; split <;> simp [hp]
  · split <;> rename_i e <;> rw [e] at h
    · exact h
    · rw [answers_ok] at h; simp [h]

@[simp] theorem State.addReach_answers (s : State) (c : Nat) (o : EngOp) (l : List Access) (hp : s.phys.wf = true) :
    Answers (fun t => t.phys.wf = true) (fun r => r.1.phys.wf = true) (s.addReach c o l) := by
  unfold State.addReach
  extract_lets ready
  have h : Answers (fun t => t.phys.wf = true) (fun t => t.phys.wf = true)
      (if ready || l.any (·.kind = 7) then s.addTurns c o else .ok s) := by
    split
    · exact s.addTurns_answers c o hp
    · exact hp
  split
  · exact h.of_error ‹_›
  · exact State.engineReach_answers _ _ _ (h.of_ok ‹_›)

@[simp] theorem State.publishTouched_answers (s : State) (a unit scope : Nat) (hit : Store → Bool)
    (hp : s.phys.wf = true) :
    Answers Stop.Canonical (fun t => t.phys.wf = true) (s.publishTouched a unit scope hit) := by
  unfold State.publishTouched
  extract_lets v l ids r
  have h := s.storesReach_answers a 9 none (v.chosen ids) hp
  split
  · exact hp
  · split <;> rename_i e <;> rw [e] at h
    · rw [answers_ok] at h; simp [h]
    · trivial
    · refine waitFor_answers ?_ a unit
      split <;> simp [hp]

@[simp] theorem State.tileWrite_answers (s : State) (c : Nat) (o : EngOp) (d : TileDesc) (ws : List CW)
    (hp : s.phys.wf = true) :
    Answers (fun t => t.phys.wf = true) (fun r => r.1.phys.wf = true) (s.tileWrite c o d ws) := by
  unfold State.tileWrite
  extract_lets n ps w by_
  split
  · rw [answers_ok]; split <;> simp [hp]
  · have h := s.engineWrite_answers c o by_ d.sectors ps hp
    split <;> rename_i e <;> rw [e] at h
    · exact h
    · rw [answers_ok] at h; simp [h]

@[simp] theorem State.performUnder_answers (s : State) (f : Tlb → Bool) (a : Nat) (hp : s.phys.wf = true) :
    Answers Stop.Canonical (fun t => t.phys.wf = true) (s.performUnder f a) := by
  unfold State.performUnder
  extract_lets ids
  have h := s.storesReach_answers a 9 none ((s.view a).chosen ids) hp
  split
  · exact hp
  · split <;> rename_i e <;> rw [e] at h
    · rw [answers_ok] at h; simp [h]
    · exact stall_answers h
    · simp [hp]

@[simp] theorem State.beforeAtomic_answers (s : State) (x : SM) (pa n : Nat) (hp : s.phys.wf = true) :
    Answers Stop.Canonical (fun t => t.phys.wf = true) (s.beforeAtomic x pa n) := by
  unfold State.beforeAtomic
  simp +contextual [hp]

@[simp] theorem State.atomicRemote_answers (s : State) (t : Tlb) (x : SM) (o : AOp) (n v c : Nat)
    (hp : s.phys.wf = true) :
    Answers Stop.Canonical (fun t => t.phys.wf = true) (s.atomicRemote t x o n v c) := by
  unfold State.atomicRemote
  dsimp only
  (repeat' split) <;> simp +contextual [hp]

@[simp] theorem State.endTrial_wf (s : State) (t : Trial) (status : Nat) (hp : s.phys.wf = true) :
    (s.endTrial t status).phys.wf = true := by
  unfold State.endTrial
  dsimp only
  (repeat' split) <;> simp [hp]

@[simp] theorem State.hostCopy_wf (s : State) (q : Session) (hp : s.phys.wf = true) :
    (s.hostCopy q).phys.wf = true := by
  unfold State.hostCopy
  extract_lets x dir va n slot ps
  have h := s.hostPages_answers q.part va n (1 - dir) hp
  split
  · simp [hp]
  · split <;> rename_i e <;> rw [e] at h
    · simp [hp]
    · rename_i l t
      have h2 := t.reachAll_answers (hubAgent 0) 10 (t.hostAccesses l va n (if dir = 0 then some ps else none)) h
      rw [answers_ok] at h
      split
      · simp [h]
      · split <;> rename_i e <;> rw [e] at h2
        · exact h2
        · simp [h]
        · rw [answers_ok] at h2
          split <;> simp [h2]

theorem modSched_canonical (s : State) (f : Sched → Sched) : MemCanonical (s.modSched f) ↔ MemCanonical s := by simp

theorem withPhys_canonical {s : State} {p : Phys} (h : p.wf = true) : MemCanonical { s with phys := p } := h

theorem State.enqueue_some (s : State) (l : Launch) (hp : s.phys.wf = true) {r : State × Nat} (e : s.enqueue l = some r) :
    r.1.phys.wf = true := by
  revert e
  unfold State.enqueue
  split
  · exact fun e => nomatch e
  · rename_i a _
    extract_lets id s1 s2 node ord l2 s3 s4 s5 s6 n s7 s8
    have h2 : MemCanonical s2 := State.writeRcb_wf _ _ _ (State.writeDepths_wf _ _ hp)
    have h3 : MemCanonical s3 := (modSched_canonical _ _).2 h2
    have h4 : MemCanonical s4 := withPhys_canonical (Phys.wf_putNum (Phys.wf_putDword h3 _ _) _ _ _)
    have h5 : MemCanonical s5 := by
      unfold s5
      split
      · exact State.walkImage_wf _ _ _ h4
      · exact h4
    have h6 : MemCanonical s6 := (modSched_canonical _ _).2 h5
    have h7 : MemCanonical s7 := by
      unfold s7
      split
      · exact State.setRcb_wf _ _ _ _ _ h6
      · exact h6
    intro e
    cases e
    exact State.setRcb_wf _ _ _ _ _ (State.setRcb_wf _ _ _ _ _ h7)

@[simp] theorem State.publish_wf (s : State) (a : Nat) (r : Release) (hp : s.phys.wf = true) :
    (s.publish a r).phys.wf = true := by
  unfold State.publish
  split <;> simp [hp]

@[simp] theorem State.streamWrite_answers (s : State) (c g : Nat) (by_ : Writer) (va : Word) (ws : List CW)
    (hp : s.phys.wf = true) :
    Answers Stop.Canonical (fun t => t.phys.wf = true) (s.streamWrite c g by_ va ws) := by
  unfold State.streamWrite
  rw [answers_bind_snd (s.streamReach_answers _ _ _ _ _ _ hp)]
  intro l t _ ht
  exact foldl_wf (fun u k hu => by dsimp only; split <;> simp [hu]) _ ht

@[simp] theorem State.beatRead_answers (s : State) (c g id : Nat) (loc : Bool) (va : Word) (n : Nat)
    (hp : s.phys.wf = true) :
    Answers Stop.Canonical (fun r => r.2.phys.wf = true) (s.beatRead c g id loc va n) := by
  unfold State.beatRead
  simp [hp]

@[simp] theorem State.beatSld_wf (s : State) (c g : Nat) (x : Actor) (port n : Nat) (loc fin : Bool)
    (hp : s.phys.wf = true) : (s.beatSld c g x port n loc fin).phys.wf = true := by
  unfold State.beatSld
  have h := s.beatRead_answers c g x.id loc (x.ag.addr x.fired) n hp
  split
  · exact hp
  · split <;> rename_i e <;> rw [e] at h
    · exact s.stopBeat_wf c g x loc _ hp h
    · rw [answers_ok] at h; simp [h]

@[simp] theorem State.outputEvents_wf (s : State) (l : Launch) (es : List (Nat × Nat)) (hp : s.phys.wf = true) :
    (s.outputEvents l es).1.phys.wf = true := by
  induction es generalizing s with
  | nil => exact hp
  | cons x es ih =>
    have h := s.outputEvent_answers l x hp
    rw [State.outputEvents]
    split <;> rename_i e <;> rw [e] at h
    · exact ih _ h
    · exact h

@[simp] theorem State.loadTract_answers (s : State) (l : Launch) (t : Nat) (hp : s.phys.wf = true) :
    Answers (fun _ => True) (fun t => t.phys.wf = true) (s.loadTract l t) := by
  unfold State.loadTract
  extract_lets m
  rw [answers_bind_calm (answers_trivial _)]
  rintro ⟨h, maps⟩ _
  dsimp -zeta only
  extract_lets x ixs
  refine (answers_trivial _).bind fun handler _ => ?_
  exact answers_foldlM (fun u ix hu => u.loadStrand_answers _ _ _ _ _ _ hu) _ (State.walkImage_wf _ _ _ hp)

@[simp] theorem State.schedule_wf (s : State) (part : Nat) (hp : s.phys.wf = true) :
    (s.schedule part).phys.wf = true := by
  unfold State.schedule
  extract_lets ready held t l
  have ht : t.phys.wf = true := by
    unfold t
    split
    · exact hp
    · exact foldl_wf (fun u q hu => State.keepHeadlands_wf u q hu) _ hp
  exact State.choose_wf _ _ _ _ _ ht

@[simp] theorem State.publication_wf (s : State) (a : Nat) (entering : List (Nat × Nat)) (hp : s.phys.wf = true) :
    (s.publication a entering).phys.wf = true := by
  unfold State.publication
  extract_lets v t
  have ht : t.phys.wf = true := by
    unfold t
    split
    · exact hp
    · rename_i r _
      have h := s.storesReach_answers a 9 r.episode ((s.view a).chosen r.ids) hp
      split <;> rename_i e <;> rw [e] at h
      · exact State.publish_wf _ _ _ h
      · exact h
      · simp [hp]
  exact foldl_wf (fun t p h => by simp [h]) _ ht

@[simp] theorem State.collWrite_answers (s : State) (a : Nat) (o : EngOp) (ws sc : List CW) (hp : s.phys.wf = true) :
    Answers (fun t => t.phys.wf = true) (fun t => t.phys.wf = true) (s.collWrite a o ws sc) := by
  unfold State.collWrite
  extract_lets d ps l
  have h := s.engineWrite_answers a o o.writer l ps hp
  split <;> rename_i e <;> rw [e] at h
  · exact h
  · rw [answers_ok] at h; simp [h]

@[simp] theorem State.performCopy_wf (s : State) (c : Nat) (o : EngOp) (x : D) (n : Nat) (hp : s.phys.wf = true) :
    (s.performCopy c o x n).phys.wf = true := by
  unfold State.performCopy
  extract_lets left m at_
  have h1 := s.copyRead_answers c o (x.e.getLsbD 1) (at_ 1) m hp
  split <;> rename_i e <;> rw [e] at h1
  · exact h1
  · rename_i t1 ws bad
    have h2 := t1.copyWrite_answers c o (x.e.getLsbD 0) (at_ 0) (4 * m) (wordPieces (at_ 0) (4 * m) ws) h1
    split <;> rename_i e <;> rw [e] at h2
    · exact h2
    · rw [answers_ok] at h2
      rw [State.raiseReplies_phys]
      split <;> simp [h2]

@[simp] theorem State.publishFenced_answers (s : State) (c : Nat) (o : EngOp) (vas : List Word) (hp : s.phys.wf = true) :
    Answers Stop.Canonical (fun t => t.phys.wf = true) (s.publishFenced c o vas) := by
  unfold State.publishFenced
  simp [hp]

@[simp] theorem State.atomicGlobal_answers (s : State) (x : SM) (o : AOp) (n v c : Nat) (hp : s.phys.wf = true) :
    Answers Stop.Canonical (fun t => t.phys.wf = true) (s.atomicGlobal x o n v c) := by
  unfold State.atomicGlobal
  extract_lets a near
  refine (s.translate_answers _ _ _ _ hp).bind fun t _ => ?_
  extract_lets pa
  refine (s.present_answers _ _ _ _ _).bind fun _ _ => ?_
  iterate 3 refine (answers_need _ _ _ _).bind fun _ _ => ?_
  split
  · exact s.atomicRemote_answers _ _ _ _ _ _ hp
  · rw [answers_bind_state (s.reach_answers _ _ _ hp)]
    intro u _ hu
    split
    · simp [hu]
    · refine (u.consume_answers _ _ _ _).bind fun _ _ => ?_
      rw [answers_bind_state (u.beforeAtomic_answers _ _ _ hu)]
      intro w _ hw
      have h : Answers Stop.Canonical (fun t => t.phys.wf = true)
          (if pteRec t.pte && !near then w.locationDecision w.seq.ctx.launch 8 (w64 (frameOf pa)) else pure w : Res State) := by
        split
        · exact w.locationDecision_answers _ _ _ hw
        · exact hw
      rw [answers_bind_state h]
      intro y _ hy
      extract_lets ws m r nw z
      refine (y.consume_answers _ _ _ _).bind fun _ _ => ?_
      have hz : z.phys.wf = true := by unfold z; split <;> simp [hy]
      simp [hz]

@[simp] theorem State.hostLaunch_wf (s : State) (q : Session) (hp : s.phys.wf = true) :
    (s.hostLaunch q).phys.wf = true := by
  unfold State.hostLaunch
  extract_lets x pa met
  have ht : MemCanonical met := by
    unfold met
    simp [hp]
  obtain ⟨t, hmet⟩ : ∃ t, t = met := ⟨_, rfl⟩
  rw [← hmet] at ht ⊢
  obtain ⟨check, hcheck⟩ : ∃ f, f = State.checkLaunch := ⟨_, rfl⟩
  rw [← hcheck]
  have henq := fun (u : State) l hu r => State.enqueue_some u l hu (r := r)
  obtain ⟨enq, henq'⟩ : ∃ f, f = State.enqueue := ⟨_, rfl⟩
  rw [← henq'] at henq ⊢
  split
  · rwa [State.reply_phys]
  · split
    · rwa [State.reply_phys]
    · split
      · rwa [State.reply_phys]
      · rename_i u id e
        have hu := henq _ _ (State.putRecord_wf _ _ _ ht) _ e
        have h := u.decide_canonical id 1 0xFFFF (w64 x.a) x.hdr.cookie hu
        extract_lets done
        split <;> rename_i e <;> rw [e] at h
        · rwa [State.reply_phys]
        · split
          · rwa [State.reply_phys, State.tookEntry_phys]
          · exact ht
        · rwa [State.recFull_phys]
        · rwa [State.reply_phys]

@[simp] theorem State.takeContext_answers (s : State) (c : Nat) (hp : s.phys.wf = true) :
    Answers Stop.Canonical (fun r => r.1.phys.wf = true) (s.takeContext c) := by
  unfold State.takeContext
  extract_lets l
  have h := s.storesReach_answers c 9 none l hp
  split <;> rename_i e <;> rw [e] at h
  · exact h
  · simp [hp]
  · rw [answers_ok] at h; simp [h]

@[simp] theorem State.beatWrite_answers (s : State) (c g : Nat) (x : Actor) (loc : Bool) (va : Word) (ws : List CW)
    (hp : s.phys.wf = true) :
    Answers Stop.Canonical (fun t => t.phys.wf = true) (s.beatWrite c g x loc va ws) := by
  unfold State.beatWrite
  simp [hp]

@[simp] theorem State.beatSst_wf (s : State) (c g : Nat) (x : Actor) (sink n : Nat) (loc : Bool) (hp : s.phys.wf = true) :
    (s.beatSst c g x sink n loc).phys.wf = true := by
  unfold State.beatSst
  extract_lets p
  split
  · split
    · exact hp
    · split
      · simp [hp]
      · rename_i b _
        have h := s.beatWrite_answers c g x loc (x.ag.addr x.fired) (b.stored n) hp
        split <;> rename_i e <;> rw [e] at h
        · exact s.stopBeat_wf c g x loc _ hp h
        · rw [answers_ok] at h; simp [h]
      · exact hp
  · exact hp

@[simp] theorem State.endLaunch_wf (s : State) (l : Launch) (hp : s.phys.wf = true) :
    (s.endLaunch l).phys.wf = true := by
  unfold State.endLaunch
  dsimp only
  (repeat' split) <;> simp [hp]

@[simp] theorem State.performColl_wf (s : State) (a : Nat) (o : EngOp) (hp : s.phys.wf = true) :
    (s.performColl a o).phys.wf = true := by
  unfold State.performColl
  split
  · exact hp
  · rename_i c _
    split
    · exact hp
    · rename_i p _
      split
      · exact hp
      · split
        · simp [hp]
        · split
          · exact hp
          · extract_lets r
            have h := s.collWrite_answers a o r.1 r.2 hp
            split <;> rename_i e <;> rw [e] at h
            · exact h
            · rw [answers_ok] at h; simp [h]

@[simp] theorem State.tileAdds_answers (s : State) (c : Nat) (o : EngOp) (ws : List CW) (hp : s.phys.wf = true) :
    Answers (fun t => t.phys.wf = true) (fun r => r.1.phys.wf = true) (s.tileAdds c o ws) := by
  unfold State.tileAdds
  extract_lets n at_ r ps
  split
  · simp [hp]
  · have h := s.publishFenced_answers c o ((List.range ws.length).map at_) hp
    split <;> rename_i e <;> rw [e] at h
    · exact h
    · simp [hp]
    · rename_i t
      extract_lets l
      have h2 := t.addReach_answers c o l h
      split <;> rename_i e <;> rw [e] at h2
      · exact h2
      · rename_i u bad
        rw [answers_ok, State.engineRefused_phys]
        exact foldl_keeps (fun r : State × FlagSet × Used => r.1.phys.wf = true) _ (fun r kw hr => by simp [hr]) _ _ h2

@[simp] theorem State.atomic_leaves (s : State) (word : Word) (x : SM) (o : AOp) (hp : s.phys.wf = true) :
    Leaves (s.atomic word x o) := by
  unfold State.atomic
  simp [hp]

@[simp] theorem State.beatSfill_wf (s : State) (c g : Nat) (x : Actor) (n : Nat) (loc : Bool) (hp : s.phys.wf = true) :
    (s.beatSfill c g x n loc).phys.wf = true := by
  unfold State.beatSfill
  extract_lets w
  have h := s.beatWrite_answers c g x loc (x.ag.addr x.fired) (List.replicate n w) hp
  split <;> rename_i e <;> rw [e] at h
  · exact s.stopBeat_wf c g x loc _ hp h
  · rw [answers_ok] at h; simp [h]

/-- A scatter that stops hands back the state its last lane left. -/
theorem State.scatterLanes_answers (s : State) (c g : Nat) (loc : Bool) (ix data : List CW) (x : Actor) (n : Nat)
    (hp : s.phys.wf = true) :
    Answers (fun r => r.1.Canonical ∧ r.2.2.phys.wf = true) (fun r => r.2.phys.wf = true) (s.scatterLanes c g loc
      ix data x n) := by
  induction n generalizing s x with
  | zero => exact hp
  | succ n ih =>
    rw [State.scatterLanes]
    split
    · exact hp
    · extract_lets k
      split
      · exact ih s _ hp
      · rename_i a _
        have h := s.beatWrite_answers c g x loc a [data.getD k CW.zero] hp
        split <;> rename_i e <;> rw [e] at h
        · exact ih _ _ h
        · exact ⟨h, hp⟩

theorem State.gatherLanes_answers (s : State) (c g : Nat) (loc : Bool) (ix : List CW) (x : Actor) (n : Nat)
    (hp : s.phys.wf = true) :
    Answers (fun r => r.1.Canonical) (fun r => r.2.phys.wf = true) (s.gatherLanes c g loc ix x n) := by
  induction n generalizing s x with
  | zero => exact hp
  | succ n ih =>
    rw [State.gatherLanes]
    split
    · exact hp
    · extract_lets k
      split
      · exact ih s _ hp
      · rename_i a _
        have h := s.beatRead_answers c g x.id loc a 1 hp
        split <;> rename_i e <;> rw [e] at h
        · exact ih _ _ h
        · exact h

@[simp] theorem State.performTile_wf (s : State) (c : Nat) (o : EngOp) (hp : s.phys.wf = true) :
    (s.performTile c o).phys.wf = true := by
  have hread := fun d => s.tileRead_answers c o d hp
  unfold State.performTile
  extract_lets p
  split
  · have h := hread o.td
    split <;> rename_i e <;> rw [e] at h
    · exact h
    · rw [answers_ok] at h
      extract_lets t
      have ht : t.phys.wf = true := by unfold t; split <;> simp [h]
      simp [ht]
  · have h := hread o.td
    split
    · exact hp
    · split <;> rename_i e <;> rw [e] at h
      · exact h
      · rw [answers_ok] at h; simp [h]
  · split
    · exact hp
    · rename_i ws fl _
      have h := s.tileWrite_answers c o o.td ws hp
      split <;> rename_i e <;> rw [e] at h
      · exact h
      · rw [answers_ok] at h; simp [h]
  · split
    · exact hp
    · rename_i ws fl _
      have h := s.tileAdds_answers c o ws hp
      split <;> rename_i e <;> rw [e] at h
      · exact h
      · rw [answers_ok] at h; simp [h]
  · have h1 := hread o.td2
    split <;> rename_i e <;> rw [e] at h1
    · exact h1
    · rename_i t ws bad
      have h2 := t.tileWrite_answers c o o.td ws h1
      split <;> rename_i e <;> rw [e] at h2
      · exact h2
      · rw [answers_ok] at h2; simp [h2]
  · have h := hread o.td
    split
    · exact hp
    · split <;> rename_i e <;> rw [e] at h
      · exact h
      · rw [answers_ok] at h
        dsimp only
        split <;> simp [h]
  · exact hp

@[simp] theorem State.beatSscat_wf (s : State) (c g : Nat) (x : Actor) (sink ixPort : Nat) (loc : Bool)
    (hp : s.phys.wf = true) : (s.beatSscat c g x sink ixPort loc).phys.wf = true := by
  unfold State.beatSscat
  extract_lets p data
  split
  · simp [hp]
  · simp [hp]
  · split
    · split
      · exact hp
      · rename_i b u _ _ _ _ ib _ _
        have h := s.scatterLanes_answers c g loc ib.ws (b.stored 64) x 64 hp
        split <;> rename_i e <;> rw [e] at h
        · exact State.stopBeat_wf _ c g _ loc _ h.2 h.1
        · rw [answers_ok] at h; simp [h]
    · exact hp
  · exact hp

@[simp] theorem State.beatSgath_wf (s : State) (c g : Nat) (x : Actor) (port ixPort : Nat) (loc fin : Bool)
    (hp : s.phys.wf = true) : (s.beatSgath c g x port ixPort loc fin).phys.wf = true := by
  unfold State.beatSgath
  split
  · simp [hp]
  · split
    · exact hp
    · rename_i b _ _ _ _
      have h := s.gatherLanes_answers c g loc b.ws x 64 hp
      split <;> rename_i e <;> rw [e] at h
      · exact State.stopBeat_wf _ c g _ loc _ hp h
      · rw [answers_ok] at h; simp [h]
  · exact hp

@[simp] theorem State.beatOf_wf (s : State) (c g : Nat) (x : Actor) (hp : s.phys.wf = true) :
    (s.beatOf c g x).phys.wf = true := by
  unfold State.beatOf
  split
  · split <;> simp [hp]
  · split <;> simp [hp]
  · simp [hp]
  · simp [hp]
  · simp [hp]
  · exact hp

end Sys2Proof.Machine
end

section
/-! PROOF. Instructions and events: a next state of theirs has canonical memory. -/

namespace Sys2Proof.Machine

@[simp] theorem execEntropyBitsReady_leaves (s : State) (hp : s.phys.wf = true) :
    Leaves (execEntropyBitsReady s) := by
  unfold execEntropyBitsReady
  simp [hp]

@[simp] theorem execPodTempoAlign_leaves (s : State) (hp : s.phys.wf = true) : Leaves (execPodTempoAlign s) := by
  unfold execPodTempoAlign
  simp [hp]

@[simp] theorem execGambitWindowSwitch_leaves (s : State) (hp : s.phys.wf = true) :
    Leaves (execGambitWindowSwitch s) := by
  unfold execGambitWindowSwitch
  split <;> simp [hp]

@[simp] theorem execTraceRingWrite_leaves (s : State) (hp : s.phys.wf = true) : Leaves (execTraceRingWrite s) := by
  unfold execTraceRingWrite
  split <;> simp [hp]

@[simp] theorem execScopeCheckControlWrite_leaves (s : State) (hp : s.phys.wf = true) :
    Leaves (execScopeCheckControlWrite s) := by
  unfold execScopeCheckControlWrite
  split <;> simp [hp]

@[simp] theorem execUcieRetryConfigWrite_leaves (s : State) (hp : s.phys.wf = true) :
    Leaves (execUcieRetryConfigWrite s) := by
  unfold execUcieRetryConfigWrite
  simp [hp]

@[simp] theorem execCollPathWrite_leaves (s : State) (hp : s.phys.wf = true) : Leaves (execCollPathWrite s) := by
  unfold execCollPathWrite
  simp [hp]

@[simp] theorem execPodRangeWrite_leaves (s : State) (hp : s.phys.wf = true) : Leaves (execPodRangeWrite s) := by
  unfold execPodRangeWrite
  simp [hp]

@[simp] theorem execSnptmoWrite_leaves (s : State) (hp : s.phys.wf = true) : Leaves (execSnptmoWrite s) := by
  unfold execSnptmoWrite
  simp [hp]

@[simp] theorem execOwnerReachable_leaves (s : State) (hp : s.phys.wf = true) : Leaves (execOwnerReachable s) := by
  unfold execOwnerReachable
  simp [hp]

@[simp] theorem execDirtyNotice_leaves (s : State) (hp : s.phys.wf = true) : Leaves (execDirtyNotice s) := by
  unfold execDirtyNotice
  simp [hp]

@[simp] theorem execGyordQueryLaunch_leaves (s : State) (hp : s.phys.wf = true) :
    Leaves (execGyordQueryLaunch s) := by
  refine s.hostQuery_leaves _ _ hp fun q id => ?_
  (repeat' split) <;> simp [hp]

@[simp] theorem execGyordEventWait_leaves (s : State) (hp : s.phys.wf = true) : Leaves (execGyordEventWait s) := by
  refine s.hostEvent_leaves _ _ hp fun q e v => ?_
  (repeat' split) <;> simp [hp]

@[simp] theorem execBeatReplay_leaves (s : State) (hp : s.phys.wf = true) : Leaves (execBeatReplay s) := by
  unfold execBeatReplay
  dsimp only
  (repeat' split) <;> simp [hp]

@[simp] theorem execMatrixMarkerEffect_leaves (s : State) (hp : s.phys.wf = true) :
    Leaves (execMatrixMarkerEffect s) := by
  unfold execMatrixMarkerEffect
  dsimp only
  (repeat' split) <;> simp [hp]

@[simp] theorem execFollowOnMmaStart_leaves (s : State) (hp : s.phys.wf = true) :
    Leaves (execFollowOnMmaStart s) := by
  unfold execFollowOnMmaStart
  dsimp only
  (repeat' split) <;> simp [hp]

@[simp] theorem execManagementAcknowledge_leaves (s : State) (hp : s.phys.wf = true) :
    Leaves (execManagementAcknowledge s) := by
  unfold execManagementAcknowledge
  simp [hp]

@[simp] theorem execRecoveryFlashImage_leaves (s : State) (hp : s.phys.wf = true) :
    Leaves (execRecoveryFlashImage s) := by
  unfold execRecoveryFlashImage
  split <;> simp [hp]

@[simp] theorem execManagementRead_leaves (s : State) (hp : s.phys.wf = true) : Leaves (execManagementRead s) := by
  unfold execManagementRead
  simp [hp]

@[simp] theorem execCtxrst_leaves (s : State) (hp : s.phys.wf = true) : Leaves (execCtxrst s) := by
  unfold execCtxrst
  split <;> simp [hp]

@[simp] theorem execDbghalt_leaves (s : State) (hp : s.phys.wf = true) : Leaves (execDbghalt s) := by
  unfold execDbghalt
  simp [hp]

@[simp] theorem execPowerCapSet_leaves (s : State) (hp : s.phys.wf = true) : Leaves (execPowerCapSet s) := by
  unfold execPowerCapSet
  simp [hp]

@[simp] theorem execAcreHot_leaves (s : State) (hp : s.phys.wf = true) : Leaves (execAcreHot s) := by
  unfold execAcreHot
  simp [hp]

@[simp] theorem execDieWarm_leaves (s : State) (hp : s.phys.wf = true) : Leaves (execDieWarm s) := by
  unfold execDieWarm
  split <;> simp [hp]

@[simp] theorem execPowerOnReset_leaves (s : State) (hp : s.phys.wf = true) : Leaves (execPowerOnReset s) := by
  unfold execPowerOnReset
  simp [hp]

@[simp] theorem execTempoStop_leaves (s : State) (hp : s.phys.wf = true) : Leaves (execTempoStop s) := by
  unfold execTempoStop
  simp [hp]

@[simp] theorem execFatalDump_leaves (s : State) (hp : s.phys.wf = true) : Leaves (execFatalDump s) := by
  unfold execFatalDump
  simp [hp]

@[simp] theorem execJournalAppend_leaves (s : State) (hp : s.phys.wf = true) : Leaves (execJournalAppend s) := by
  unfold execJournalAppend
  split <;> simp [hp]

@[simp] theorem execJournalSubmit_leaves (s : State) (hp : s.phys.wf = true) : Leaves (execJournalSubmit s) := by
  unfold execJournalSubmit
  split
  · exact hp
  · exact getD_wf hp fun t e => State.journalStore_some _ _ _ _ hp e

@[simp] theorem execQuiesceTimeout_leaves (s : State) (hp : s.phys.wf = true) : Leaves (execQuiesceTimeout s) := by
  unfold execQuiesceTimeout
  dsimp only
  (repeat' split) <;> simp [hp]

@[simp] theorem execUcieFlitFail_leaves (s : State) (hp : s.phys.wf = true) : Leaves (execUcieFlitFail s) := by
  unfold execUcieFlitFail
  simp [hp]

@[simp] theorem execUcieRetryThreshold_leaves (s : State) (hp : s.phys.wf = true) :
    Leaves (execUcieRetryThreshold s) := by
  unfold execUcieRetryThreshold
  simp [hp]

@[simp] theorem execInvalidationTimeout_leaves (s : State) (hp : s.phys.wf = true) :
    Leaves (execInvalidationTimeout s) := by
  unfold execInvalidationTimeout
  dsimp only
  (repeat' split) <;> simp [hp]

@[simp] theorem execFlitCrcRetry_leaves (s : State) (hp : s.phys.wf = true) : Leaves (execFlitCrcRetry s) := by
  unfold execFlitCrcRetry
  simp [hp]

@[simp] theorem execFlitRelease_leaves (s : State) (hp : s.phys.wf = true) : Leaves (execFlitRelease s) := by
  refine s.flitIn_leaves _ _ hp fun t f ht => ?_
  (repeat' split) <;> simp [ht]

@[simp] theorem execFlitHold_leaves (s : State) (hp : s.phys.wf = true) : Leaves (execFlitHold s) := by
  refine s.flitIn_leaves _ _ hp fun t f ht => ?_
  (repeat' split) <;> simp [ht]

@[simp] theorem execFlitContribution_leaves (s : State) (hp : s.phys.wf = true) :
    Leaves (execFlitContribution s) := by
  refine s.flitIn_leaves _ _ hp fun t f ht => ?_
  (repeat' split) <;> simp [ht]

@[simp] theorem execFlitSnoop_leaves (s : State) (hp : s.phys.wf = true) : Leaves (execFlitSnoop s) := by
  refine s.flitIn_leaves _ _ hp fun t f ht => ?_
  split <;> simp [ht]

@[simp] theorem execFlitResponse_leaves (s : State) (hp : s.phys.wf = true) : Leaves (execFlitResponse s) := by
  refine s.flitIn_leaves _ _ hp fun t f ht => ?_
  dsimp only
  (repeat' split) <;> simp [ht]

@[simp] theorem execFlitRequest_leaves (s : State) (hp : s.phys.wf = true) : Leaves (execFlitRequest s) := by
  refine s.flitIn_leaves _ _ hp fun t f ht => ?_
  dsimp only
  (repeat' split) <;> simp [ht]

@[simp] theorem execKnabryTraining_leaves (s : State) (hp : s.phys.wf = true) : Leaves (execKnabryTraining s) := by
  unfold execKnabryTraining
  simp [hp]

@[simp] theorem execGyordManagement_leaves (s : State) (hp : s.phys.wf = true) : Leaves (execGyordManagement s) := by
  refine s.message_leaves _ _ _ hp fun q => ?_
  split <;> simp [hp]

@[simp] theorem execGyordQueryRcb_leaves (s : State) (hp : s.phys.wf = true) : Leaves (execGyordQueryRcb s) := by
  refine s.hostQuery_leaves _ _ hp fun q id => ?_
  (repeat' split) <;> simp [hp]

@[simp] theorem execGyordEventRead_leaves (s : State) (hp : s.phys.wf = true) : Leaves (execGyordEventRead s) :=
  s.hostEvent_leaves _ _ hp fun q e v => by simp [hp]

@[simp] theorem execGyordHello_leaves (s : State) (hp : s.phys.wf = true) : Leaves (execGyordHello s) := by
  unfold execGyordHello
  simp [hp]

@[simp] theorem execDrainComplete_leaves (s : State) (hp : s.phys.wf = true) : Leaves (execDrainComplete s) := by
  unfold execDrainComplete
  dsimp only
  (repeat' split) <;> simp +contextual [hp]

@[simp] theorem execAccumulatorSpill_leaves (s : State) (hp : s.phys.wf = true) :
    Leaves (execAccumulatorSpill s) := by
  unfold execAccumulatorSpill
  dsimp only
  (repeat' split) <;> simp [hp]

@[simp] theorem execActorPark_leaves (s : State) (hp : s.phys.wf = true) : Leaves (execActorPark s) := by
  unfold execActorPark
  dsimp only
  (repeat' split) <;> simp [hp]

@[simp] theorem execPreemptionEscalation_leaves (s : State) (hp : s.phys.wf = true) :
    Leaves (execPreemptionEscalation s) := by
  unfold execPreemptionEscalation
  simp [hp]

@[simp] theorem execTimecmpWrite_leaves (s : State) (hp : s.phys.wf = true) : Leaves (execTimecmpWrite s) := by
  unfold execTimecmpWrite
  simp [hp]

@[simp] theorem execTimer_leaves (s : State) (hp : s.phys.wf = true) : Leaves (execTimer s) := by
  unfold execTimer
  simp [hp]

@[simp] theorem execHeadlandScrub_leaves (s : State) (hp : s.phys.wf = true) : Leaves (execHeadlandScrub s) := by
  unfold execHeadlandScrub
  simp [hp]

@[simp] theorem execRankStart_leaves (s : State) (hp : s.phys.wf = true) : Leaves (execRankStart s) := by
  unfold execRankStart
  dsimp only
  (repeat' split) <;> simp +contextual [hp]

@[simp] theorem execBackgroundScrub_leaves (s : State) (hp : s.phys.wf = true) : Leaves (execBackgroundScrub s) := by
  unfold execBackgroundScrub
  dsimp only
  (repeat' split) <;> simp [hp]

@[simp] theorem execBankTokenArrival_leaves (s : State) (hp : s.phys.wf = true) :
    Leaves (execBankTokenArrival s) := by
  unfold execBankTokenArrival
  dsimp only
  (repeat' split) <;> simp [hp]

@[simp] theorem execTokenDelivery_leaves (s : State) (hp : s.phys.wf = true) : Leaves (execTokenDelivery s) := by
  unfold execTokenDelivery
  split <;> simp [hp]

@[simp] theorem execEthernetLinkUp_leaves (s : State) (hp : s.phys.wf = true) : Leaves (execEthernetLinkUp s) := by
  unfold execEthernetLinkUp
  simp [hp]

@[simp] theorem execExtint_leaves (s : State) (hp : s.phys.wf = true) : Leaves (execExtint s) :=
  foldl_wf (fun t c ht => by simp [ht]) _ hp

@[simp] theorem execDumpreq_leaves (s : State) (hp : s.phys.wf = true) : Leaves (execDumpreq s) := by
  unfold execDumpreq
  split <;> simp [hp]

@[simp] theorem execOperatingPointChange_leaves (s : State) (hp : s.phys.wf = true) :
    Leaves (execOperatingPointChange s) := by
  unfold execOperatingPointChange
  simp [hp]

@[simp] theorem execModuleReady_leaves (s : State) (hp : s.phys.wf = true) : Leaves (execModuleReady s) := by
  unfold execModuleReady
  extract_lets x s1 s2 s3 s4
  split
  · exact hp
  · refine foldl_wf (fun t l ht => ?_) _ ?_
    · split <;> simp [ht]
    · rw [State.modPower_phys, State.modFabric_phys]
      exact State.buildRoot_wf _ hp

@[simp] theorem execAcrePowerUp_leaves (s : State) (hp : s.phys.wf = true) : Leaves (execAcrePowerUp s) := by
  unfold execAcrePowerUp
  dsimp only
  (repeat' split) <;> simp [hp]

@[simp] theorem execTempostopWarning_leaves (s : State) (hp : s.phys.wf = true) :
    Leaves (execTempostopWarning s) := by
  unfold execTempostopWarning
  simp [hp]

@[simp] theorem execCollectiveSuccess_leaves (s : State) (hp : s.phys.wf = true) :
    Leaves (execCollectiveSuccess s) := by
  unfold execCollectiveSuccess
  split
  · exact hp
  · extract_lets mine landed all busy t off on fl u
    split
    · exact hp
    · simp [u, hp]

@[simp] theorem execFlitCredit_leaves (s : State) (hp : s.phys.wf = true) : Leaves (execFlitCredit s) := by
  unfold execFlitCredit
  exact s.flitIn_leaves _ _ hp fun t f ht => by simp [ht]

@[simp] theorem execNeterr_leaves (s : State) (hp : s.phys.wf = true) : Leaves (execNeterr s) := by
  unfold execNeterr
  split <;> simp [hp]

@[simp] theorem execEnergySample_leaves (s : State) (hp : s.phys.wf = true) : Leaves (execEnergySample s) := by
  unfold execEnergySample
  dsimp only
  (repeat' split) <;> simp [hp]

@[simp] theorem execTokenSend_leaves (s : State) (hp : s.phys.wf = true) : Leaves (execTokenSend s) := by
  unfold execTokenSend
  dsimp only
  (repeat' split) <;> simp [hp]

@[simp] theorem execIstepFiring_leaves (s : State) (hp : s.phys.wf = true) : Leaves (execIstepFiring s) := by
  have turn (x : Actor) (d : D) (ins outs : List (Nat × Nat)) (t : Turn) :=
    s.takeTurn_phys s.evt.a x ins outs t (istepBody_phys s.evt.a x d)
  unfold execIstepFiring
  extract_lets c p
  split
  · exact hp
  · split
    · split
      · exact hp
      · extract_lets io
        split
        · exact hp
        · extract_lets toks again
          split
          · exact hp
          · simp only [leaves_next, State.modPlot_phys]; rwa [turn]
    · exact hp

@[simp] theorem execAgRecordWrite_leaves (s : State) (hp : s.phys.wf = true) : Leaves (execAgRecordWrite s) := by
  unfold execAgRecordWrite
  split
  · exact getD_wf hp fun t e => State.putSpecial_some _ _ _ _ hp e
  · exact hp

@[simp] theorem execFormatWindowWrite_leaves (s : State) (hp : s.phys.wf = true) :
    Leaves (execFormatWindowWrite s) := by
  unfold execFormatWindowWrite
  dsimp only
  split
  · exact getD_wf hp fun t e => State.putSpecial_some _ _ _ _ hp e
  · exact hp

@[simp] theorem execSupervisorResume_leaves (s : State) (hp : s.phys.wf = true) :
    Leaves (execSupervisorResume s) := by
  unfold execSupervisorResume
  simp [hp]

@[simp] theorem execPublishFlip_leaves (s : State) (hp : s.phys.wf = true) : Leaves (execPublishFlip s) := by
  unfold execPublishFlip
  split
  · exact hp
  · rw [leaves_next]; split <;> simp [hp]

@[simp] theorem execHoldchildRelease_leaves (s : State) (hp : s.phys.wf = true) :
    Leaves (execHoldchildRelease s) := by
  unfold execHoldchildRelease
  extract_lets held t
  have ht : t.phys.wf = true := foldl_wf (fun t a ht => by simp [ht]) _ hp
  simp [ht]

@[simp] theorem execDieOvertemp_leaves (s : State) (hp : s.phys.wf = true) : Leaves (execDieOvertemp s) := by
  unfold execDieOvertemp
  simp [hp]

@[simp] theorem execLinkMemoryTraining_leaves (s : State) (hp : s.phys.wf = true) :
    Leaves (execLinkMemoryTraining s) := by
  unfold execLinkMemoryTraining
  simp [hp]

@[simp] theorem execHubRegisterWrite_leaves (s : State) (hp : s.phys.wf = true) :
    Leaves (execHubRegisterWrite s) := by
  unfold execHubRegisterWrite
  dsimp only
  split
  · exact getD_wf hp fun t e => State.hubStore_some _ _ _ _ hp e
  · exact hp

@[simp] theorem execSnoopTimeout_leaves (s : State) (hp : s.phys.wf = true) : Leaves (execSnoopTimeout s) := by
  unfold execSnoopTimeout
  dsimp only
  (repeat' split) <;> simp [hp]

@[simp] theorem execDrainFiring_leaves (s : State) (hp : s.phys.wf = true) : Leaves (execDrainFiring s) := by
  unfold execDrainFiring
  dsimp only
  (repeat' split) <;> simp [hp]

@[simp] theorem execMatrixStep_leaves (s : State) (hp : s.phys.wf = true) : Leaves (execMatrixStep s) := by
  unfold execMatrixStep
  dsimp only
  (repeat' split) <;> simp [hp]

@[simp] theorem execBarrierCompletion_leaves (s : State) (hp : s.phys.wf = true) :
    Leaves (execBarrierCompletion s) := by
  unfold execBarrierCompletion
  split
  · exact hp
  · split
    · exact hp
    · split <;> simp [hp]

@[simp] theorem execDebuggerAccess_leaves (s : State) (hp : s.phys.wf = true) : Leaves (execDebuggerAccess s) := by
  unfold execDebuggerAccess
  dsimp only
  (repeat' split) <;> simp [hp]

@[simp] theorem execQuotaPeriodBoundary_leaves (s : State) (hp : s.phys.wf = true) :
    Leaves (execQuotaPeriodBoundary s) := by
  unfold execQuotaPeriodBoundary
  simp [hp]

@[simp] theorem execBankMarkerEffect_leaves (s : State) (hp : s.phys.wf = true) :
    Leaves (execBankMarkerEffect s) := by
  unfold execBankMarkerEffect
  dsimp only
  (repeat' split) <;> simp [hp]

@[simp] theorem execWatchdogExpiry_leaves (s : State) (hp : s.phys.wf = true) : Leaves (execWatchdogExpiry s) := by
  unfold execWatchdogExpiry
  split <;> simp [hp]

@[simp] theorem execTret_leaves (s : State) (hp : s.phys.wf = true) : Leaves (execTret s) := by
  unfold execTret
  simp [hp]

@[simp] theorem execTrapBrkpt_leaves (x : SC) (s : State) (hp : s.phys.wf = true) : Leaves (execTrapBrkpt x s) := by
  unfold execTrapBrkpt
  simp [hp]

@[simp] theorem execDebugResume_leaves (s : State) (hp : s.phys.wf = true) : Leaves (execDebugResume s) := by
  unfold execDebugResume
  simp [hp]

@[simp] theorem execActorFiring_leaves (s : State) (hp : s.phys.wf = true) : Leaves (execActorFiring s) := by
  unfold execActorFiring
  dsimp only
  split
  · exact hp
  · split
    · rename_i id t e
      obtain ⟨x, -, hx⟩ := List.exists_of_findSome?_eq_some e
      obtain ⟨u, hu, e⟩ := Option.map_eq_some_iff.1 hx
      cases e
      simpa using State.fireVec_some _ _ _ hp hu
    · exact hp

@[simp] theorem execBoundaryException_leaves (s : State) (hp : s.phys.wf = true) :
    Leaves (execBoundaryException s) := by
  unfold execBoundaryException
  dsimp only
  (repeat' split) <;> simp [hp]

@[simp] theorem execUndefinedWord_leaves (w : BitVec 64) (s : State) (hp : s.phys.wf = true) :
    Leaves (execUndefinedWord w s) := by
  unfold execUndefinedWord
  split <;> simp [hp]

@[simp] theorem execTrap_leaves (x : SC) (s : State) (hp : s.phys.wf = true) : Leaves (execTrap x s) := by
  unfold execTrap
  simp [hp]

@[simp] theorem execHalt_leaves (s : State) (hp : s.phys.wf = true) : Leaves (execHalt s) := by
  unfold execHalt
  simp +contextual [hp]

@[simp] theorem execJalr_leaves (x : SB) (s : State) (hp : s.phys.wf = true) : Leaves (execJalr x s) := by
  unfold execJalr
  simp [hp]

@[simp] theorem execJal_leaves (x : SB) (s : State) (hp : s.phys.wf = true) : Leaves (execJal x s) := by
  unfold execJal
  simp [hp]

@[simp] theorem execDirectoryEvict_leaves (s : State) (hp : s.phys.wf = true) : Leaves (execDirectoryEvict s) := by
  unfold execDirectoryEvict
  dsimp only
  (repeat' split) <;> simp [hp]

@[simp] theorem execWindowFill_leaves (s : State) (hp : s.phys.wf = true) : Leaves (execWindowFill s) := by
  unfold execWindowFill
  dsimp only
  (repeat' split) <;> simp [hp]

@[simp] theorem execCfgblk_leaves (x : D) (s : State) (hp : s.phys.wf = true) : Leaves (execCfgblk x s) := by
  unfold execCfgblk
  simp [hp]

@[simp] theorem execRtab_leaves (x : D) (s : State) (hp : s.phys.wf = true) : Leaves (execRtab x s) := by
  unfold execRtab
  simp [hp]

@[simp] theorem execRouteExpect_leaves (x : D) (s : State) (hp : s.phys.wf = true) :
    Leaves (execRouteExpect x s) := by
  unfold execRouteExpect
  simp [hp]

@[simp] theorem execRouteFile_leaves (x : D) (s : State) (hp : s.phys.wf = true) : Leaves (execRouteFile x s) := by
  unfold execRouteFile
  simp [hp]

@[simp] theorem execRouteRank_leaves (x : D) (s : State) (hp : s.phys.wf = true) : Leaves (execRouteRank x s) := by
  unfold execRouteRank
  simp [hp]

@[simp] theorem execRouteRemote_leaves (x : D) (s : State) (hp : s.phys.wf = true) :
    Leaves (execRouteRemote x s) := by
  unfold execRouteRemote
  simp [hp]

@[simp] theorem execRouteLocal_leaves (x : D) (s : State) (hp : s.phys.wf = true) : Leaves (execRouteLocal x s) := by
  unfold execRouteLocal
  simp [hp]

@[simp] theorem execIloadImage_leaves (x : D) (s : State) (hp : s.phys.wf = true) : Leaves (execIloadImage x s) := by
  unfold execIloadImage
  dsimp only
  (repeat' split) <;> simp [hp]

@[simp] theorem execIsave_leaves (x : D) (s : State) (hp : s.phys.wf = true) : Leaves (execIsave x s) := by
  unfold execIsave
  simp [hp]

@[simp] theorem execIflags_leaves (x : D) (s : State) (hp : s.phys.wf = true) : Leaves (execIflags x s) := by
  unfold execIflags
  simp [hp]

@[simp] theorem execIinjectPort_leaves (x : D) (s : State) (hp : s.phys.wf = true) :
    Leaves (execIinjectPort x s) := by
  unfold execIinjectPort
  simp [hp]

@[simp] theorem execIinject_leaves (x : D) (s : State) (hp : s.phys.wf = true) : Leaves (execIinject x s) := by
  unfold execIinject
  simp [hp]

@[simp] theorem execIstreamOff_leaves (s : State) (hp : s.phys.wf = true) : Leaves (execIstreamOff s) := by
  unfold execIstreamOff
  simp [hp]

@[simp] theorem execIstream_leaves (x : D) (s : State) (hp : s.phys.wf = true) : Leaves (execIstream x s) := by
  unfold execIstream
  simp [hp]

@[simp] theorem execIsample_leaves (x : D) (s : State) (hp : s.phys.wf = true) : Leaves (execIsample x s) := by
  unfold execIsample
  simp [hp]

@[simp] theorem execIstep_leaves (x : D) (s : State) (hp : s.phys.wf = true) : Leaves (execIstep x s) := by
  unfold execIstep
  simp [hp]

@[simp] theorem execIunwire_leaves (x : D) (s : State) (hp : s.phys.wf = true) : Leaves (execIunwire x s) := by
  unfold execIunwire
  simp [hp]

@[simp] theorem execIwire_leaves (x : D) (s : State) (hp : s.phys.wf = true) : Leaves (execIwire x s) := by
  unfold execIwire
  simp [hp]

@[simp] theorem execIset_leaves (x : D) (s : State) (hp : s.phys.wf = true) : Leaves (execIset x s) := by
  unfold execIset
  simp [hp]

@[simp] theorem execIcfg_leaves (x : D) (s : State) (hp : s.phys.wf = true) : Leaves (execIcfg x s) := by
  unfold execIcfg
  dsimp only
  (repeat' split) <;> simp [hp]

@[simp] theorem execAspill_leaves (x : D) (s : State) (hp : s.phys.wf = true) : Leaves (execAspill x s) := by
  unfold execAspill
  dsimp only
  (repeat' split) <;> simp [hp]

@[simp] theorem execAmirror_leaves (x : D) (s : State) (hp : s.phys.wf = true) : Leaves (execAmirror x s) := by
  unfold execAmirror
  simp [hp]

@[simp] theorem execWrel_leaves (x : D) (s : State) (hp : s.phys.wf = true) : Leaves (execWrel x s) := by
  unfold execWrel
  simp [hp]

@[simp] theorem execWld_leaves (x : D) (s : State) (hp : s.phys.wf = true) : Leaves (execWld x s) := by
  unfold execWld
  simp [hp]

@[simp] theorem execArel_leaves (x : D) (s : State) (hp : s.phys.wf = true) : Leaves (execArel x s) := by
  unfold execArel
  simp [hp]

@[simp] theorem execAdrain_leaves (x : D) (s : State) (hp : s.phys.wf = true) : Leaves (execAdrain x s) := by
  unfold execAdrain
  simp [hp]

@[simp] theorem execAzero_leaves (x : D) (s : State) (hp : s.phys.wf = true) : Leaves (execAzero x s) := by
  unfold execAzero
  simp [hp]

@[simp] theorem execMma_leaves (x : D) (s : State) (hp : s.phys.wf = true) : Leaves (execMma x s) := by
  unfold execMma
  simp [hp]

@[simp] theorem execColl_leaves (x : D) (s : State) (hp : s.phys.wf = true) : Leaves (execColl x s) := by
  unfold execColl
  extract_lets word a
  rw [settle_leaves hp]
  refine (s.datapath_answers _).bind fun _ _ => ?_
  refine (answers_need _ _ _ _).bind fun _ _ => ?_
  refine (s.translate_answers _ _ _ _ hp).bind fun t _ => ?_
  refine (answers_need _ _ _ _).bind fun _ _ => ?_
  rw [answers_bind_snd (s.readWords_answers _ _ _ _ hp)]
  intro ws u _ hu
  refine (u.consume_answers _ _ _ _).bind fun _ _ => ?_
  extract_lets b
  iterate 5 refine (answers_need _ _ _ _).bind fun _ _ => ?_
  refine (u.collPages_answers _ _ _ hu).bind fun ts _ => ?_
  refine (u.collPages_answers _ _ _ hu).bind fun td _ => ?_
  refine (u.collPages_answers _ _ _ hu).bind fun tc _ => ?_
  split
  · exact answers_trap _ _ _ _
  · iterate 3 refine (answers_need _ _ _ _).bind fun _ _ => ?_
    refine (u.sources_answers _ _).bind fun _ _ => ?_
    extract_lets o id
    rw [answers_bind_state (u.issueOp_answers _ _ _ hu)]
    intro v _ hv
    dsimp only
    rw [answers_pure]
    simp [hv]

@[simp] theorem execCpymm_leaves (x : D) (s : State) (hp : s.phys.wf = true) : Leaves (execCpymm x s) := by
  unfold execCpymm
  simp [hp]

@[simp] theorem execCpy_leaves (x : D) (s : State) (hp : s.phys.wf = true) : Leaves (execCpy x s) := by
  unfold execCpy
  simp [hp]

@[simp] theorem execTcpy_leaves (x : D) (s : State) (hp : s.phys.wf = true) : Leaves (execTcpy x s) := by
  unfold execTcpy
  simp [hp]

@[simp] theorem execTst_leaves (x : D) (s : State) (hp : s.phys.wf = true) : Leaves (execTst x s) :=
  s.issueTile_leaves _ _ _ _ hp fun _ _ => trivial

@[simp] theorem execTlda_leaves (x : D) (s : State) (hp : s.phys.wf = true) : Leaves (execTlda x s) := by
  unfold execTlda
  simp [hp]

@[simp] theorem execTld_leaves (x : D) (s : State) (hp : s.phys.wf = true) : Leaves (execTld x s) := by
  unfold execTld
  simp [hp]

@[simp] theorem execTdset_leaves (x : D) (s : State) (hp : s.phys.wf = true) : Leaves (execTdset x s) := by
  unfold execTdset
  simp [hp]

@[simp] theorem execBttake_leaves (x : D) (s : State) (hp : s.phys.wf = true) : Leaves (execBttake x s) := by
  unfold execBttake
  simp [hp]

@[simp] theorem execBtgive_leaves (x : D) (s : State) (hp : s.phys.wf = true) : Leaves (execBtgive x s) := by
  unfold execBtgive
  simp [hp]

@[simp] theorem execSbar_leaves (x : D) (s : State) (hp : s.phys.wf = true) : Leaves (execSbar x s) := by
  unfold execSbar
  dsimp only
  (repeat' split) <;> simp [hp]

@[simp] theorem execSscat_leaves (x : D) (s : State) (hp : s.phys.wf = true) : Leaves (execSscat x s) := by
  unfold execSscat
  simp [hp]

@[simp] theorem execSgath_leaves (x : D) (s : State) (hp : s.phys.wf = true) : Leaves (execSgath x s) := by
  unfold execSgath
  simp [hp]

@[simp] theorem execSst_leaves (x : D) (s : State) (hp : s.phys.wf = true) : Leaves (execSst x s) := by
  unfold execSst
  simp [hp]

@[simp] theorem execSld_leaves (x : D) (s : State) (hp : s.phys.wf = true) : Leaves (execSld x s) := by
  unfold execSld
  simp [hp]

@[simp] theorem execSrst_leaves (x : D) (s : State) (hp : s.phys.wf = true) : Leaves (execSrst x s) := by
  unfold execSrst
  simp [hp]

@[simp] theorem execAgidx_leaves (x : D) (s : State) (hp : s.phys.wf = true) : Leaves (execAgidx x s) := by
  unfold execAgidx
  simp [hp]

@[simp] theorem execSloop_leaves (x : D) (s : State) (hp : s.phys.wf = true) : Leaves (execSloop x s) := by
  unfold execSloop
  simp [hp]

@[simp] theorem execAgloop_leaves (x : D) (s : State) (hp : s.phys.wf = true) : Leaves (execAgloop x s) := by
  unfold execAgloop
  simp [hp]

@[simp] theorem execAgbase_leaves (x : D) (s : State) (hp : s.phys.wf = true) : Leaves (execAgbase x s) := by
  unfold execAgbase
  simp [hp]

@[simp] theorem execPfrom_leaves (x : V) (s : State) (hp : s.phys.wf = true) : Leaves (execPfrom x s) := by
  unfold execPfrom
  simp [hp]

@[simp] theorem execPgen_leaves (x : V) (s : State) (hp : s.phys.wf = true) : Leaves (execPgen x s) := by
  unfold execPgen
  simp [hp]

@[simp] theorem execPnot_leaves (x : V) (s : State) (hp : s.phys.wf = true) : Leaves (execPnot x s) := by
  unfold execPnot
  simp [hp]

@[simp] theorem execPor_leaves (x : V) (s : State) (hp : s.phys.wf = true) : Leaves (execPor x s) := by
  unfold execPor
  simp [hp]

@[simp] theorem execPand_leaves (x : V) (s : State) (hp : s.phys.wf = true) : Leaves (execPand x s) := by
  unfold execPand
  simp [hp]

@[simp] theorem execVmerge_leaves (x : V) (s : State) (hp : s.phys.wf = true) : Leaves (execVmerge x s) := by
  unfold execVmerge
  simp [hp]

@[simp] theorem execVsteer_leaves (x : V) (s : State) (hp : s.phys.wf = true) : Leaves (execVsteer x s) := by
  unfold execVsteer
  simp [hp]

@[simp] theorem execVtos_leaves (x : V) (s : State) (hp : s.phys.wf = true) : Leaves (execVtos x s) := by
  unfold execVtos
  dsimp only
  (repeat' split) <;> simp [hp]

@[simp] theorem execVscan_leaves (x : V) (s : State) (hp : s.phys.wf = true) : Leaves (execVscan x s) := by
  unfold execVscan
  dsimp only
  (repeat' split) <;> simp [hp]

@[simp] theorem execVarst_leaves (x : V) (s : State) (hp : s.phys.wf = true) : Leaves (execVarst x s) := by
  unfold execVarst
  simp [hp]

@[simp] theorem execVacc_leaves (x : V) (s : State) (hp : s.phys.wf = true) : Leaves (execVacc x s) := by
  unfold execVacc
  simp [hp]

@[simp] theorem execVredmin_leaves (x : V) (s : State) (hp : s.phys.wf = true) : Leaves (execVredmin x s) := by
  unfold execVredmin
  simp [hp]

@[simp] theorem execVredmax_leaves (x : V) (s : State) (hp : s.phys.wf = true) : Leaves (execVredmax x s) := by
  unfold execVredmax
  simp [hp]

@[simp] theorem execVredadd_leaves (x : V) (s : State) (hp : s.phys.wf = true) : Leaves (execVredadd x s) := by
  unfold execVredadd
  simp [hp]

@[simp] theorem execVbcast_leaves (x : V) (s : State) (hp : s.phys.wf = true) : Leaves (execVbcast x s) := by
  unfold execVbcast
  simp [hp]

@[simp] theorem execVshuf_leaves (x : V) (s : State) (hp : s.phys.wf = true) : Leaves (execVshuf x s) := by
  unfold execVshuf
  simp [hp]

@[simp] theorem execVunpack_leaves (x : V) (s : State) (hp : s.phys.wf = true) : Leaves (execVunpack x s) := by
  unfold execVunpack
  simp [hp]

@[simp] theorem execVpack_leaves (x : V) (s : State) (hp : s.phys.wf = true) : Leaves (execVpack x s) := by
  unfold execVpack
  simp [hp]

@[simp] theorem execVdqmx_leaves (x : V) (s : State) (hp : s.phys.wf = true) : Leaves (execVdqmx x s) := by
  unfold execVdqmx
  simp [hp]

@[simp] theorem execVqmx_leaves (x : V) (s : State) (hp : s.phys.wf = true) : Leaves (execVqmx x s) := by
  unfold execVqmx
  simp [hp]

@[simp] theorem execVcvt_leaves (x : V) (s : State) (hp : s.phys.wf = true) : Leaves (execVcvt x s) := by
  unfold execVcvt
  simp [hp]

@[simp] theorem execVscale_leaves (x : V) (s : State) (hp : s.phys.wf = true) : Leaves (execVscale x s) := by
  unfold execVscale
  simp [hp]

@[simp] theorem execVrng_leaves (x : V) (s : State) (hp : s.phys.wf = true) : Leaves (execVrng x s) := by
  unfold execVrng
  simp [hp]

@[simp] theorem execViota_leaves (x : V) (s : State) (hp : s.phys.wf = true) : Leaves (execViota x s) := by
  unfold execViota
  simp [hp]

@[simp] theorem execVmov_leaves (x : V) (s : State) (hp : s.phys.wf = true) : Leaves (execVmov x s) := by
  unfold execVmov
  simp [hp]

@[simp] theorem execVsel_leaves (x : V) (s : State) (hp : s.phys.wf = true) : Leaves (execVsel x s) := by
  unfold execVsel
  simp [hp]

@[simp] theorem execVcmple_leaves (x : V) (s : State) (hp : s.phys.wf = true) : Leaves (execVcmple x s) := by
  unfold execVcmple
  simp [hp]

@[simp] theorem execVcmplt_leaves (x : V) (s : State) (hp : s.phys.wf = true) : Leaves (execVcmplt x s) := by
  unfold execVcmplt
  simp [hp]

@[simp] theorem execVcmpeq_leaves (x : V) (s : State) (hp : s.phys.wf = true) : Leaves (execVcmpeq x s) := by
  unfold execVcmpeq
  simp [hp]

@[simp] theorem execVsra_leaves (x : V) (s : State) (hp : s.phys.wf = true) : Leaves (execVsra x s) := by
  unfold execVsra
  simp [hp]

@[simp] theorem execVshr_leaves (x : V) (s : State) (hp : s.phys.wf = true) : Leaves (execVshr x s) := by
  unfold execVshr
  simp [hp]

@[simp] theorem execVshl_leaves (x : V) (s : State) (hp : s.phys.wf = true) : Leaves (execVshl x s) := by
  unfold execVshl
  simp [hp]

@[simp] theorem execVxor_leaves (x : V) (s : State) (hp : s.phys.wf = true) : Leaves (execVxor x s) := by
  unfold execVxor
  simp [hp]

@[simp] theorem execVor_leaves (x : V) (s : State) (hp : s.phys.wf = true) : Leaves (execVor x s) := by
  unfold execVor
  simp [hp]

@[simp] theorem execVand_leaves (x : V) (s : State) (hp : s.phys.wf = true) : Leaves (execVand x s) := by
  unfold execVand
  simp [hp]

@[simp] theorem execVclamp_leaves (x : V) (s : State) (hp : s.phys.wf = true) : Leaves (execVclamp x s) := by
  unfold execVclamp
  simp [hp]

@[simp] theorem execVneg_leaves (x : V) (s : State) (hp : s.phys.wf = true) : Leaves (execVneg x s) := by
  unfold execVneg
  simp [hp]

@[simp] theorem execVabs_leaves (x : V) (s : State) (hp : s.phys.wf = true) : Leaves (execVabs x s) := by
  unfold execVabs
  simp [hp]

@[simp] theorem execVmax_leaves (x : V) (s : State) (hp : s.phys.wf = true) : Leaves (execVmax x s) := by
  unfold execVmax
  simp [hp]

@[simp] theorem execVmin_leaves (x : V) (s : State) (hp : s.phys.wf = true) : Leaves (execVmin x s) := by
  unfold execVmin
  simp [hp]

@[simp] theorem execVlog2_leaves (x : V) (s : State) (hp : s.phys.wf = true) : Leaves (execVlog2 x s) := by
  unfold execVlog2
  simp [hp]

@[simp] theorem execVexp2_leaves (x : V) (s : State) (hp : s.phys.wf = true) : Leaves (execVexp2 x s) := by
  unfold execVexp2
  simp [hp]

@[simp] theorem execVrsq_leaves (x : V) (s : State) (hp : s.phys.wf = true) : Leaves (execVrsq x s) := by
  unfold execVrsq
  simp [hp]

@[simp] theorem execVrcp_leaves (x : V) (s : State) (hp : s.phys.wf = true) : Leaves (execVrcp x s) := by
  unfold execVrcp
  simp [hp]

@[simp] theorem execVsqrt_leaves (x : V) (s : State) (hp : s.phys.wf = true) : Leaves (execVsqrt x s) := by
  unfold execVsqrt
  simp [hp]

@[simp] theorem execVdiv_leaves (x : V) (s : State) (hp : s.phys.wf = true) : Leaves (execVdiv x s) := by
  unfold execVdiv
  simp [hp]

@[simp] theorem execVfnma_leaves (x : V) (s : State) (hp : s.phys.wf = true) : Leaves (execVfnma x s) := by
  unfold execVfnma
  simp [hp]

@[simp] theorem execVfms_leaves (x : V) (s : State) (hp : s.phys.wf = true) : Leaves (execVfms x s) := by
  unfold execVfms
  simp [hp]

@[simp] theorem execVfma_leaves (x : V) (s : State) (hp : s.phys.wf = true) : Leaves (execVfma x s) := by
  unfold execVfma
  simp [hp]

@[simp] theorem execVmul_leaves (x : V) (s : State) (hp : s.phys.wf = true) : Leaves (execVmul x s) := by
  unfold execVmul
  simp [hp]

@[simp] theorem execVsub_leaves (x : V) (s : State) (hp : s.phys.wf = true) : Leaves (execVsub x s) := by
  unfold execVsub
  simp [hp]

@[simp] theorem execVadd_leaves (x : V) (s : State) (hp : s.phys.wf = true) : Leaves (execVadd x s) := by
  unfold execVadd
  simp [hp]

@[simp] theorem execMbox_leaves (x : SC) (s : State) (hp : s.phys.wf = true) : Leaves (execMbox x s) := by
  unfold execMbox
  simp [hp]

@[simp] theorem execTempostop_leaves (x : SC) (s : State) (hp : s.phys.wf = true) : Leaves (execTempostop x s) := by
  unfold execTempostop
  split <;> simp [hp]

@[simp] theorem execJrnlrd_leaves (x : SC) (s : State) (hp : s.phys.wf = true) : Leaves (execJrnlrd x s) := by
  unfold execJrnlrd
  split <;> simp [hp]

@[simp] theorem execDirq_leaves (x : SC) (s : State) (hp : s.phys.wf = true) : Leaves (execDirq x s) := by
  unfold execDirq
  simp [hp]

@[simp] theorem execLnkst_leaves (x : SC) (s : State) (hp : s.phys.wf = true) : Leaves (execLnkst x s) := by
  unfold execLnkst
  split <;> simp [hp]

@[simp] theorem execLnkctlMargin_leaves (x : SC) (s : State) (hp : s.phys.wf = true) :
    Leaves (execLnkctlMargin x s) := by
  unfold execLnkctlMargin
  extract_lets word
  rw [settle_leaves hp, answers_bind_snd (s.lnkctl_answers _ _ _ hp)]
  intro l t _ ht
  refine (answers_need _ _ _ _).bind fun _ _ => ?_
  dsimp only
  rw [answers_pure]
  simp [ht]

@[simp] theorem execLnkctlResume_leaves (x : SC) (s : State) (hp : s.phys.wf = true) :
    Leaves (execLnkctlResume x s) := by
  unfold execLnkctlResume
  simp +contextual [hp]

@[simp] theorem execLnkctlRetrain_leaves (x : SC) (s : State) (hp : s.phys.wf = true) :
    Leaves (execLnkctlRetrain x s) := by
  unfold execLnkctlRetrain
  extract_lets word v width
  rw [settle_leaves hp, answers_bind_snd (s.lnkctl_answers _ _ _ hp)]
  intro l t _ ht
  refine (answers_need _ _ _ _).bind fun _ _ => ?_
  extract_lets k u w
  have hw : w.phys.wf = true := by unfold w u; split <;> simp [ht]
  split
  · simp [ht]
  · simp [hw]

@[simp] theorem execLnkctlRemap_leaves (x : SC) (s : State) (hp : s.phys.wf = true) :
    Leaves (execLnkctlRemap x s) := by
  unfold execLnkctlRemap
  extract_lets word v
  rw [settle_leaves hp, answers_bind_snd (s.lnkctl_answers _ _ _ hp)]
  intro l t _ ht
  refine (answers_need _ _ _ _).bind fun _ _ => ?_
  extract_lets k u w y
  refine (answers_need _ _ _ _).bind fun _ _ => ?_
  have hy : y.phys.wf = true := by unfold y w u; split <;> simp [ht]
  simp [hy]

@[simp] theorem execRelink_leaves (x : SC) (s : State) (hp : s.phys.wf = true) : Leaves (execRelink x s) := by
  unfold execRelink
  extract_lets word a
  rw [settle_leaves hp]
  refine (s.hubOnly_answers _).bind fun _ _ => ?_
  refine (answers_need _ _ _ _).bind fun _ _ => ?_
  refine (s.reachPages_answers _ _ _ _ hp).bind fun _ _ => ?_
  rw [answers_bind_snd (s.readSpan_answers _ _ hp)]
  intro hd t _ ht
  refine (consumeLocal_answers _ _).bind fun _ _ => ?_
  extract_lets w n
  refine (answers_need _ _ _ _).bind fun _ _ => ?_
  refine (t.reachPages_answers _ _ _ _ ht).bind fun _ _ => ?_
  rw [answers_bind_snd (t.readSpan_answers _ _ ht)]
  intro ws u _ hu
  refine (consumeLocal_answers _ _).bind fun _ _ => ?_
  refine (u.relinkAreas_answers _ _ _ hu).bind fun es _ => ?_
  extract_lets launch
  refine (answers_need _ _ _ _).bind fun _ _ => ?_
  obtain ⟨place, hplace⟩ : ∃ f, f = u.relinkPlace := ⟨_, rfl⟩
  rw [← hplace]
  split
  · exact answers_trap _ _ _ _
  · split
    · exact answers_trap _ _ _ _
    · rename_i l _ _ k m ts as _
      have hv := u.markRelinked_wf es as (m.frac != 0) hu
      extract_lets u1 u2
      have h1 : MemCanonical u1 := hv
      clear_value u1
      have h2 : MemCanonical u2 := by unfold u2; rw [memCanonical_iff, State.setReg_phys]; exact State.retract_wf _ _ _ _ h1
      clear_value u2
      rw [answers_pure, State.retire_phys, State.watchAccess_phys, State.watchAccess_phys]
      exact h2

@[simp] theorem execCtxload_leaves (x : SC) (s : State) (hp : s.phys.wf = true) : Leaves (execCtxload x s) := by
  unfold execCtxload
  simp only [settle_leaves, answers_bind_calm, State.hubOnly_answers, State.target_answers, answers_need,
    State.areaPa_answers, hp]
  intros
  split
  · simp
  · simp only [answers_bind_calm, answers_need]
    intros
    split
    · simp [hp]
    · split
      · simp [hp]
      · have ht := State.bumpPlot_some _ _ (s.sampleAcre_wf _ hp) ‹_›
        simp [ht]

@[simp] theorem execDrainmk_leaves (x : SC) (s : State) (hp : s.phys.wf = true) : Leaves (execDrainmk x s) := by
  unfold execDrainmk
  dsimp only
  (repeat' split) <;> simp +contextual [hp]

@[simp] theorem execTmask_leaves (x : SC) (s : State) (hp : s.phys.wf = true) : Leaves (execTmask x s) := by
  unfold execTmask
  simp [hp]

@[simp] theorem execScrub_leaves (x : SC) (s : State) (hp : s.phys.wf = true) : Leaves (execScrub x s) := by
  unfold execScrub
  split <;> simp [hp]

@[simp] theorem execGenbump_leaves (x : SC) (s : State) (hp : s.phys.wf = true) : Leaves (execGenbump x s) := by
  unfold execGenbump
  simp only [settle_leaves, answers_bind_calm, State.hubOnly_answers, State.target_answers, answers_need, hp]
  intros
  split
  · simp [hp]
  · have ht := State.bumpPlot_some _ _ hp ‹_›
    simp [ht]

@[simp] theorem execCarryi_leaves (x : SC) (s : State) (hp : s.phys.wf = true) : Leaves (execCarryi x s) := by
  unfold execCarryi
  extract_lets word n a ptr p
  rw [settle_leaves hp]
  split
  · exact stall_answers hp
  · refine (answers_need _ _ _ _).bind fun _ _ => ?_
    refine (s.reachPages_answers _ _ _ _ hp).bind fun _ _ => ?_
    rw [answers_bind_snd (s.readSpan_answers _ _ hp)]
    intro hd t _ ht
    dsimp -zeta only
    split
    · exact answers_trap _ _ _ _
    · extract_lets e0 e size
      refine (t.reachPages_answers _ _ _ _ ht).bind fun _ _ => ?_
      refine (answers_need _ _ _ _).bind fun _ _ => ?_
      refine (t.localCheck_answers _ _).bind fun _ _ => ?_
      refine (t.sources_answers _ _).bind fun _ _ => ?_
      rw [answers_bind_snd (t.readSpan_answers _ _ ht)]
      intro ws u _ hu
      simp [hu]

@[simp] theorem execCarryx_leaves (x : SC) (s : State) (hp : s.phys.wf = true) : Leaves (execCarryx x s) := by
  unfold execCarryx
  dsimp only
  (repeat' split) <;> simp [hp]

@[simp] theorem execStashdecl_leaves (x : SC) (s : State) (hp : s.phys.wf = true) : Leaves (execStashdecl x s) := by
  unfold execStashdecl
  dsimp only
  (repeat' split) <;> simp [hp]

@[simp] theorem execSeed_leaves (x : SC) (s : State) (hp : s.phys.wf = true) : Leaves (execSeed x s) := by
  unfold execSeed
  simp +contextual [hp]

@[simp] theorem execEvrst_leaves (x : SC) (s : State) (hp : s.phys.wf = true) : Leaves (execEvrst x s) := by
  unfold execEvrst
  simp [hp]

@[simp] theorem execEvwait_leaves (x : SC) (s : State) (hp : s.phys.wf = true) : Leaves (execEvwait x s) := by
  unfold execEvwait
  simp [hp]

@[simp] theorem execBarwait_leaves (x : SC) (s : State) (hp : s.phys.wf = true) : Leaves (execBarwait x s) := by
  unfold execBarwait
  simp [hp]

@[simp] theorem execCbwait_leaves (x : SC) (s : State) (hp : s.phys.wf = true) : Leaves (execCbwait x s) := by
  unfold execCbwait
  dsimp only
  (repeat' split) <;> simp [hp]

@[simp] theorem execCbclose_leaves (s : State) (hp : s.phys.wf = true) : Leaves (execCbclose s) := by
  unfold execCbclose
  rw [settle_leaves hp]
  split
  · rw [answers_pure, State.retire_phys]
    split <;> simp [hp]
  · exact stall_answers hp

@[simp] theorem execTagclr_leaves (x : SC) (s : State) (hp : s.phys.wf = true) : Leaves (execTagclr x s) := by
  unfold execTagclr
  simp [hp]

@[simp] theorem execTagff_leaves (x : SC) (s : State) (hp : s.phys.wf = true) : Leaves (execTagff x s) := by
  unfold execTagff
  simp [hp]

@[simp] theorem execTagwaitall_leaves (x : SC) (s : State) (hp : s.phys.wf = true) : Leaves (execTagwaitall x s) := by
  unfold execTagwaitall
  simp [hp]

@[simp] theorem execTagwaitany_leaves (x : SC) (s : State) (hp : s.phys.wf = true) : Leaves (execTagwaitany x s) := by
  unfold execTagwaitany
  simp [hp]

@[simp] theorem execSwr_leaves (x : SC) (s : State) (hp : s.phys.wf = true) : Leaves (execSwr x s) := by
  unfold execSwr
  simp [hp]

@[simp] theorem execSrd_leaves (x : SC) (s : State) (hp : s.phys.wf = true) : Leaves (execSrd x s) := by
  unfold execSrd
  simp [hp]

@[simp] theorem execProgress_leaves (x : SB) (s : State) (hp : s.phys.wf = true) : Leaves (execProgress x s) := by
  unfold execProgress
  simp [hp]

@[simp] theorem execYield_leaves (s : State) (hp : s.phys.wf = true) : Leaves (execYield s) := by
  unfold execYield
  simp [hp]

@[simp] theorem execNop_leaves (s : State) (hp : s.phys.wf = true) : Leaves (execNop s) := by
  unfold execNop
  simp [hp]

@[simp] theorem execLoop_leaves (x : SB) (s : State) (hp : s.phys.wf = true) : Leaves (execLoop x s) := by
  unfold execLoop
  simp [hp]

@[simp] theorem execJ_leaves (x : SB) (s : State) (hp : s.phys.wf = true) : Leaves (execJ x s) := by
  unfold execJ
  simp [hp]

@[simp] theorem execBltu_leaves (x : SB) (s : State) (hp : s.phys.wf = true) : Leaves (execBltu x s) := by
  unfold execBltu
  simp [hp]

@[simp] theorem execBge_leaves (x : SB) (s : State) (hp : s.phys.wf = true) : Leaves (execBge x s) := by
  unfold execBge
  simp [hp]

@[simp] theorem execBlt_leaves (x : SB) (s : State) (hp : s.phys.wf = true) : Leaves (execBlt x s) := by
  unfold execBlt
  simp [hp]

@[simp] theorem execBne_leaves (x : SB) (s : State) (hp : s.phys.wf = true) : Leaves (execBne x s) := by
  unfold execBne
  simp [hp]

@[simp] theorem execBeq_leaves (x : SB) (s : State) (hp : s.phys.wf = true) : Leaves (execBeq x s) := by
  unfold execBeq
  simp [hp]

@[simp] theorem execPublish_leaves (x : SM) (s : State) (hp : s.phys.wf = true) : Leaves (execPublish x s) := by
  unfold execPublish
  extract_lets a len vas
  rw [settle_leaves hp]
  refine (answers_need _ _ _ _).bind fun _ _ => ?_
  refine (answers_need _ _ _ _).bind fun _ _ => ?_
  refine (answers_mapM (fun va => s.translate_answers s.cur 0 va 1 hp) vas).bind fun ts _ => ?_
  extract_lets l
  split
  · exact answers_trap _ _ _ _
  · split
    · exact answers_trap _ _ _ _
    · refine (s.sources_answers _ _).bind fun _ _ => ?_
      split
      · exact stall_answers hp
      · rw [answers_pure, State.retire_phys, State.setReg_phys]
        exact hp

@[simp] theorem execPhaseAr_leaves (x : SM) (s : State) (hp : s.phys.wf = true) : Leaves (execPhaseAr x s) := by
  unfold execPhaseAr
  simp [hp]

@[simp] theorem execPhaseRel_leaves (x : SM) (s : State) (hp : s.phys.wf = true) : Leaves (execPhaseRel x s) := by
  unfold execPhaseRel
  simp [hp]

@[simp] theorem execPhaseAcq_leaves (_x : SM) (s : State) (hp : s.phys.wf = true) : Leaves (execPhaseAcq _x s) := by
  unfold execPhaseAcq
  simp [hp]

@[simp] theorem execFence_leaves (x : SM) (s : State) (hp : s.phys.wf = true) : Leaves (execFence x s) := by
  unfold execFence
  dsimp only
  (repeat' split) <;> simp [hp]

@[simp] theorem execPref_leaves (x : SM) (s : State) (hp : s.phys.wf = true) : Leaves (execPref x s) := by
  unfold execPref
  simp [hp]

@[simp] theorem execStw_leaves (x : SM) (s : State) (hp : s.phys.wf = true) : Leaves (execStw x s) := by
  unfold execStw
  simp [hp]

@[simp] theorem execSth_leaves (x : SM) (s : State) (hp : s.phys.wf = true) : Leaves (execSth x s) := by
  unfold execSth
  simp [hp]

@[simp] theorem execStb_leaves (x : SM) (s : State) (hp : s.phys.wf = true) : Leaves (execStb x s) := by
  unfold execStb
  simp [hp]

@[simp] theorem execLdwu_leaves (x : SM) (s : State) (hp : s.phys.wf = true) : Leaves (execLdwu x s) := by
  unfold execLdwu
  simp [hp]

@[simp] theorem execLdw_leaves (x : SM) (s : State) (hp : s.phys.wf = true) : Leaves (execLdw x s) := by
  unfold execLdw
  simp [hp]

@[simp] theorem execLdhu_leaves (x : SM) (s : State) (hp : s.phys.wf = true) : Leaves (execLdhu x s) := by
  unfold execLdhu
  simp [hp]

@[simp] theorem execLdh_leaves (x : SM) (s : State) (hp : s.phys.wf = true) : Leaves (execLdh x s) := by
  unfold execLdh
  simp [hp]

@[simp] theorem execLdbu_leaves (x : SM) (s : State) (hp : s.phys.wf = true) : Leaves (execLdbu x s) := by
  unfold execLdbu
  simp [hp]

@[simp] theorem execLdb_leaves (x : SM) (s : State) (hp : s.phys.wf = true) : Leaves (execLdb x s) := by
  unfold execLdb
  simp [hp]

@[simp] theorem execLih_leaves (x : SI) (s : State) (hp : s.phys.wf = true) : Leaves (execLih x s) := by
  unfold execLih
  simp [hp]

@[simp] theorem execLi_leaves (x : SI) (s : State) (hp : s.phys.wf = true) : Leaves (execLi x s) := by
  unfold execLi
  simp [hp]

@[simp] theorem execSeqi_leaves (x : SI) (s : State) (hp : s.phys.wf = true) : Leaves (execSeqi x s) := by
  unfold execSeqi
  simp [hp]

@[simp] theorem execSltiu_leaves (x : SI) (s : State) (hp : s.phys.wf = true) : Leaves (execSltiu x s) := by
  unfold execSltiu
  simp [hp]

@[simp] theorem execSlti_leaves (x : SI) (s : State) (hp : s.phys.wf = true) : Leaves (execSlti x s) := by
  unfold execSlti
  simp [hp]

@[simp] theorem execSrai_leaves (x : SI) (s : State) (hp : s.phys.wf = true) : Leaves (execSrai x s) := by
  unfold execSrai
  simp [hp]

@[simp] theorem execShri_leaves (x : SI) (s : State) (hp : s.phys.wf = true) : Leaves (execShri x s) := by
  unfold execShri
  simp [hp]

@[simp] theorem execShli_leaves (x : SI) (s : State) (hp : s.phys.wf = true) : Leaves (execShli x s) := by
  unfold execShli
  simp [hp]

@[simp] theorem execXori_leaves (x : SI) (s : State) (hp : s.phys.wf = true) : Leaves (execXori x s) := by
  unfold execXori
  simp [hp]

@[simp] theorem execOri_leaves (x : SI) (s : State) (hp : s.phys.wf = true) : Leaves (execOri x s) := by
  unfold execOri
  simp [hp]

@[simp] theorem execAndi_leaves (x : SI) (s : State) (hp : s.phys.wf = true) : Leaves (execAndi x s) := by
  unfold execAndi
  simp [hp]

@[simp] theorem execAddi_leaves (x : SI) (s : State) (hp : s.phys.wf = true) : Leaves (execAddi x s) := by
  unfold execAddi
  simp [hp]

@[simp] theorem execMovm_leaves (x : S3) (s : State) (hp : s.phys.wf = true) : Leaves (execMovm x s) := by
  unfold execMovm
  simp [hp]

@[simp] theorem execBfi_leaves (x : S3) (s : State) (hp : s.phys.wf = true) : Leaves (execBfi x s) := by
  unfold execBfi
  simp [hp]

@[simp] theorem execBfx_leaves (x : S3) (s : State) (hp : s.phys.wf = true) : Leaves (execBfx x s) := by
  unfold execBfx
  simp [hp]

@[simp] theorem execZext_leaves (x : S3) (s : State) (hp : s.phys.wf = true) : Leaves (execZext x s) := by
  unfold execZext
  simp [hp]

@[simp] theorem execSext_leaves (x : S3) (s : State) (hp : s.phys.wf = true) : Leaves (execSext x s) := by
  unfold execSext
  simp [hp]

@[simp] theorem execBrev_leaves (x : S3) (s : State) (hp : s.phys.wf = true) : Leaves (execBrev x s) := by
  unfold execBrev
  simp [hp]

@[simp] theorem execPopc_leaves (x : S3) (s : State) (hp : s.phys.wf = true) : Leaves (execPopc x s) := by
  unfold execPopc
  simp [hp]

@[simp] theorem execCtz_leaves (x : S3) (s : State) (hp : s.phys.wf = true) : Leaves (execCtz x s) := by
  unfold execCtz
  simp [hp]

@[simp] theorem execClz_leaves (x : S3) (s : State) (hp : s.phys.wf = true) : Leaves (execClz x s) := by
  unfold execClz
  simp [hp]

@[simp] theorem execAddsh_leaves (x : S3) (s : State) (hp : s.phys.wf = true) : Leaves (execAddsh x s) := by
  unfold execAddsh
  simp [hp]

@[simp] theorem execMadd_leaves (x : S3) (s : State) (hp : s.phys.wf = true) : Leaves (execMadd x s) := by
  unfold execMadd
  simp [hp]

@[simp] theorem execSel_leaves (x : S3) (s : State) (hp : s.phys.wf = true) : Leaves (execSel x s) := by
  unfold execSel
  simp [hp]

@[simp] theorem execSeq_leaves (x : S3) (s : State) (hp : s.phys.wf = true) : Leaves (execSeq x s) := by
  unfold execSeq
  simp [hp]

@[simp] theorem execSltu_leaves (x : S3) (s : State) (hp : s.phys.wf = true) : Leaves (execSltu x s) := by
  unfold execSltu
  simp [hp]

@[simp] theorem execSlt_leaves (x : S3) (s : State) (hp : s.phys.wf = true) : Leaves (execSlt x s) := by
  unfold execSlt
  simp [hp]

@[simp] theorem execMaxu_leaves (x : S3) (s : State) (hp : s.phys.wf = true) : Leaves (execMaxu x s) := by
  unfold execMaxu
  simp [hp]

@[simp] theorem execMinu_leaves (x : S3) (s : State) (hp : s.phys.wf = true) : Leaves (execMinu x s) := by
  unfold execMinu
  simp [hp]

@[simp] theorem execMax_leaves (x : S3) (s : State) (hp : s.phys.wf = true) : Leaves (execMax x s) := by
  unfold execMax
  simp [hp]

@[simp] theorem execMin_leaves (x : S3) (s : State) (hp : s.phys.wf = true) : Leaves (execMin x s) := by
  unfold execMin
  simp [hp]

@[simp] theorem execRol_leaves (x : S3) (s : State) (hp : s.phys.wf = true) : Leaves (execRol x s) := by
  unfold execRol
  simp [hp]

@[simp] theorem execSra_leaves (x : S3) (s : State) (hp : s.phys.wf = true) : Leaves (execSra x s) := by
  unfold execSra
  simp [hp]

@[simp] theorem execShr_leaves (x : S3) (s : State) (hp : s.phys.wf = true) : Leaves (execShr x s) := by
  unfold execShr
  simp [hp]

@[simp] theorem execShl_leaves (x : S3) (s : State) (hp : s.phys.wf = true) : Leaves (execShl x s) := by
  unfold execShl
  simp [hp]

@[simp] theorem execAndn_leaves (x : S3) (s : State) (hp : s.phys.wf = true) : Leaves (execAndn x s) := by
  unfold execAndn
  simp [hp]

@[simp] theorem execXor_leaves (x : S3) (s : State) (hp : s.phys.wf = true) : Leaves (execXor x s) := by
  unfold execXor
  simp [hp]

@[simp] theorem execOr_leaves (x : S3) (s : State) (hp : s.phys.wf = true) : Leaves (execOr x s) := by
  unfold execOr
  simp [hp]

@[simp] theorem execAnd_leaves (x : S3) (s : State) (hp : s.phys.wf = true) : Leaves (execAnd x s) := by
  unfold execAnd
  simp [hp]

@[simp] theorem execModu_leaves (x : S3) (s : State) (hp : s.phys.wf = true) : Leaves (execModu x s) := by
  unfold execModu
  simp [hp]

@[simp] theorem execMod_leaves (x : S3) (s : State) (hp : s.phys.wf = true) : Leaves (execMod x s) := by
  unfold execMod
  simp [hp]

@[simp] theorem execDivu_leaves (x : S3) (s : State) (hp : s.phys.wf = true) : Leaves (execDivu x s) := by
  unfold execDivu
  simp [hp]

@[simp] theorem execDiv_leaves (x : S3) (s : State) (hp : s.phys.wf = true) : Leaves (execDiv x s) := by
  unfold execDiv
  simp [hp]

@[simp] theorem execMulhu_leaves (x : S3) (s : State) (hp : s.phys.wf = true) : Leaves (execMulhu x s) := by
  unfold execMulhu
  simp [hp]

@[simp] theorem execMulh_leaves (x : S3) (s : State) (hp : s.phys.wf = true) : Leaves (execMulh x s) := by
  unfold execMulh
  simp [hp]

@[simp] theorem execMul_leaves (x : S3) (s : State) (hp : s.phys.wf = true) : Leaves (execMul x s) := by
  unfold execMul
  simp [hp]

@[simp] theorem execSub_leaves (x : S3) (s : State) (hp : s.phys.wf = true) : Leaves (execSub x s) := by
  unfold execSub
  simp [hp]

@[simp] theorem execAdd_leaves (x : S3) (s : State) (hp : s.phys.wf = true) : Leaves (execAdd x s) := by
  unfold execAdd
  simp [hp]

@[simp] theorem execFlitResult_leaves (s : State) (hp : s.phys.wf = true) : Leaves (execFlitResult s) := by
  refine s.flitIn_leaves _ _ hp fun t f ht => ?_
  dsimp only
  (repeat' split) <;> simp [ht]

@[simp] theorem execFlitSnoopReply_leaves (s : State) (hp : s.phys.wf = true) : Leaves (execFlitSnoopReply s) := by
  refine s.flitIn_leaves _ _ hp fun t f ht => ?_
  dsimp only
  (repeat' split) <;> simp [ht]

@[simp] theorem execWeightFillComplete_leaves (s : State) (hp : s.phys.wf = true) :
    Leaves (execWeightFillComplete s) := by
  unfold execWeightFillComplete
  extract_lets c j p
  split
  · exact hp
  · rename_i o _
    split
    · split
      · exact hp
      · extract_lets f loc a n newest done cols l
        have hd : ∀ (t : State) cs bad, t.phys.wf = true → Leaves (done t cs bad) := fun t cs bad ht => by simp [done, ht]
        split
        · exact hd _ _ _ hp
        · have h := s.engineReach_answers c l hp
          split <;> rename_i e <;> rw [e] at h
          · exact h
          · rw [answers_ok] at h
            exact hd _ _ _ (by simp [h])
    · exact hp

@[simp] theorem execActrate_leaves (x : D) (s : State) (hp : s.phys.wf = true) : Leaves (execActrate x s) := by
  unfold execActrate
  simp [hp]

@[simp] theorem execRouteHold_leaves (x : D) (s : State) (hp : s.phys.wf = true) : Leaves (execRouteHold x s) := by
  unfold execRouteHold
  simp [hp]

@[simp] theorem execIload_leaves (x : D) (s : State) (hp : s.phys.wf = true) : Leaves (execIload x s) := by
  unfold execIload
  simp [hp]

@[simp] theorem execMmaz_leaves (x : D) (s : State) (hp : s.phys.wf = true) : Leaves (execMmaz x s) := by
  unfold execMmaz
  simp [hp]

@[simp] theorem execTadd_leaves (x : D) (s : State) (hp : s.phys.wf = true) : Leaves (execTadd x s) := by
  refine s.issueTile_leaves _ _ _ _ hp fun ts d => ?_
  refine (answers_need _ _ _ _).bind fun _ _ => ?_
  refine (s.granules_answers _ _).bind fun _ _ => ?_
  split <;> simp

@[simp] theorem execSfill_leaves (x : D) (s : State) (hp : s.phys.wf = true) : Leaves (execSfill x s) := by
  unfold execSfill
  simp [hp]

@[simp] theorem execPdrop_leaves (x : V) (s : State) (hp : s.phys.wf = true) : Leaves (execPdrop x s) := by
  unfold execPdrop
  simp [hp]

@[simp] theorem execVaout_leaves (x : V) (s : State) (hp : s.phys.wf = true) : Leaves (execVaout x s) := by
  unfold execVaout
  simp [hp]

@[simp] theorem execGambit_leaves (x : SC) (s : State) (hp : s.phys.wf = true) : Leaves (execGambit x s) := by
  unfold execGambit
  extract_lets word a
  rw [settle_leaves hp]
  refine (s.hubOnly_answers _).bind fun _ _ => ?_
  refine (answers_need _ _ _ _).bind fun _ _ => ?_
  refine (s.reachPages_answers _ _ _ _ hp).bind fun _ _ => ?_
  rw [answers_bind_snd (s.readBlock_answers _ _ hp)]
  intro l t _ ht
  dsimp -zeta only
  split
  · simp
  · simp [ht]

@[simp] theorem execDirreclaim_leaves (x : SC) (s : State) (hp : s.phys.wf = true) : Leaves (execDirreclaim x s) := by
  unfold execDirreclaim
  extract_lets word a b sector
  rw [settle_leaves hp]
  refine (s.hubOnly_answers _).bind fun _ _ => ?_
  iterate 4 refine (answers_need _ _ _ _).bind fun _ _ => ?_
  refine (s.reachPages_answers _ _ _ _ hp).bind fun _ _ => ?_
  rw [answers_bind_snd (s.readSpan_answers _ _ hp)]
  intro ws t _ ht
  dsimp -zeta only
  split
  · simp
  · have h : (t.refuseWaiting sector).phys.wf = true := by simp [ht]
    simp [State.writeSectorWords_wf _ _ _ h]

@[simp] theorem execLnkctlQuiesce_leaves (x : SC) (s : State) (hp : s.phys.wf = true) :
    Leaves (execLnkctlQuiesce x s) := by
  unfold execLnkctlQuiesce
  simp +contextual [hp]

@[simp] theorem execSwrp_leaves (x : SC) (s : State) (hp : s.phys.wf = true) : Leaves (execSwrp x s) := by
  have h := s.writeSpecial_leaves (encode (.swrp x)) x hp
  unfold execSwrp
  rw [settle_leaves hp]
  refine (s.privileged_answers _).bind fun _ _ => ?_
  rw [answers_error, stop_stall]
  split <;> rename_i e
  · rwa [e] at h
  · exact hp

@[simp] theorem execSrdp_leaves (x : SC) (s : State) (hp : s.phys.wf = true) : Leaves (execSrdp x s) := by
  have h := s.readSpecial_leaves (encode (.srdp x)) x hp
  unfold execSrdp
  rw [settle_leaves hp]
  refine (s.privileged_answers _).bind fun _ _ => ?_
  rw [answers_error, stop_stall]
  split <;> rename_i e
  · rwa [e] at h
  · exact hp

@[simp] theorem execEvalloc_leaves (x : SC) (s : State) (hp : s.phys.wf = true) : Leaves (execEvalloc x s) := by
  unfold execEvalloc
  dsimp only
  (repeat' split) <;> simp [hp]

@[simp] theorem execEvsig_leaves (x : SC) (s : State) (hp : s.phys.wf = true) : Leaves (execEvsig x s) := by
  unfold execEvsig
  simp +contextual [hp]

@[simp] theorem execBararv_leaves (x : SC) (s : State) (hp : s.phys.wf = true) : Leaves (execBararv x s) := by
  unfold execBararv
  simp [hp]

@[simp] theorem execBgeu_leaves (x : SB) (s : State) (hp : s.phys.wf = true) : Leaves (execBgeu x s) := by
  unfold execBgeu
  simp [hp]

@[simp] theorem execClean_leaves (x : SM) (s : State) (hp : s.phys.wf = true) : Leaves (execClean x s) := by
  unfold execClean
  simp [hp]

@[simp] theorem execStd_leaves (x : SM) (s : State) (hp : s.phys.wf = true) : Leaves (execStd x s) := by
  unfold execStd
  simp [hp]

@[simp] theorem execLdd_leaves (x : SM) (s : State) (hp : s.phys.wf = true) : Leaves (execLdd x s) := by
  unfold execLdd
  simp [hp]

@[simp] theorem execLea_leaves (x : SI) (s : State) (hp : s.phys.wf = true) : Leaves (execLea x s) := by
  unfold execLea
  simp [hp]

@[simp] theorem execMuli_leaves (x : SI) (s : State) (hp : s.phys.wf = true) : Leaves (execMuli x s) := by
  unfold execMuli
  simp [hp]

@[simp] theorem execCollectiveTimeout_leaves (s : State) (hp : s.phys.wf = true) :
    Leaves (execCollectiveTimeout s) := by
  unfold execCollectiveTimeout
  dsimp only
  (repeat' split) <;> simp +contextual [hp]

@[simp] theorem execDirectoryRdx_leaves (s : State) (hp : s.phys.wf = true) : Leaves (execDirectoryRdx s) := by
  unfold execDirectoryRdx
  simp [hp]

@[simp] theorem execDirectoryRds_leaves (s : State) (hp : s.phys.wf = true) : Leaves (execDirectoryRds s) := by
  unfold execDirectoryRds
  simp [hp]

@[simp] theorem execPageWalk_leaves (s : State) (hp : s.phys.wf = true) : Leaves (execPageWalk s) := by
  unfold execPageWalk
  split <;> simp +contextual [hp]

@[simp] theorem execBankTokenSend_leaves (s : State) (hp : s.phys.wf = true) : Leaves (execBankTokenSend s) := by
  unfold execBankTokenSend
  extract_lets c k ids
  split
  · split
    · exact hp
    · have h := s.storesReach_answers c 9 none ((s.view c).chosen ids) hp
      split <;> rename_i e <;> rw [e] at h
      · rw [answers_ok] at h; simp [h]
      · exact h
      · simp [hp]
  · exact hp

@[simp] theorem execCbld_leaves (x : D) (s : State) (hp : s.phys.wf = true) : Leaves (execCbld x s) := by
  unfold execCbld
  split <;> simp +contextual [hp]

@[simp] theorem execBar_leaves (x : SC) (s : State) (hp : s.phys.wf = true) : Leaves (execBar x s) := by
  unfold execBar
  simp +contextual [hp]

@[simp] theorem execStm_leaves (x : SM) (s : State) (hp : s.phys.wf = true) : Leaves (execStm x s) := by
  unfold execStm
  split <;> simp [hp]

@[simp] theorem execLdm_leaves (x : SM) (s : State) (hp : s.phys.wf = true) : Leaves (execLdm x s) := by
  unfold execLdm
  simp +contextual [hp]

@[simp] theorem execDirectoryWrh_leaves (s : State) (hp : s.phys.wf = true) : Leaves (execDirectoryWrh s) := by
  unfold execDirectoryWrh
  simp [hp]

@[simp] theorem execGyordEventSig_leaves (s : State) (hp : s.phys.wf = true) : Leaves (execGyordEventSig s) := by
  refine s.hostEvent_leaves _ _ hp fun _ x v => ?_
  have h := s.hostSignal_answers x v hp
  split <;> rename_i e <;> rw [e] at h
  · rw [answers_ok] at h; simp [h]
  · exact h

@[simp] theorem execSchedulerDecision_leaves (s : State) (hp : s.phys.wf = true) :
    Leaves (execSchedulerDecision s) := by
  unfold execSchedulerDecision
  split <;> simp [hp]

@[simp] theorem execGambitStop_leaves (x : SC) (s : State) (hp : s.phys.wf = true) : Leaves (execGambitStop x s) := by
  unfold execGambitStop
  split <;> simp [hp]

@[simp] theorem execTlbinv_leaves (x : SC) (s : State) (hp : s.phys.wf = true) : Leaves (execTlbinv x s) := by
  unfold execTlbinv
  extract_lets word mode asid f
  rw [settle_leaves hp]
  refine (s.privileged_answers _).bind fun _ _ => ?_
  refine (answers_need _ _ _ _).bind fun _ _ => ?_
  refine (answers_need _ _ _ _).bind fun _ _ => ?_
  refine (s.sources_answers _ _).bind fun _ _ => ?_
  have hf := answers_foldlM (f := fun t a => t.performUnder f a) (fun t a ht => State.performUnder_answers t f a ht)
    (s.views.map (·.1)) hp
  split
  · exact stall_answers hp
  · rw [answers_bind_state hf]
    intro t _ ht
    rw [answers_pure]
    simp [ht]

@[simp] theorem execLaunch_leaves (x : SC) (s : State) (hp : s.phys.wf = true) : Leaves (execLaunch x s) := by
  unfold execLaunch
  extract_lets c
  rw [settle_leaves hp, answers_bind_fst (s.reserveLaunch_answers _ _ hp)]
  intro t l _ ht
  rw [answers_bind_state (t.releaseAt_answers _ _ ht)]
  intro u _ hu
  extract_lets ord
  have hd : Answers Stop.Canonical (fun r => r.1.phys.wf = true)
      (if isHub u.cur then pure (u, none) else u.strandDecision 10 (w64 ord) (w64 l.queue) : Res (State × Option Word)) := by
    simp [hu]
  rw [answers_bind_fst hd]
  intro v forced _ hv
  dsimp -zeta only
  extract_lets v1 go
  have h1 : MemCanonical v1 := by unfold v1; split <;> simp [hv]
  clear_value v1
  have hgo : ∀ r, Answers Stop.Canonical (fun t => t.phys.wf = true) (go r) := by
    intro r
    unfold go
    split
    · exact stall_answers h1
    · have h2 := State.enqueue_some _ _ h1 ‹_›
      rw [answers_pure, State.retire_phys, State.setReg_phys]
      exact (congrArg (Phys.wf · = true) (State.countRelease_phys _)).mpr h2
  clear_value go
  split
  · exact stall_answers hv
  · exact hgo _

@[simp] theorem execGambitTrialEnd_leaves (s : State) (hp : s.phys.wf = true) : Leaves (execGambitTrialEnd s) := by
  unfold execGambitTrialEnd
  split <;> simp [hp]

@[simp] theorem execGyordCopy_leaves (s : State) (hp : s.phys.wf = true) : Leaves (execGyordCopy s) := by
  unfold execGyordCopy
  refine s.message_leaves _ _ _ hp fun q => ?_
  simp [hp]

@[simp] theorem execStrandRelease_leaves (s : State) (hp : s.phys.wf = true) : Leaves (execStrandRelease s) := by
  unfold execStrandRelease
  split
  · exact hp
  · rename_i l _
    extract_lets k
    split
    · exact hp
    · split
      · exact hp
      · have h := s.loadTract_answers l k hp
        split <;> rename_i e <;> rw [e] at h
        · simp [hp]
        · rw [answers_ok] at h; simp [h]

@[simp] theorem execAgingStep_leaves (s : State) (hp : s.phys.wf = true) : Leaves (execAgingStep s) := by
  unfold execAgingStep
  simp +contextual [hp]

@[simp] theorem execPublication_leaves (s : State) (hp : s.phys.wf = true) : Leaves (execPublication s) := by
  unfold execPublication
  simp [hp]

@[simp] theorem execCtxsave_leaves (x : SC) (s : State) (hp : s.phys.wf = true) : Leaves (execCtxsave x s) := by
  unfold execCtxsave
  extract_lets word a
  rw [settle_leaves hp]
  refine (s.hubOnly_answers _).bind fun _ _ => ?_
  refine (s.target_answers _ _).bind fun c _ => ?_
  refine (answers_need _ _ _ _).bind fun _ _ => ?_
  extract_lets q lost u
  refine (answers_need _ _ _ _).bind fun _ _ => ?_
  refine (s.areaPa_answers _ _ hp).bind fun pa _ => ?_
  split
  · exact stall_answers (by simp [u, hp])
  · split
    · simp [hp]
    · split
      · exact stall_answers hp
      · have h := State.takeContext_answers (s.sampleAcre (acreOf c)) c (by simp [hp])
        rw [answers_bind_fst h]
        intro t area _ ht
        dsimp -zeta only
        extract_lets t1 t2
        have h1 : t1.phys.wf = true := State.writeHeader_wf _ _ _ ht
        have h2 : t2.phys.wf = true := by unfold t2; split <;> simp [h1]
        simp [h2]

@[simp] theorem execAcas_leaves (x : SM) (s : State) (hp : s.phys.wf = true) : Leaves (execAcas x s) := by
  unfold execAcas
  simp [hp]

@[simp] theorem execAswp_leaves (x : SM) (s : State) (hp : s.phys.wf = true) : Leaves (execAswp x s) := by
  unfold execAswp
  simp [hp]

@[simp] theorem execAmaxu_leaves (x : SM) (s : State) (hp : s.phys.wf = true) : Leaves (execAmaxu x s) := by
  unfold execAmaxu
  simp [hp]

@[simp] theorem execAminu_leaves (x : SM) (s : State) (hp : s.phys.wf = true) : Leaves (execAminu x s) := by
  unfold execAminu
  simp [hp]

@[simp] theorem execAmax_leaves (x : SM) (s : State) (hp : s.phys.wf = true) : Leaves (execAmax x s) := by
  unfold execAmax
  simp [hp]

@[simp] theorem execAmin_leaves (x : SM) (s : State) (hp : s.phys.wf = true) : Leaves (execAmin x s) := by
  unfold execAmin
  simp [hp]

@[simp] theorem execAxor_leaves (x : SM) (s : State) (hp : s.phys.wf = true) : Leaves (execAxor x s) := by
  unfold execAxor
  simp [hp]

@[simp] theorem execAor_leaves (x : SM) (s : State) (hp : s.phys.wf = true) : Leaves (execAor x s) := by
  unfold execAor
  simp [hp]

@[simp] theorem execAand_leaves (x : SM) (s : State) (hp : s.phys.wf = true) : Leaves (execAand x s) := by
  unfold execAand
  simp [hp]

@[simp] theorem execAadd_leaves (x : SM) (s : State) (hp : s.phys.wf = true) : Leaves (execAadd x s) := by
  unfold execAadd
  simp [hp]

@[simp] theorem execGyordLaunch_leaves (s : State) (hp : s.phys.wf = true) : Leaves (execGyordLaunch s) := by
  unfold execGyordLaunch
  refine s.message_leaves _ _ _ hp fun q => ?_
  simp [hp]

@[simp] theorem execResidentSwitch_leaves (s : State) (hp : s.phys.wf = true) : Leaves (execResidentSwitch s) := by
  unfold execResidentSwitch
  extract_lets c p idle q mine
  split
  · exact hp
  · rename_i key _
    split
    · exact hp
    · split
      · exact hp
      · have h : Answers Stop.Canonical (fun r => r.1.phys.wf = true)
            (if idle then .ok (s, none) else (s.takeContext c).map fun r => (r.1, some r.2) : Res (State × Option Area)) := by
          split
          · exact hp
          · exact (answers_map_fst (s.takeContext_answers c hp)).mpr fun t _ _ ht => ht
        split <;> rename_i e <;> rw [e] at h
        · exact h
        · exact hp
        · rw [answers_ok] at h
          simp [h]

@[simp] theorem execLaunchRetirement_leaves (s : State) (hp : s.phys.wf = true) :
    Leaves (execLaunchRetirement s) := by
  unfold execLaunchRetirement
  dsimp only
  (repeat' split) <;> simp [hp]

@[simp] theorem execCopyPerform_leaves (s : State) (hp : s.phys.wf = true) : Leaves (execCopyPerform s) := by
  unfold execCopyPerform
  dsimp only
  (repeat' split) <;> simp [hp]

@[simp] theorem execAfadd_leaves (x : SM) (s : State) (hp : s.phys.wf = true) : Leaves (execAfadd x s) := by
  unfold execAfadd
  simp [hp]

@[simp] theorem execTilePerform_leaves (s : State) (hp : s.phys.wf = true) : Leaves (execTilePerform s) := by
  unfold execTilePerform
  dsimp only
  (repeat' split) <;> simp [hp]

@[simp] theorem execStreamBeat_leaves (s : State) (hp : s.phys.wf = true) : Leaves (execStreamBeat s) := by
  unfold execStreamBeat
  dsimp only
  (repeat' split) <;> simp [hp]

@[simp] theorem exec_leaves (i : Instr) (s : State) (hp : s.phys.wf = true) : Leaves (exec i s) := by
  unfold exec
  split <;> simp [hp]

end Sys2Proof.Machine
end

section
/-! PROOF. Memory keeps its canonical form: over every step, and at reset. -/

namespace Sys2Proof.Machine

@[simp] theorem State.execute_leaves (s : State) (hp : s.phys.wf = true) : Leaves s.execute := by
  have h := s.fetch_answers hp
  unfold State.execute
  split <;> rename_i e <;> rw [e] at h
  · exact (settle_leaves hp _).mpr h
  · split
    · split
      · exact exec_leaves _ s hp
      · exact execUndefinedWord_leaves _ s hp
    · exact execUndefinedWord_leaves _ s hp

@[simp] theorem State.runAgent_leaves (s : State) (hp : s.phys.wf = true) : Leaves s.runAgent := by
  unfold State.runAgent
  simp [hp]

@[simp] theorem State.act_leaves (s : State) (m : Move) (hp : s.phys.wf = true) : Leaves (s.act m) := by
  unfold State.act
  split <;> simp [hp]

@[simp] theorem State.move_leaves (s : State) (m : Move) (hp : s.phys.wf = true) : Leaves (s.move m) := by
  unfold State.move
  split <;> simp [hp]

@[simp] theorem step_leaves (s : State) (hp : s.phys.wf = true) : Leaves (step s) := by
  unfold step
  split <;> simp [hp]

/-- Settles O9: no instruction, event or tick writes memory but through `Phys.put`, `Phys.putNum`, `Phys.putDword` and
`Phys.flip`, which keep its canonical form. -/
theorem stepKeepsMemCanonical : Obligations.StepKeepsMemCanonical := by
  unfold Obligations.StepKeepsMemCanonical
  intro s t hs e
  have h := step_leaves s hs
  rwa [e] at h

/-- Settles O8: the reset memory is the value the canonical-form check was computed on. -/
theorem resetMemCanonical : Obligations.ResetMemCanonical := by
  unfold Obligations.ResetMemCanonical MemCanonical
  decide

end Sys2Proof.Machine
end

section
/-! PROOF. The element results of type I32: elements and integers agree with `BitVec 32` and its signed value (R63), and each
element-wise instruction is then the operation of `BitVec 32` (R208 to R210). -/

namespace Sys2Proof.Machine

/-! ### The integer of an I32 element, and the element of an integer -/

@[simp] theorem fmtWidth_i32 : fmtWidth 0xA = 32 := by simp [fmtWidth]

@[simp] theorem intOf_i32 (a : BitVec 32) : intOf 0xA a.toNat = a.toInt := by
  have ha := a.isLt
  simp only [intOf, fmtWidth_i32, Nat.mod_eq_of_lt ha, BitVec.toInt_eq_toNat_cond]
  by_cases h : 2 ^ 31 ≤ a.toNat <;> simp [intSigned] <;> omega

@[simp] theorem intBits_i32 (v : Int) : intBits 0xA v = (BitVec.ofInt 32 v).toNat := by
  simp [intBits]

/-- Without .SAT the low 32 bits of the exact result are kept (R63). -/
@[simp] theorem intFit_i32_wrap (v : Int) : satRes (intFit 0xA false v) = plainRes (BitVec.ofInt 32 v).toNat := by
  simp [intFit, satRes, plainRes]

/-- With .SAT the exact result is clamped to the range of I32, and told when that changes it (R63). -/
theorem intFit_i32_sat (v : Int) : satRes (intFit 0xA true v) =
    if v < -2 ^ 31 then (0x80000000, 0, true) else if 2 ^ 31 ≤ v then (0x7FFFFFFF, 0, true)
    else plainRes (BitVec.ofInt 32 v).toNat := by
  have hmax : intMax 0xA = 2 ^ 31 - 1 := rfl
  have hmin : intMin 0xA = -2 ^ 31 := rfl
  simp only [intFit, clampInt, hmax, hmin, satRes, plainRes, intBits_i32, if_true]
  by_cases hlo : v < -2 ^ 31
  · have hne : (-2 ^ 31 : Int) ≠ v := by omega
    rw [if_neg (by omega), if_pos hlo, if_pos hlo, bne_iff_ne.mpr hne]
    rfl
  · by_cases hhi : 2 ^ 31 ≤ v
    · have hne : (2 ^ 31 - 1 : Int) ≠ v := by omega
      rw [if_pos (by omega), if_neg hlo, if_pos hhi, bne_iff_ne.mpr hne]
      rfl
    · rw [if_neg (by omega), if_neg hlo, if_neg hlo, if_neg hhi, bne_self_eq_false]

section
variable (x : V) (rm : BitVec 2) (sat : Bool) (a b c : BitVec 32)

/-! ### Arithmetic (R208) -/

theorem vadd_i32 : elementOp (.vadd x) 0xA rm false a.toNat b.toNat c.toNat = plainRes (a + b).toNat := by
  simp [elementOp, isFl, intOp, BitVec.ofInt_add]

theorem vsub_i32 : elementOp (.vsub x) 0xA rm false a.toNat b.toNat c.toNat = plainRes (a - b).toNat := by
  simp [elementOp, isFl, intOp, Int.sub_eq_add_neg, BitVec.ofInt_add, BitVec.ofInt_neg, BitVec.sub_eq_add_neg]

theorem vmul_i32 : elementOp (.vmul x) 0xA rm false a.toNat b.toNat c.toNat = plainRes (a * b).toNat := by
  simp [elementOp, isFl, intOp, BitVec.ofInt_mul]

theorem vneg_i32 : elementOp (.vneg x) 0xA rm false a.toNat b.toNat c.toNat = plainRes (-a).toNat := by
  simp [elementOp, isFl, intOp, BitVec.ofInt_neg]

theorem ofInt_natAbs_toInt : BitVec.ofInt 32 (a.toInt.natAbs : Int) = if a.slt 0 then -a else a := by
  by_cases h : a.toInt < 0
  · rw [if_pos (by simpa [BitVec.slt_iff_toInt_lt] using h), Int.ofNat_natAbs_of_nonpos (Int.le_of_lt h), BitVec.ofInt_neg, BitVec.ofInt_toInt]
  · rw [if_neg (by simpa [BitVec.slt_iff_toInt_lt] using h), Int.natAbs_of_nonneg (by omega), BitVec.ofInt_toInt]

theorem vabs_i32 : elementOp (.vabs x) 0xA rm false a.toNat b.toNat c.toNat = plainRes (if a.slt 0 then -a else a).toNat := by
  rw [← ofInt_natAbs_toInt]
  simp [elementOp, isFl, intOp]

theorem vadd_i32_sat : elementOp (.vadd x) 0xA rm true a.toNat b.toNat c.toNat =
    if a.toInt + b.toInt < -2 ^ 31 then (0x80000000, 0, true) else if 2 ^ 31 ≤ a.toInt + b.toInt then (0x7FFFFFFF, 0, true)
    else plainRes (a + b).toNat := by
  have hadd : BitVec.ofInt 32 (a.toInt + b.toInt) = a + b := by simp [BitVec.ofInt_add]
  rw [← hadd, ← intFit_i32_sat]
  simp [elementOp, isFl, intOp]

/-! ### Minimum, maximum and clamping, signed (R208) -/

theorem vmin_i32 : elementOp (.vmin x) 0xA rm sat a.toNat b.toNat c.toNat = plainRes (if b.slt a then b else a).toNat := by
  simp [elementOp, isFl, intOp, BitVec.slt_iff_toInt_lt, apply_ite BitVec.toNat]

theorem vmax_i32 : elementOp (.vmax x) 0xA rm sat a.toNat b.toNat c.toNat = plainRes (if a.slt b then b else a).toNat := by
  simp [elementOp, isFl, intOp, BitVec.slt_iff_toInt_lt, apply_ite BitVec.toNat]

/-- The signed value of the larger of two elements. -/
theorem toInt_ite_slt_max : (if a.slt b then b else a).toInt = max a.toInt b.toInt := by
  simp only [BitVec.slt_iff_toInt_lt, apply_ite BitVec.toInt]
  split <;> omega

/-- The signed value of the smaller of two elements. -/
theorem toInt_ite_slt_min : (if b.slt a then b else a).toInt = min a.toInt b.toInt := by
  simp only [BitVec.slt_iff_toInt_lt, apply_ite BitVec.toInt]
  split <;> omega

theorem vclamp_i32 : elementOp (.vclamp x) 0xA rm sat a.toNat b.toNat c.toNat =
    plainRes (let y := if a.slt b then b else a; if c.slt y then c else y).toNat := by
  have hclamp := toInt_ite_slt_min (if a.slt b then b else a) c
  rw [toInt_ite_slt_max] at hclamp
  simp only [elementOp, isFl, intOp, intOf_i32, ← hclamp, intBits_i32, BitVec.ofInt_toInt]
  simp

/-! ### Bitwise operations and shifts (R208, R209) -/

theorem vand_i32 : elementOp (.vand x) 0xA rm sat a.toNat b.toNat c.toNat = plainRes (a &&& b).toNat := by
  rw [BitVec.toNat_and]; rfl

theorem vor_i32 : elementOp (.vor x) 0xA rm sat a.toNat b.toNat c.toNat = plainRes (a ||| b).toNat := by
  rw [BitVec.toNat_or]; rfl

theorem vxor_i32 : elementOp (.vxor x) 0xA rm sat a.toNat b.toNat c.toNat = plainRes (a ^^^ b).toNat := by
  rw [BitVec.toNat_xor]; rfl

theorem vshl_i32 : elementOp (.vshl x) 0xA rm sat a.toNat b.toNat c.toNat = plainRes (a <<< b.toNat).toNat := by
  simp only [elementOp, fmtWidth_i32]
  by_cases h : b.toNat < 32
  · rw [if_pos h, BitVec.toNat_shiftLeft, Nat.shiftLeft_eq]
  · rw [if_neg h, BitVec.shiftLeft_eq_zero (Nat.not_lt.mp h)]; rfl

theorem vshr_i32 : elementOp (.vshr x) 0xA rm sat a.toNat b.toNat c.toNat = plainRes (a >>> b.toNat).toNat := by
  simp only [elementOp, fmtWidth_i32]
  by_cases h : b.toNat < 32
  · rw [if_pos h, BitVec.toNat_ushiftRight, Nat.shiftRight_eq_div_pow]
  · rw [if_neg h, BitVec.ushiftRight_eq_zero (Nat.not_lt.mp h)]; rfl

/-- From an amount of 32 on, every bit of the arithmetic shift is the sign (R209). -/
theorem sshiftRight_of_width_le {n : Nat} (h : 32 ≤ n) : a.sshiftRight n = a.sshiftRight 32 := by
  apply BitVec.eq_of_getLsbD_eq
  intro i _
  rw [BitVec.getLsbD_sshiftRight, BitVec.getLsbD_sshiftRight, if_neg (by omega), if_neg (by omega)]

/-- Division rounding down by a power of two is the arithmetic shift. -/
theorem ofInt_toInt_ediv_two_pow (k : Nat) : BitVec.ofInt 32 (a.toInt / 2 ^ k) = a.sshiftRight k := by
  have h := BitVec.toInt_sshiftRight (x := a) (n := k)
  rw [Int.shiftRight_eq_div_pow, Int.natCast_pow, Int.cast_ofNat_Int] at h
  rw [← h, BitVec.ofInt_toInt]

theorem vsra_i32 : elementOp (.vsra x) 0xA rm sat a.toNat b.toNat c.toNat = plainRes (a.sshiftRight b.toNat).toNat := by
  simp only [elementOp, fmtWidth_i32, intOf_i32, intBits_i32, ofInt_toInt_ediv_two_pow]
  by_cases h : b.toNat < 32
  · rw [if_pos h]
  · rw [if_neg h, sshiftRight_of_width_le a (Nat.not_lt.mp h)]

/-! ### Comparisons and selection (R210) -/

/-- A lane mask of 32 bits: all ones or zero. -/
theorem toNat_mask (p : Prop) [Decidable p] : (if p then (-1 : BitVec 32) else 0).toNat = if p then 2 ^ 32 - 1 else 0 := by
  split <;> rfl

theorem vcmpeq_i32 : elementOp (.vcmpeq x) 0xA rm sat a.toNat b.toNat c.toNat = plainRes (if a = b then (-1 : BitVec 32) else 0).toNat := by
  rw [toNat_mask]
  simp [elementOp, relation, isFl, plainRes, BitVec.toInt_inj]

theorem vcmplt_i32 : elementOp (.vcmplt x) 0xA rm sat a.toNat b.toNat c.toNat = plainRes (if a.slt b then (-1 : BitVec 32) else 0).toNat := by
  rw [toNat_mask]
  simp [elementOp, relation, isFl, plainRes, BitVec.slt_iff_toInt_lt]

theorem vcmple_i32 : elementOp (.vcmple x) 0xA rm sat a.toNat b.toNat c.toNat = plainRes (if b.slt a then (0 : BitVec 32) else -1).toNat := by
  rw [← ite_not, toNat_mask]
  simp [elementOp, relation, isFl, plainRes, BitVec.slt_iff_toInt_lt]

theorem vsel_i32 : elementOp (.vsel x) 0xA rm sat a.toNat b.toNat c.toNat = plainRes (if a ≠ 0 then b else c).toNat := by
  have hne : (a.toNat != 0) = true ↔ a ≠ 0 := by simp [← BitVec.toNat_inj]
  simp only [elementOp, hne, apply_ite BitVec.toNat]

end

/-- Settles O49, from the equation of each instruction: an I32 element's integer is the signed value of its 32 bits. -/
theorem integerElementsCompute : Obligations.IntegerElementsCompute := by
  unfold Obligations.IntegerElementsCompute
  intro x rm a b c
  exact ⟨vadd_i32 x rm a b c, vsub_i32 x rm a b c, vmul_i32 x rm a b c, vneg_i32 x rm a b c, vabs_i32 x rm a b c,
    vadd_i32_sat x rm a b c, vmin_i32 x rm false a b c, vmax_i32 x rm false a b c, vclamp_i32 x rm false a b c,
    vand_i32 x rm false a b c, vor_i32 x rm false a b c, vxor_i32 x rm false a b c,
    vshl_i32 x rm false a b c, vshr_i32 x rm false a b c, vsra_i32 x rm false a b c,
    vcmpeq_i32 x rm false a b c, vcmplt_i32 x rm false a b c, vcmple_i32 x rm false a b c, vsel_i32 x rm false a b c⟩

end Sys2Proof.Machine
end

section
/-! PROOF. The stash after a run of words has been written into it, and the words of a tile in their order (R88, R93). -/

namespace Sys2Proof.Machine

/-! ### A word of stash after a write (R41, R82) -/

/-- A write replaces its own word; the rest of its granule reads as before, stale or not. -/
theorem Plot.word_put (p : Plot) (a b : Nat) (w : CW) : (p.put a w).word b = if b / 4 = a / 4 then w else p.word b := by
  unfold Plot.word Plot.put
  by_cases hg : b / 64 = a / 64
  · rw [hg]
    by_cases hw : b / 4 = a / 4
    · have hk : b % 64 / 4 = a % 64 / 4 := by omega
      simp [hk, hw]
    · have hk : a % 64 / 4 ≠ b % 64 / 4 := by omega
      simp only [NMap.get_set_same, NMap.get_set_ne _ _ hk, if_neg hw, if_true]
      split <;> rfl
  · have hw : b / 4 ≠ a / 4 := by omega
    simp [hw, NMap.get_set_ne _ _ (Ne.symm hg)]

theorem Plot.word_congr {p q : Plot} (hs : p.stash = q.stash) (hg : p.gen = q.gen) (a : Nat) : p.word a = q.word a := by
  unfold Plot.word
  rw [hs, hg]

/-- A part that is a whole word replaces the word, code and all (R97). -/
theorem Plot.putPiece_full (p : Plot) (va : Word) (w : CW) : p.putPiece ⟨va, 15, w⟩ = p.put va.toNat w := rfl

/-! ### A run of whole words -/

/-- Whole words for consecutive addresses. -/
def fullPieces (a : Word) (ws : List CW) : List Piece :=
  (numbered ws).map fun kw => { va := a + w64 (4 * kw.1), mask := 15, w := kw.2 }

/-- A number as a register value added to another. -/
theorem toNat_ofNat_add_w64 {a n : Nat} (h : a + n < 2 ^ 64) : (BitVec.ofNat 64 a + w64 n).toNat = a + n := by
  simp only [w64, BitVec.toNat_add, BitVec.toNat_ofNat]
  omega

theorem numbered_cons {α : Type} (x : α) (l : List α) :
    numbered (x :: l) = (0, x) :: (numbered l).map fun y => (y.1 + 1, y.2) := by
  simp only [numbered, List.length_cons, List.range_succ_eq_map, List.filterMap_cons, List.filterMap_map, List.map_filterMap,
    List.getElem?_cons_zero, Option.map_some]
  congr 2
  funext k
  simp only [Function.comp_apply, List.getElem?_cons_succ, Option.map_map]
  rfl

theorem mem_numbered {α : Type} {l : List α} {x : Nat × α} (h : x ∈ numbered l) : x.1 < l.length := by
  simp only [numbered, List.mem_filterMap, List.mem_range, Option.map_eq_some_iff] at h
  obtain ⟨k, hk, y, _, rfl⟩ := h
  exact hk

/-- After the first word comes the run of the others, from the next word's address on. -/
theorem fullPieces_cons (a : Nat) (w : CW) (ws : List CW) :
    fullPieces (BitVec.ofNat 64 a) (w :: ws) =
      { va := BitVec.ofNat 64 a, mask := 15, w := w } :: fullPieces (BitVec.ofNat 64 (a + 4)) ws := by
  have hva (k : Nat) : BitVec.ofNat 64 a + w64 (4 * (k + 1)) = BitVec.ofNat 64 (a + 4) + w64 (4 * k) := by
    rw [w64, w64, ← BitVec.ofNat_add, ← BitVec.ofNat_add]
    congr 1
    omega
  simp only [fullPieces, numbered_cons, List.map_cons, List.map_map, Function.comp_def, hva]
  rw [show BitVec.ofNat 64 a + w64 (4 * 0) = BitVec.ofNat 64 a from BitVec.add_zero _]

/-- A write of words at an aligned address is one of whole words. -/
theorem pieces_aligned {a : Word} (h : a.toNat % 4 = 0) (ws : List CW) : pieces a ws = fullPieces a ws := by
  unfold pieces
  simp only [h, if_true]
  rfl

/-- So is the write of a copy, where no word is cut. -/
theorem wordPieces_whole (a : Word) (ws : List CW) {m : Nat} (h : ws.length = m) : wordPieces a (4 * m) ws = fullPieces a ws := by
  unfold wordPieces fullPieces
  refine List.map_congr_left fun kw hk => ?_
  have := mem_numbered hk
  rw [if_pos (by omega)]

/-- Every word but those of the run reads as before. -/
theorem Plot.word_fullPieces_outside (p : Plot) {a : Nat} (ws : List CW) (fits : a + 4 * ws.length ≤ 2 ^ 21) {e : Nat}
    (he : e / 4 * 4 < a / 4 * 4 ∨ a + 4 * ws.length ≤ e / 4 * 4) :
    ((fullPieces (BitVec.ofNat 64 a) ws).foldl Plot.putPiece p).word e = p.word e := by
  induction ws generalizing p a with
  | nil => rfl
  | cons w ws ih =>
    rw [List.length_cons] at fits he
    rw [fullPieces_cons, List.foldl_cons, ih _ (by omega) (by omega), Plot.putPiece_full, Plot.word_put, BitVec.toNat_ofNat,
      if_neg (by omega)]

/-- Word k of the run stands at its place. -/
theorem Plot.word_fullPieces (p : Plot) {a : Nat} (ws : List CW) (fits : a + 4 * ws.length ≤ 2 ^ 21) (k : Nat)
    (hk : k < ws.length) : ((fullPieces (BitVec.ofNat 64 a) ws).foldl Plot.putPiece p).word (a + 4 * k) = ws[k] := by
  induction ws generalizing p a k with
  | nil => exact absurd hk (Nat.not_lt_zero k)
  | cons w ws ih =>
    rw [List.length_cons] at fits hk
    rw [fullPieces_cons, List.foldl_cons]
    cases k with
    | zero =>
      rw [Plot.word_fullPieces_outside _ ws (by omega) (by omega), Plot.putPiece_full, Plot.word_put, BitVec.toNat_ofNat,
        if_pos (by omega), List.getElem_cons_zero]
    | succ k =>
      rw [show a + 4 * (k + 1) = a + 4 + 4 * k by omega, ih _ (by omega) k (by omega), List.getElem_cons_succ]

/-! ### The words of a tile, row after row -/

theorem flatMap_range_map {α : Type} (f : Nat → Nat → α) {n : Nat} (hn : 0 < n) (r : Nat) :
    ((List.range r).flatMap fun i => (List.range n).map (f i)) = (List.range (r * n)).map fun k => f (k / n) (k % n) := by
  induction r with
  | zero => simp
  | succ r ih =>
    rw [List.range_succ, List.flatMap_append, ih, Nat.succ_mul, List.range_add, List.map_append, List.map_map]
    congr 1
    simp only [List.flatMap_cons, List.flatMap_nil, List.append_nil]
    refine List.map_congr_left fun j hj => ?_
    have hj := List.mem_range.1 hj
    simp [Nat.mul_comm r n, Nat.mul_add_div hn, Nat.div_eq_of_lt hj, Nat.mod_eq_of_lt hj]

/-- A row is a whole number of sectors. -/
theorem TileDesc.rowBytes_eq (d : TileDesc) : d.rowBytes = 64 * (bits d.w1 8 4 + 1) := Nat.mul_comm _ _

/-- A tile is a whole number of words. -/
theorem TileDesc.size_words (d : TileDesc) : 4 * (d.size / 4) = d.size := by
  refine Nat.mul_div_cancel' (Nat.dvd_mul_left_of_dvd ?_ _)
  rw [d.rowBytes_eq]
  omega

/-- An aligned tile's rows are aligned. -/
theorem TileDesc.rowAt_aligned {d : TileDesc} (h : d.w0.toNat % 4 = 0) (i : Nat) : (d.rowAt i).toNat % 4 = 0 := by
  simp only [TileDesc.rowAt, TileDesc.pitch, w64, BitVec.toNat_add, BitVec.toNat_ofNat, ← Nat.mul_assoc]
  omega

theorem spanWords_aligned {a : Word} (h : a.toNat % 4 = 0) (rd : Word → CW) (n : Nat) :
    spanWords rd a n = (List.range (n / 4)).map fun k => rd (a + w64 (4 * k)) := by
  unfold spanWords
  rw [if_pos h]

/-- The address of word k of a tile, its rows taken one after the other. -/
def TileDesc.wordAt (d : TileDesc) (k : Nat) : Word := d.rowAt (k / (d.rowBytes / 4)) + w64 (4 * (k % (d.rowBytes / 4)))

/-- The words of an aligned tile, row after row. -/
theorem TileDesc.rows_words {d : TileDesc} (h : d.w0.toNat % 4 = 0) (rd : Word → CW) :
    ((List.range d.rows).flatMap fun i => spanWords rd (d.rowAt i) d.rowBytes) =
      (List.range (d.size / 4)).map fun k => rd (d.wordAt k) := by
  have hr := d.rowBytes_eq
  have hs : d.size / 4 = d.rows * (d.rowBytes / 4) := by
    unfold TileDesc.size
    exact Nat.mul_div_assoc _ (by omega)
  simp only [spanWords_aligned (TileDesc.rowAt_aligned h _)]
  rw [flatMap_range_map (fun i k => rd (d.rowAt i + w64 (4 * k))) (by omega), hs]
  rfl

end Sys2Proof.Machine
end

section
/-! PROOF. Issue of TDSET, the tile operations and CPY (R88, R89, R187, R192). -/

namespace Sys2Proof.Machine

/-! ### Checks that pass -/

theorem need_ok {b : Bool} (h : b = true) (c : Cause) (t0 t1 : Word) : need b c t0 t1 = .ok () := by
  subst h; rfl

theorem State.datapath_ok {s : State} (user : isHub s.cur = false ∧ s.seq.mode = 0) (word : Word) :
    s.datapath word = .ok () := by
  simp [State.datapath, user]

theorem State.accOk_ok {s : State} {q : Nat} (h : q < s.seq.ctx.accs) (word : Word) : s.accOk word q = .ok () :=
  need_ok (decide_eq_true h) _ _ _

theorem State.granules_ok {s : State} {stale : Bool} (h : s.seq.gstrict = true → stale = false) (word : Word) :
    s.granules word stale = .ok () := by
  refine need_ok ?_ _ _ _
  cases hg : s.seq.gstrict with
  | false => rfl
  | true => rw [h hg]; rfl

/-- In strict mode a LOCAL tile has no stale granule (R40). -/
def State.FreshTile (s : State) (d : TileDesc) : Prop :=
  s.seq.gstrict = true → d.inStash = true → d.staleAt (s.plot s.cur) = none

theorem State.FreshTile.granules {s : State} {d : TileDesc} (h : s.FreshTile d) (word : Word) :
    s.granules word (d.inStash && (d.staleAt (s.plot s.cur)).isSome) = .ok () := by
  refine State.granules_ok (fun hg => ?_) word
  cases hl : d.inStash with
  | false => rfl
  | true => rw [h hg hl]; rfl

/-- Of the formats of an operand, those that need a window are the microscaling ones: CB2 is none of them (R87, R229). -/
theorem mxCode_of_aFormat {f : Nat} (h : aFormat f = true) : (decide (6 ≤ f) && decide (f ≤ 9)) = mxCode f := by
  simp only [aFormat, Bool.or_eq_true, Bool.and_eq_true, decide_eq_true_eq] at h
  rw [mxCode, ← Bool.decide_and, ← Bool.decide_and, decide_eq_decide]
  omega

/-! ### A place in the engine -/

/-- Bytes for a tag change the tag's counts alone. -/
theorem Plot.issueTag_eq {p q : Plot} {word : Word} {t : Option Nat} {n : Nat} (h : p.issueTag word t n = .ok q) :
    ∃ m w, q = { p with tagPend := m, tagReady := w } := by
  unfold Plot.issueTag Plot.tagAdd at h
  dsimp only at h
  split at h
  · cases h; exact ⟨p.tagPend, p.tagReady, rfl⟩
  · split at h
    · rename_i e
      split at e
      · cases e
      · split at e <;> (cases e; cases h; exact ⟨_, _, rfl⟩)
    · cases h

section
variable {s : State} {word : Word} {o : EngOp} {q r : Plot} (h : q.issueTag word o.tag o.bytes = .ok r)
include h

/-- With a place free the operation stands last in the engine, under the next number. -/
theorem State.issueOp_joins (hroom : r.ops.length < 32) :
    ∃ v : Plot, s.issueOp word o q = .ok ((s.freshTag s.cur o.tag).setPlot s.cur v) ∧
      v.ops = r.ops ++ [{ o with id := q.nextId }] ∧ v.nextId = q.nextId + 1 ∧ v.stash = r.stash ∧ v.actors = r.actors := by
  have ho : q.ops = r.ops := by obtain ⟨m, w, rfl⟩ := Plot.issueTag_eq h; rfl
  have hcur : (s.freshTag s.cur o.tag).cur = s.cur := by
    unfold State.freshTag
    (repeat' split) <;> rfl
  have hroom : ¬ 32 ≤ q.ops.length := by rw [ho]; exact Nat.not_le.2 hroom
  unfold State.issueOp
  simp only [h, bind_ok, if_neg hroom, hcur]
  refine ⟨_, rfl, ?_⟩
  split <;> exact ⟨rfl, rfl, rfl, rfl⟩

/-- With 32 operations in the engine it stalls (R187). -/
theorem State.issueOp_full (hfull : 32 ≤ r.ops.length) : s.issueOp word o q = .error (.stall s.stalledAt) := by
  have ho : q.ops = r.ops := by obtain ⟨m, w, rfl⟩ := Plot.issueTag_eq h; rfl
  unfold State.issueOp
  simp only [h, bind_ok, ho, if_pos hfull, stall, bind_error]

end

/-! ### Instructions that complete with an operation in the engine -/

/-- Once the operation has its place in the engine, the instruction completes. -/
def State.EndsWith (s : State) (i : Instr) (o : EngOp) (q : Plot) : Prop :=
  ∀ u, s.issueOp (encode i) o q = .ok u → exec i s = .next u.retire

/-- The operation that an instruction of the copy engine makes, with no descriptor as yet. -/
def State.engOp (s : State) (x : D) (i : Instr) (sv : List Word) (bytes : Nat) (ts : List Tlb) : EngOp :=
  { id := 0, instr := i, pc := s.seq.pc, sv := sv, tag := tagOf x.c, bytes := bytes, pages := ts }

section
variable {x : D} {s : State} (user : isHub s.cur = false ∧ s.seq.mode = 0)
include user

theorem exec_tdset_sets (hr : Readable s [r5 x.b, r5 x.c]) : exec (.tdset x) s = .next (s.setPlot s.cur
    { s.plot s.cur with tds := (s.plot s.cur).tds.set x.a.toNat { w0 := s.reg (r5 x.b), w1 := s.reg (r5 x.c) } }).retire := by
  show execTdset x s = _
  simp only [execTdset, State.datapath_ok user, State.sources_ok hr, bind_ok, settle_pure, State.modPlot]

section
variable {d : TileDesc} {ts : List Tlb} (desc : s.desc x.a.toNat = d)
include desc

section
variable (fresh : s.FreshTile d)
include fresh

theorem exec_tld_issues (hd : s.descCheck (encode (.tld x)) d (x.e.getLsbD 0) false anyFmt = .ok ts) (hr : Readable s [r5 x.b])
    (hs : s.stashRange (s.reg (r5 x.b)) d.size = .ok ()) (hw : s.framed d.fmt d.inStash (d.pages.zip ts) = .ok ()) :
    s.EndsWith (.tld x) { s.engOp x (.tld x) [s.reg (r5 x.b)] d.size ts with td := d } (s.plot s.cur) := by
  intro u hu
  simp only [State.engOp] at hu
  show execTld x s = _
  simp only [execTld, desc, State.datapath_ok user, State.sources_ok hr, hd, fresh.granules, hs, hw, hu, bind_ok, settle_pure]

theorem exec_tlda_issues {r : Plot} (hq : s.accOk (encode (.tlda x)) x.b.toNat = .ok ())
    (hd : s.descCheck (encode (.tlda x)) d (x.e.getLsbD 0) false (fun f => f = 0 || f = 0xA) = .ok ts) (hb : d.rowBytes = 512)
    (hn : s.needSlot (encode (.tlda x)) x.b.toNat (s.plot s.cur).nextId = .ok r) :
    s.EndsWith (.tlda x)
      { s.engOp x (.tlda x) [] d.size ts with td := d, pos := if (s.plot s.cur).accSt x.b.toNat = .live then 1 else 0 }
      (r.makeLive x.b.toNat (s.plot s.cur).nextId (d.fmt = 0xA)) := by
  intro u hu
  simp only [State.engOp] at hu
  show execTlda x s = _
  simp only [execTlda, desc, State.datapath_ok user, hq, hd, fresh.granules, need_ok (decide_eq_true hb), hn, hu, bind_ok,
    settle_pure]

/-- CPYMM: in the same action its matrix operation joins the matrix unit's order behind it (R193). -/
theorem exec_cpymm_issues {m : MmaF} {r : Plot} {u : State} (hm : mmaOf (.cpymm x) = some m)
    (hq : s.accOk (encode (.cpymm x)) m.q = .ok ()) (ha : aFormat m.fmt = true)
    (hd : s.descCheck (encode (.cpymm x)) d (x.e.getLsbD 8) false (· = m.fmt) = .ok ts)
    (hw : s.framed m.fmt d.inStash (d.pages.zip ts) = .ok ())
    (hx : mxCode m.fmt = true → (s.oneWindow ((d.pages.zip ts).map fun y => y.2.pa y.1)).any (·.fmt = m.fmt) = true)
    (hb : d.rowBytes = 256) (hc : s.mmaChecks (encode (.cpymm x)) m (d.rows * kpc m.fmt) = .ok ())
    (hn : s.needSlot (encode (.cpymm x)) m.q ((s.plot s.cur).nextId + 1) = .ok r) (hroom : (s.plot s.cur).matrixOps < 4)
    (hu : s.issueOp (encode (.cpymm x))
      { s.engOp x (.cpymm x) [] d.size ts with td := d, mma := some ((s.plot s.cur).nextId + 1) } (s.plot s.cur) = .ok u) :
    exec (.cpymm x) s = .next (u.setPlot u.cur ((u.plot u.cur).addMma (.cpymm x) s.seq.pc m (d.rows * kpc m.fmt)
      { r with ops := (u.plot u.cur).ops, nextId := (u.plot u.cur).nextId, tagPend := (u.plot u.cur).tagPend,
               tagReady := (u.plot u.cur).tagReady, openBatch := (u.plot u.cur).openBatch,
               batches := (u.plot u.cur).batches })).retire := by
  have hwin : (!(6 ≤ m.fmt && m.fmt ≤ 9) ||
      (s.oneWindow ((d.pages.zip ts).map fun y => y.2.pa y.1)).any (·.fmt = m.fmt)) = true := by
    rw [mxCode_of_aFormat ha]
    cases hmx : mxCode m.fmt with
    | true => exact hx hmx
    | false => rfl
  simp only [State.engOp] at hu
  show execCpymm x s = _
  simp only [execCpymm, desc, State.datapath_ok user, hm, Option.getD_some, need_ok ha, hq, hd, fresh.granules,
    need_ok (decide_eq_true hb), hw, need_ok hwin, hc, hn, if_neg (Nat.not_le.2 hroom), hu, bind_ok, settle_pure]

end

theorem exec_tcpy_issues {src : TileDesc} {td : List Tlb} (from_ : s.desc x.b.toNat = src)
    (hs : s.descCheck (encode (.tcpy x)) src (x.e.getLsbD 0) false anyFmt = .ok ts)
    (hd : s.descCheck (encode (.tcpy x)) d (x.e.getLsbD 0) true anyFmt = .ok td) (fresh : s.FreshTile src)
    (hrows : src.rows = d.rows) (hbytes : src.rowBytes = d.rowBytes) :
    s.EndsWith (.tcpy x) { s.engOp x (.tcpy x) [] d.size (ts ++ td) with td := d, td2 := src } (s.plot s.cur) := by
  intro u hu
  simp only [State.engOp] at hu
  show execTcpy x s = _
  simp only [execTcpy, desc, from_, State.datapath_ok user, hs, hd, fresh.granules, hrows, hbytes, decide_true, Bool.and_self,
    need_true, hu, bind_ok, settle_pure]

/-! ### TST and TADD (R190) -/

/-- The plot of a TST or TADD at its issue: the accumulator that it reads is named, and released if it asks for that. -/
def State.tilePlot (s : State) (x : D) : Plot :=
  let p := s.plot s.cur
  let named := if x.d.getLsbD 1 = true then p.nameAcc x.b.toNat p.nextId else p
  if x.d.getLsbD 1 = true ∧ x.d.getLsbD 0 = true then named.release x.b.toNat p.nextId p.nextId else named

section
variable {sv : List Word} {pos : Nat} (hr : x.d.getLsbD 1 = false → Readable s [r5 x.b])
  (hq : x.d.getLsbD 1 = true → x.b.toNat < s.seq.ctx.accs)
include hr hq

/-- With the descriptor's checks, the source's and the instruction's own passed. -/
theorem State.issueTile_issues {i : Instr} {ok : Nat → Bool} {own : List Tlb → TileDesc → Res Unit} {u : State}
    (hd : s.descCheck (encode i) d (x.e.getLsbD 0) true anyFmt = .ok ts)
    (hs : s.tileSource (encode i) x d ok = .ok (sv, pos)) (hown : own ts d = .ok ())
    (hu : s.issueOp (encode i) { s.engOp x i sv d.size ts with td := d, pos := pos } (s.tilePlot x) = .ok u) :
    s.issueTile i x ok own = .next u.retire := by
  simp only [State.engOp, State.tilePlot, ← Bool.and_eq_true] at hu
  unfold State.issueTile
  cases hacc : x.d.getLsbD 1 with
  | true =>
    simp only [hacc, if_true] at hu
    simp only [desc, State.datapath_ok user, State.accOk_ok (hq hacc), hd, hs, hown, hu, bind_ok, settle_pure, if_true,
      Bool.not_true, Bool.false_eq_true, if_false]
  | false =>
    simp only [hacc, Bool.false_eq_true, if_false] at hu
    simp only [desc, State.datapath_ok user, State.sources_ok (hr hacc), hd, hs, hown, hu, bind_ok, settle_pure, if_true,
      Bool.not_false, Bool.false_eq_true, if_false]

theorem exec_tst_issues (hd : s.descCheck (encode (.tst x)) d (x.e.getLsbD 0) true anyFmt = .ok ts)
    (hs : s.tileSource (encode (.tst x)) x d anyFmt = .ok (sv, pos)) :
    s.EndsWith (.tst x) { s.engOp x (.tst x) sv d.size ts with td := d, pos := pos } (s.tilePlot x) := by
  intro u hu
  show execTst x s = _
  unfold execTst
  exact State.issueTile_issues user desc hr hq hd hs rfl hu

theorem exec_tadd_issues (fresh : s.FreshTile d) (hd : s.descCheck (encode (.tadd x)) d (x.e.getLsbD 0) true anyFmt = .ok ts)
    (hal : d.w0.toNat % 4 = 0) (hpub : ∀ y ∈ d.pages.zip ts, ptePub y.2.pte = false)
    (hs : s.tileSource (encode (.tadd x)) x d (fun f => f = 0 || f = 0xA) = .ok (sv, pos)) :
    s.EndsWith (.tadd x) { s.engOp x (.tadd x) sv d.size ts with td := d, pos := pos } (s.tilePlot x) := by
  have hnone : (d.pages.zip ts).find? (fun y => ptePub y.2.pte) = none :=
    List.find?_eq_none.2 fun y hy => by rw [hpub y hy]; exact Bool.false_ne_true
  intro u hu
  show execTadd x s = _
  unfold execTadd
  refine State.issueTile_issues user desc hr hq hd hs ?_ hu
  simp only [need_ok (decide_eq_true hal), fresh.granules, hnone, bind_ok]
  rfl

end

end

/-! ### CPY (R192) -/

section
variable {dst src : Word} {n : Nat} {ts td : List Tlb} (to_ : s.reg (r5 x.a) = dst) (from_ : s.reg (r5 x.b) = src)
  (len : (s.reg (r5 x.d)).toNat = n) (hda : dst.toNat % 4 = 0) (hsa : src.toNat % 4 = 0) (hn : n % 4 = 0) (hlt : n < 2 ^ 32)
  (hs : s.copyRange (x.e.getLsbD 1) src n 0 = .ok ts) (hd : s.copyRange (x.e.getLsbD 0) dst n 1 = .ok td)
  (hr : Readable s [r5 x.a, r5 x.b, r5 x.d])
  (fresh : s.seq.gstrict = true → x.e.getLsbD 1 = true → (s.plot s.cur).anyStale src.toNat n = false)
include to_ from_ len hda hsa hn hlt hs hd hr fresh

/-- A CPY whose checks pass: with no bytes its tag is told at once, else its operation joins the engine (R159). -/
theorem exec_cpy_checked : exec (.cpy x) s = settle s
    (if n = 0 then do
      let q ← (s.plot s.cur).issueTag (encode (.cpy x)) (tagOf x.c) 0
      pure (s.setPlot s.cur q).retire
    else do
      let u ← s.issueOp (encode (.cpy x)) (s.engOp x (.cpy x) [dst, src, w64 n] n (ts ++ td)) (s.plot s.cur)
      pure u.retire) := by
  have hsize : (n % 4 = 0 && n ≤ 0xFFFF_FFFF : Bool) = true := by
    rw [← Bool.decide_and]
    exact decide_eq_true ⟨hn, by omega⟩
  have hstale : s.granules (encode (.cpy x)) (x.e.getLsbD 1 && (s.plot s.cur).anyStale src.toNat n) = .ok () := by
    refine State.granules_ok (fun hg => ?_) _
    cases hl : x.e.getLsbD 1 with
    | false => rfl
    | true => exact fresh hg hl
  show execCpy x s = _
  simp only [execCpy, to_, from_, len, State.datapath_ok user, need_ok (decide_eq_true hda), need_ok (decide_eq_true hsa),
    need_ok hsize, hs, hd, State.sources_ok hr, hstale, bind_ok, State.engOp]

theorem exec_cpy_empty (h0 : n = 0) {q : Plot} (hq : (s.plot s.cur).issueTag (encode (.cpy x)) (tagOf x.c) 0 = .ok q) :
    exec (.cpy x) s = .next (s.setPlot s.cur q).retire := by
  rw [exec_cpy_checked user to_ from_ len hda hsa hn hlt hs hd hr fresh, if_pos h0, hq]
  rfl

theorem exec_cpy_issues (h0 : n ≠ 0) :
    s.EndsWith (.cpy x) (s.engOp x (.cpy x) [dst, src, w64 n] n (ts ++ td)) (s.plot s.cur) := by
  intro u hu
  rw [exec_cpy_checked user to_ from_ len hda hsa hn hlt hs hd hr fresh, if_neg h0, hu]
  rfl

end

end

end Sys2Proof.Machine
end

section
/-! PROOF. The copy engine performs a TLD of a LOCAL tile and a CPY between stash ranges; O53 (R90 to R94, R187, R192). -/

namespace Sys2Proof.Machine

/-! ### An operation that completes -/

/-- Bytes that land change the tag's counts alone. -/
theorem Plot.land_eq (p : Plot) (t : Option Nat) (n : Nat) : ∃ m w, p.land t n = { p with tagPend := m, tagReady := w } := by
  unfold Plot.land Plot.tagLand
  dsimp only
  (repeat' split) <;> exact ⟨_, _, rfl⟩

@[simp] theorem State.raiseReplies_none_plot (s : State) (c b : Nat) : (s.raiseReplies c []).plot b = s.plot b := rfl

/-- A completed operation has left the engine (R187). -/
theorem State.finishOp_ops (s : State) (c : Nat) (o : EngOp) : ∀ y ∈ ((s.finishOp c o).plot c).ops, y.id ≠ o.id := by
  intro y hy
  rw [State.finishOp, State.plot_modPlot_same] at hy
  exact bne_iff_ne.1 (List.mem_filter.1 hy).2

/-- Completing leaves every word of the stash as it is. -/
theorem State.finishOp_word (s : State) (c : Nat) (o : EngOp) (a : Nat) :
    ((s.finishOp c o).plot c).word a = (s.plot c).word a := by
  obtain ⟨m, w, h⟩ := (s.plot c).land_eq o.tag o.bytes
  refine Plot.word_congr ?_ ?_ a <;>
    simp only [State.finishOp, State.plot_modPlot_same, Plot.freeDying, Plot.dropOp, Plot.prune, Plot.leaveBatch, h]

/-- A state in which the words have been written into the stash of plot c from address a on, and the operation has completed. -/
structure Landed (s t : State) (c : Nat) (o : EngOp) (a : Nat) (ws : List CW) : Prop where
  inside : ∀ k (hk : k < ws.length), (t.plot c).word (a + 4 * k) = ws[k]
  outside : ∀ e, e / 4 * 4 < a ∨ a + 4 * ws.length ≤ e → (t.plot c).word e = (s.plot c).word e
  gone : ∀ y ∈ (t.plot c).ops, y.id ≠ o.id
  phys : t.phys = s.phys

/-- The engine writes whole words into the stash and the operation completes. -/
theorem State.landed (s : State) (c : Nat) (o o' : EngOp) (hid : o'.id = o.id) {a : Nat} (ws : List CW) (ha : a % 4 = 0)
    (fits : a + 4 * ws.length ≤ 2 ^ 21) :
    Landed s (((s.modPlot c fun p => (fullPieces (BitVec.ofNat 64 a) ws).foldl Plot.putPiece p).finishOp c o').raiseReplies c [])
      c o a ws where
  inside k hk := by
    rw [State.raiseReplies_none_plot, State.finishOp_word, State.plot_modPlot_same, Plot.word_fullPieces _ _ fits k hk]
  outside e he := by
    rw [State.raiseReplies_none_plot, State.finishOp_word, State.plot_modPlot_same,
      Plot.word_fullPieces_outside _ _ fits (by omega)]
  gone y hy := hid ▸ State.finishOp_ops _ c o' y hy
  phys := by simp

/-! ### The event that performs an operation -/

section
variable {s : State} {o : EngOp} (ho : (s.plot s.evt.a).ops.find? (·.id = s.evt.b) = some o)
include ho

/-- An operation behind a FENCE, or of a held strand, does not move (R108, R339). -/
theorem exec_tilePerform_held (h : (s.plot s.evt.a).opBlocked o.id = true ∨ s.frozen s.evt.a = true) :
    exec .tilePerform s = .next s := by
  show execTilePerform s = _
  simp only [execTilePerform, ho, Bool.or_eq_true, h, if_true]

theorem exec_copyPerform_held (h : (s.plot s.evt.a).opBlocked o.id = true ∨ s.frozen s.evt.a = true) :
    exec .copyPerform s = .next s := by
  show execCopyPerform s = _
  simp only [execCopyPerform, ho, Bool.or_eq_true, h, if_true]

variable (hb : (s.plot s.evt.a).opBlocked o.id = false) (hf : s.frozen s.evt.a = false)
include hb hf

theorem exec_tilePerform_free : exec .tilePerform s = .next (s.performTile s.evt.a o) := by
  show execTilePerform s = _
  simp only [execTilePerform, ho, hb, hf, Bool.or_self, Bool.false_eq_true, if_false]

theorem exec_copyPerform_free {x : D} (hi : o.instr = .cpy x) :
    exec .copyPerform s = .next (s.performCopy s.evt.a o x s.evt.c) := by
  show execCopyPerform s = _
  simp only [execCopyPerform, ho, hb, hf, hi, Bool.or_self, Bool.false_eq_true, if_false]

end

/-! ### A TLD of a LOCAL tile, and a CPY within the stash -/

/-- A LOCAL tile is read at once: its words as they stand, row after row (R90). -/
theorem State.tileRead_local (s : State) (c : Nat) (o : EngOp) {d : TileDesc} (hl : d.inStash = true) (ha : d.w0.toNat % 4 = 0) :
    s.tileRead c o d = .ok (s, (List.range (d.size / 4)).map fun k => (s.plot c).word (d.wordAt k).toNat, []) := by
  unfold State.tileRead
  simp only [if_pos hl, TileDesc.rows_words ha]

theorem State.performTile_tld {s : State} {c : Nat} {o : EngOp} {x : D} {a : Nat} (hi : o.instr = .tld x)
    (hl : o.td.inStash = true) (hw : o.td.w0.toNat % 4 = 0) (hg : s.stashGone c = false) (hsv : o.sv = [BitVec.ofNat 64 a])
    (ha : a % 4 = 0) (fits : a + o.td.size ≤ 2 ^ 21) :
    Landed s (s.performTile c o) c o a
      ((List.range (o.td.size / 4)).map fun k => (s.plot c).word (o.td.wordAt k).toNat) := by
  have hal : (BitVec.ofNat 64 a).toNat % 4 = 0 := by rw [BitVec.toNat_ofNat]; omega
  have hsv0 : o.sv.getD 0 0 = BitVec.ofNat 64 a := by rw [hsv]; rfl
  simp only [State.performTile, hi, State.tileRead_local s c o hl hw, hg, hsv0, pieces_aligned hal, Bool.false_eq_true, if_false]
  refine State.landed s c o o rfl _ ha ?_
  rw [List.length_map, List.length_range]
  omega

/-- A CPY between stash ranges that has not begun and is to go on to its end: it reads every word before it writes one (R192). -/
theorem State.performCopy_stash {s : State} {c : Nat} {o : EngOp} {x : D} {a b m : Nat} (hd : x.e.getLsbD 0 = true)
    (hs : x.e.getLsbD 1 = true) (hg : s.stashGone c = false) (hpos : o.pos = 0)
    (hsv : o.sv = [BitVec.ofNat 64 a, BitVec.ofNat 64 b, BitVec.ofNat 64 (4 * m)]) (hbytes : o.bytes = 4 * m) (ha : a % 4 = 0)
    (fits : a + 4 * m ≤ 2 ^ 21) :
    Landed s (s.performCopy c o x 0) c o a
      ((List.range m).map fun k => (s.plot c).word (BitVec.ofNat 64 b + w64 (4 * k)).toNat) := by
  have hdst : o.sv.getD 0 0 + w64 (4 * o.pos) = BitVec.ofNat 64 a := by rw [hsv, hpos]; exact BitVec.add_zero _
  have hsrc : o.sv.getD 1 0 + w64 (4 * o.pos) = BitVec.ofNat 64 b := by rw [hsv, hpos]; exact BitVec.add_zero _
  have hleft : o.bytes / 4 - o.pos = m := by omega
  have hlen : ((List.range m).map fun k => (s.plot c).word (BitVec.ofNat 64 b + w64 (4 * k)).toNat).length = m := by simp
  simp only [State.performCopy, hdst, hsrc, hleft, State.copyRead, State.copyWrite, hd, hs, hg, if_true, Bool.false_eq_true,
    if_false, decide_true, Bool.true_or, wordPieces_whole _ _ hlen, List.append_nil]
  exact State.landed s c o { o with bytes := 4 * m } rfl _ ha (by rw [hlen]; exact fits)

/-- Settles O53, from the equation of each instruction and from the stash after a run of words has been written into it: the
words of a TLD or a CPY are read before the first of them is written. -/
theorem tilesAndCopiesOnTheEngine : Obligations.TilesAndCopiesOnTheEngine := by
  unfold Obligations.TilesAndCopiesOnTheEngine
  intro x s
  refine ⟨fun word o q r h _ => ⟨State.issueOp_joins h, State.issueOp_full h⟩,
    fun user => ⟨exec_tdset_sets user, ?tld, ?tlda, ?tstTadd, ?tcpy, ?cpymm, ?cpy⟩, ?perform⟩
  case tld =>
    intro ts a hd hr hf hs hw
    exact exec_tld_issues user rfl hf hd hr hs hw
  case tlda =>
    intro ts r w hq hd hf hb hn
    exact exec_tlda_issues user rfl hf hq hd hb hn
  case tstTadd =>
    intro acc named q hr hq
    refine ⟨fun ts sv pos hd hs => exec_tst_issues user rfl hr hq hd hs, fun ts sv pos hd hal hf hpub hs => ?_⟩
    exact exec_tadd_issues user rfl hr hq hf hd hal hpub hs
  case tcpy =>
    intro ts td w src hs hd hf hrows hbytes
    exact exec_tcpy_issues user rfl rfl hs hd hf hrows hbytes
  case cpymm =>
    intro m ts r u w hm hq ha hd hw hx hf hb hc hn hroom hu
    exact exec_cpymm_issues user rfl hf hm hq ha hd hw hx hb hc hn hroom hu
  case cpy =>
    intro ts td dst src n hda hsa hn hlt hs hd hr hf
    exact ⟨fun h0 q => exec_cpy_empty user rfl rfl rfl hda hsa hn hlt hs hd hr hf h0,
      exec_cpy_issues user rfl rfl rfl hda hsa hn hlt hs hd hr hf⟩
  case perform =>
    intro a P o ho
    refine ⟨fun h => ⟨exec_tilePerform_held ho h, exec_copyPerform_held ho h⟩, ?tld, ?cpy⟩
    case tld =>
      intro A hb hf hg hi hl hw hsv hA fits n
      have h := State.performTile_tld hi hl hw hg hsv hA fits
      refine ⟨_, exec_tilePerform_free ho hb hf, fun k hk => ?_, fun e he => h.outside e ?_, h.gone, h.phys⟩
      · rw [h.inside k (by simpa using hk), List.getElem_map, List.getElem_range]
        rfl
      · simpa [TileDesc.size_words] using he
    case cpy =>
      intro A B m hb hf hg hi hd hs hpos hsv hbytes hA hB fitsA fitsB hc
      have h := State.performCopy_stash hd hs hg hpos hsv hbytes hA fitsA
      refine ⟨_, hc ▸ exec_copyPerform_free ho hb hf hi, fun k hk => ?_, fun e he => h.outside e ?_, h.gone, h.phys⟩
      · rw [h.inside k (by simpa using hk), List.getElem_map, List.getElem_range, toNat_ofNat_add_w64 (by omega)]
      · simpa using he

end Sys2Proof.Machine
end

section
/-! PROOF. What performs stores at their homes leaves every agent's view as it was: `f_views` says so of `f`, and `f_keepsViews`
where `f` may answer an error (R99, R320, R341). -/

namespace Sys2Proof.Machine

theorem foldl_views {β : Type} {f : State → β → State} (h : ∀ t b, (f t b).views = t.views) (l : List β) (s : State) :
    (l.foldl f s).views = s.views :=
  foldl_keeps (fun t : State => t.views = s.views) f (fun t b ht => (h t b).trans ht) l s rfl

theorem State.view_congr {s t : State} (h : t.views = s.views) (a : Nat) : t.view a = s.view a := by
  unfold State.view
  rw [h]

/-! ### Charging and the cache (R80, R320) -/

@[simp] theorem State.modLaunch_views (s : State) (id : Nat) (f : Launch → Launch) : (s.modLaunch id f).views = s.views := by
  unfold State.modLaunch
  split <;> rfl

@[simp] theorem State.askQuota_views (s : State) : s.askQuota.views = s.views :=
  foldl_views (fun t a => by
    dsimp only
    split
    · rfl
    · split <;> rfl) _ s

@[simp] theorem State.chargePath_views (s : State) (node nj : Nat) : (s.chargePath node nj).views = s.views := by
  unfold State.chargePath
  extract_lets path used t
  have h : t.views = s.views := foldl_views (fun t r => by dsimp only; split <;> rfl) path s
  split
  · rw [State.askQuota_views, h]
  · exact h

@[simp] theorem State.charge_views (s : State) (launch nj : Nat) : (s.charge launch nj).views = s.views := by
  unfold State.charge
  split
  · split
    · simp
    · split <;> simp
  · split <;> simp

@[simp] theorem State.lostWords_views (s : State) (pa : Nat) : (s.lostWords pa).views = s.views := by
  unfold State.lostWords
  rfl

@[simp] theorem State.fillSector_views (s : State) (l pa : Nat) (podc : Bool) : (s.fillSector l pa podc).views = s.views := by
  unfold State.fillSector
  dsimp only
  split <;> simp

@[simp] theorem State.touch_views (s : State) (a pa : Nat) (podc unc write : Bool) :
    (s.touch a pa podc unc write).views = s.views := by
  unfold State.touch
  extract_lets n l held filled
  have h : filled.views = s.views := by
    unfold filled
    split <;> simp
  split
  · rfl
  · split <;> exact h

@[simp] theorem State.touchAt_views (s : State) (a : Nat) (va : Word) (pa : Nat) (podc unc write : Bool) :
    (s.touchAt a va pa podc unc write).views = s.views := by
  unfold State.touchAt
  split <;> simp

@[simp] theorem State.poisonBit_views (s : State) (pa : Nat) : (s.poisonBit pa).views = s.views := rfl

@[simp] theorem State.writeBack_views (s : State) (pa : Nat) (podc : Bool) : (s.writeBack pa podc).views = s.views := by
  unfold State.writeBack
  split
  · split <;> simp
  · rfl

@[simp] theorem State.dropSector_views (s : State) (pa : Nat) : (s.dropSector pa).views = s.views :=
  s.writeBack_views pa false

/-! ### Words written to memory, and WINDOW ranges (R84, R87) -/

@[simp] theorem State.scaleStore_views (s : State) (pa : Nat) : (s.scaleStore pa).views = s.views :=
  foldl_views (fun t kw => by
    dsimp only
    split
    · exact foldl_views (fun u k => by split <;> simp) _ t
    · rfl) _ s

@[simp] theorem State.putMemory_views (s : State) (pa : Nat) (cw : CW) : (s.putMemory pa cw).views = s.views := by
  unfold State.putMemory
  dsimp only
  split <;> simp

@[simp] theorem State.writeSector_views (s : State) (w : WinSector) : (s.writeSector w).views = s.views := by
  unfold State.writeSector
  split
  · rw [State.poisonBit_views, State.charge_views]
    exact foldl_views (fun t k => by simp) _ s
  · rfl

@[simp] theorem State.setWindow_views (s : State) (w : Window) : (s.setWindow w).views = s.views := rfl

@[simp] theorem State.fillWindow_views (s : State) (w : Window) (l pa va : Nat) : (s.fillWindow w l pa va).views = s.views := by
  unfold State.fillWindow
  dsimp only
  split <;> simp

/-! ### A store performed at its home -/

@[simp] theorem State.homePut_views (s : State) (l asid va pa : Nat) (cw : CW) : (s.homePut l asid va pa cw).views = s.views := by
  unfold State.homePut
  split
  · rfl
  · extract_lets here
    have h : ∀ t : State, (here t).views = t.views := fun t => by
      unfold here
      split <;> simp
    split
    · split <;> simp [h]
    · exact h s

@[simp] theorem State.noteLanding_views (s : State) (a : Nat) (va : Word) (pa : Nat) (old : CW) (mask : BitVec 4) (ep : Option Nat) :
    (s.noteLanding a va pa old mask ep).views = s.views := by
  unfold State.noteLanding
  dsimp only
  split <;> split <;> rfl

@[simp] theorem State.overrides_views (s : State) (keep : Option Nat) (pa : Nat) (mask : BitVec 4) :
    (s.overrides keep pa mask).views = s.views := rfl

@[simp] theorem State.report_views (s : State) (unit kind sev : Nat) (cause : BitVec 7) (addr syn : Word) (launch : Nat) :
    (s.report unit kind sev cause addr syn launch).views = s.views := rfl

@[simp] theorem State.land_views (s : State) (a : Nat) (st : Store) (ep : Option Nat) : (s.land a st ep).views = s.views := by
  unfold State.land
  dsimp only
  split
  · simp
  · split <;> simp

@[simp] theorem State.performStore_views (s : State) (a : Nat) (r : Release) (st : Store) :
    (s.performStore a r st).views = s.views := by
  unfold State.performStore
  split
  · exact s.land_views a st r.episode
  · rfl

/-! ### Accesses that reach their serialisation points -/

@[simp] theorem answers_waitFor {α : Type} {P : α → Prop} (s : State) (a unit : Nat) :
    Answers (fun _ => True) P (waitFor s a unit : Res α) := trivial

theorem State.podReady_keepsViews (s : State) (a unit : Nat) (x : Access) :
    Answers (fun _ => True) (fun t => t.views = s.views) (s.podReady a unit x) := by
  unfold State.podReady
  extract_lets sec st idle ready
  generalize (if s.fabric.lostTo.contains (a, sec) then _ else _ : Option Reply) = reply
  cases reply with
  | some r => trivial
  | none =>
    dsimp only
    split
    · rfl
    · trivial

theorem State.reach_keepsViews (s : State) (a unit : Nat) (x : Access) :
    Answers (fun _ => True) (fun t => t.views = s.views) (s.reach a unit x) := by
  have pod := s.podReady_keepsViews a unit x
  unfold State.reach
  extract_lets go
  have hgo : Answers (fun _ => True) (fun t => t.views = s.views) (go ()) := by
    unfold go
    split
    · rfl
    · split
      · split <;> trivial
      · split
        · exact pod
        · rfl
  split
  · trivial
  · exact hgo

@[simp] theorem State.takeAll_views (s : State) (a unit : Nat) (l : List Access) : (s.takeAll a unit l).views = s.views :=
  foldl_views (fun t x => by
    have h := t.reach_keepsViews a unit x
    split
    · exact t.fillWindow_views _ _ _ _
    · split
      · exact h.of_ok ‹_›
      · rfl) l s

theorem State.reachAll_keepsViews (s : State) (a unit : Nat) (l : List Access) :
    Answers (fun _ => True) (fun t => t.views = s.views) (s.reachAll a unit l) := by
  unfold State.reachAll
  split
  · trivial
  · dsimp only
    split
    · trivial
    · exact s.takeAll_views a unit l

theorem State.storesReach_keepsViews (s : State) (a unit : Nat) (ep : Option Nat) (l : List Store) :
    Answers (fun _ => True) (fun t => t.views = s.views) (s.storesReach a unit ep l) := by
  unfold State.storesReach
  extract_lets far old go
  have hgo : ∀ t : State, Answers (fun _ => True) (fun u => u.views = t.views) (go t) := fun t => by
    have h := t.reachAll_keepsViews a unit (t.storeAccesses a ep l)
    unfold go
    split
    · trivial
    · exact h
  split
  · exact hgo s
  · exact (s.reachAll_keepsViews a unit old).bind fun t ht => ht ▸ hgo t

end Sys2Proof.Machine
end

section
/-! PROOF. PHASE, and the publication that it waits for; O34 (R99 to R102, R155, R341). -/

namespace Sys2Proof.Machine

/-! ### Acquire boundaries (R101, R102) -/

@[simp] theorem State.view_modSeqOf (s : State) (a : Nat) (f : Seq → Seq) (b : Nat) : (s.modSeqOf a f).view b = s.view b := rfl

theorem State.view_acquire (s : State) (a b : Nat) : (s.acquire a).view b =
    if a = b then { s.view a with snap := s.coherent, stores := (s.view a).stores.filterMap (s.keptStore a) } else s.view b := by
  unfold State.acquire State.refresh
  rw [State.view_modSeqOf, State.view_setView]

/-- The stores that no publication has covered stay, and no other store becomes one of them. -/
theorem State.filter_keptStore (s : State) (a : Nat) (st : Store) :
    (s.keptStore a st).filter (fun st => !st.published) = Option.guard (fun st => !st.published) st := by
  unfold State.keptStore Option.guard
  by_cases h : st.published = true
  · simp only [h, Bool.not_true, Bool.false_eq_true, if_false]
    split <;> simp
  · simp [h]

theorem State.unpublished_acquire (s : State) (a : Nat) : ((s.acquire a).view a).unpublished = (s.view a).unpublished := by
  rw [State.view_acquire, if_pos rfl]
  unfold View.unpublished
  rw [List.filter_filterMap, ← List.filterMap_eq_filter]
  exact congrArg (List.filterMap · _) (funext (s.filter_keptStore a))

theorem State.phaseAcq_acquire (s : State) (a : Nat) : (s.acquire a).seq.phaseAcq = s.seq.phaseAcq := by
  unfold State.acquire State.seq
  rw [State.seqOf_modSeqOf]
  split
  · rename_i h
    exact congrArg (fun b => (s.seqOf b).phaseAcq) h
  · rfl

/-! ### Release boundaries (R99, R100) -/

/-- The release is made, or there is nothing to publish. -/
theorem State.releaseAt_done {s : State} (h : s.seq.released = true ∨ (s.view s.cur).rel = none ∧ s.coveredIds s.cur = [])
    (sc : Nat) (ep : Option Nat) : s.releaseAt sc ep = .ok s := by
  unfold State.releaseAt
  rcases h with h | ⟨hr, hc⟩
  · simp [h]
  · simp [hr, hc]

theorem State.releaseAt_begins {s : State} (hn : s.seq.released = false) (hr : (s.view s.cur).rel = none)
    (hc : s.coveredIds s.cur ≠ []) (sc : Nat) (ep : Option Nat) : s.releaseAt sc ep =
      stall (s.setView s.cur { s.view s.cur with rel := some { scope := sc, episode := ep, ids := s.coveredIds s.cur } }) := by
  unfold State.releaseAt
  simp [hn, hr, hc]

theorem exec_phaseRel (x : SM) (s : State) :
    exec (.phaseRel x) s = settle s (s.releaseAt x.scope.toNat none >>= fun t => pure t.countRelease.retire) := rfl

theorem exec_phaseAr (x : SM) (s : State) : exec (.phaseAr x) s =
    settle s (s.releaseAt x.scope.toNat none >>= fun t => pure ((t.countRelease.acquire t.cur).countAcquire).retire) := rfl

/-! ### The publication event -/

theorem exec_publication_performs {s u : State} {r : Release} (hr : (s.view s.evt.a).rel = some r)
    (hu : s.storesReach s.evt.a 9 r.episode ((s.view s.evt.a).chosen r.ids) = .ok u) (hp : s.evt.pairs = []) :
    exec .publication s = .next (u.publish s.evt.a r) := by
  show Host.Outcome.next (s.publication s.evt.a s.evt.pairs) = _
  unfold State.publication
  simp only [hr, hu, hp, List.foldl_nil]

/-- The stores of a publication are performed one after another. -/
def State.performStores (s : State) (a : Nat) (r : Release) : State :=
  ((s.view a).chosen r.ids).foldl (fun s st => s.performStore a r st) s

theorem State.performStores_views (s : State) (a : Nat) (r : Release) : (s.performStores a r).views = s.views :=
  foldl_views (fun t st => t.performStore_views a r st) _ s

theorem State.performAll_phys (s : State) (a : Nat) (r : Release) : (s.performAll a r).phys = (s.performStores a r).phys := rfl

theorem State.view_performAll (s : State) (a : Nat) (r : Release) : (s.performAll a r).view a =
    { s.view a with stores := (s.view a).stores.filterMap (Store.after ((s.view a).chosen r.ids)) } := by
  unfold State.performAll
  extract_lets now t us u v
  have hv : v = s.view a := State.view_congr (s.performStores_views a r) a
  rw [State.view_setView_same, hv]

theorem State.publish_phys (s : State) (a : Nat) (r : Release) : (s.publish a r).phys = (s.performStores a r).phys := by
  unfold State.publish
  dsimp only
  split <;> exact s.performAll_phys a r

theorem State.view_publish (s : State) (a : Nat) (r : Release) : (s.publish a r).view a =
    { s.view a with stores := (s.view a).stores.filterMap (Store.after ((s.view a).chosen r.ids)), rel := none } := by
  unfold State.publish
  dsimp only
  split <;> simp [State.view_performAll]

theorem State.released_publish {r : Release} (hq : r.quiet = false) (s : State) (a : Nat) :
    ((s.publish a r).seqOf a).released = true := by
  unfold State.publish
  simp [hq, State.seqOf_modSeqOf]

/-- What a publication leaves unpublished is no store that it covered. -/
theorem Store.after_uncovered {v : View} {ids : List Nat} {st : Store}
    (h : st ∈ v.stores.filterMap (Store.after (v.chosen ids))) (hu : st.published = false) : st.id ∉ ids := by
  obtain ⟨old, hold, hafter⟩ := List.mem_filterMap.mp h
  unfold Store.after at hafter
  split at hafter
  · cases hafter
    cases hu
  · rename_i hnone
    split at hafter
    · rename_i hpub
      cases hafter
      exact absurd hpub (by simp [hu])
    · rename_i hunpub
      dsimp only at hafter
      split at hafter
      · cases hafter
      · cases hafter
        intro hid
        refine hnone (List.any_eq_true.mpr ⟨old, ?_, decide_eq_true rfl⟩)
        simp only [View.chosen, View.unpublished, List.mem_filter]
        exact ⟨⟨hold, by simpa using hunpub⟩, by simpa using hid⟩

theorem State.unpublished_publish {s : State} {a : Nat} {r : Release} :
    ∀ st ∈ ((s.publish a r).view a).unpublished, st.id ∉ r.ids := by
  intro st hst
  rw [State.view_publish] at hst
  obtain ⟨hmem, hu⟩ := List.mem_filter.mp hst
  exact Store.after_uncovered hmem (by simpa using hu)

/-! ### A full word of ordinary memory at its home (R341) -/

section
variable {s : State} (noWindows : s.windows = [])
include noWindows

theorem State.winOf_none (asid va : Nat) : s.winOf asid va = none := by
  unfold State.winOf
  rw [noWindows]
  rfl

theorem State.reach_ordinary {a unit : Nat} {x : Access} (hx : ptePodc x.t.pte = false) {t : State} (h : s.reach a unit x = .ok t) :
    t = s := by
  unfold State.reach at h
  rw [State.winOf_none noWindows, hx] at h
  dsimp only at h
  split at h
  · cases h
  · split at h <;> cases h <;> rfl

theorem State.takeAll_ordinary (a unit : Nat) {l : List Access} (hl : ∀ x ∈ l, ptePodc x.t.pte = false) : s.takeAll a unit l = s := by
  unfold State.takeAll State.evicting
  suffices h : ∀ m : List Access, (∀ x ∈ m, ptePodc x.t.pte = false) → m.foldl _ s = s from h l hl
  intro m
  induction m with
  | nil => exact fun _ => rfl
  | cons x m ih =>
    intro hm
    rw [List.foldl_cons, State.winOf_none noWindows]
    dsimp only [Option.bind_none]
    split
    · rename_i t ht
      rw [State.reach_ordinary noWindows (hm x (by simp)) ht]
      exact ih fun y hy => hm y (by simp [hy])
    · exact ih fun y hy => hm y (by simp [hy])

theorem State.reachAll_ordinary {a unit : Nat} {l : List Access} (hl : ∀ x ∈ l, ptePodc x.t.pte = false) {u : State}
    (h : s.reachAll a unit l = .ok u) : u = s := by
  unfold State.reachAll at h
  split at h
  · cases h
  · dsimp only at h
    split at h
    · cases h
    · rw [State.takeAll_ordinary noWindows a unit hl] at h
      cases h
      rfl

/-- Stores to ordinary memory that reach it need nothing to be filled or fetched. -/
theorem State.storesReach_ordinary {a unit : Nat} (hd : (s.seqOf a).ctx.det = false) {ep : Option Nat} {l : List Store}
    (hl : ∀ st ∈ l, st.podc = false) {u : State} (h : s.storesReach a unit ep l = .ok u) : u = s := by
  have hacc : ∀ x ∈ s.storeAccesses a ep l, ptePodc x.t.pte = false := by
    intro x hx
    obtain ⟨st, hst, rfl⟩ := List.mem_map.mp hx
    dsimp only
    rw [hl st hst]
    rfl
  have hdet : detTract (s.seqOf a).ctx a = none := by simp [detTract, hd]
  unfold State.storesReach at h
  simp only [hdet, Option.isNone_none, if_true, List.isEmpty_nil, pure_bind] at h
  split at h
  · cases h
  · exact State.reachAll_ordinary noWindows hacc h

end

@[simp] theorem mergeWord_full (old : CW) (v : BitVec 32) (c : BitVec 4) : mergeWord old v c 15 = (⟨v, c⟩, false) := rfl

theorem State.yieldMask_plain {s : State} {a : Nat} (hd : (s.seqOf a).ctx.det = false) (pa : Nat) : s.yieldMask a pa 15 none = 15 := by
  unfold State.yieldMask
  simp [hd]

theorem State.scaleStore_noWindow {s : State} (hf : s.fwins = []) (pa : Nat) : s.scaleStore pa = s := by
  unfold State.scaleStore
  rw [hf]
  rfl

/-- No format window and no read-only field: the word is written as it is. A block may lose its MAGIC. -/
theorem State.putMemory_writes {s : State} (hf : s.fwins = []) {pa : Nat} (hro : s.roBits pa = 0) (cw : CW) :
    ∃ c, s.putMemory pa cw = { s with phys := s.phys.put false pa cw, sched := c } := by
  unfold State.putMemory
  dsimp only
  rw [if_pos hro]
  split
  · refine ⟨_, State.scaleStore_noWindow ?_ pa⟩
    exact hf
  · refine ⟨_, State.scaleStore_noWindow ?_ pa⟩
    exact hf

theorem State.homePut_here {s : State} (hw : s.windows = []) (hl : s.fabric.lines = []) {pa : Nat} (hh : s.homedHere pa = true)
    (l asid va : Nat) (cw : CW) : s.homePut l asid va pa cw = s.putMemory pa cw := by
  unfold State.homePut
  simp only [State.winOf_none hw, hl, hh, if_true]
  rfl

/-- A hit charges nothing and fills nothing. -/
theorem State.touch_hit_phys {s : State} {pa : Nat} (hc : (s.cache.find (pa / 64)).isSome = true) (a : Nat) (podc unc write : Bool) :
    (s.touch a pa podc unc write).phys = s.phys := by
  unfold State.touch
  simp only [hc, Bool.not_true, Bool.and_false, Bool.false_eq_true, if_false, if_true]
  split <;> rfl

theorem State.touchAt_hit_phys {s : State} {pa : Nat} (hc : (s.cache.find (pa / 64)).isSome = true) (a : Nat) (va : Word)
    (podc unc write : Bool) : (s.touchAt a va pa podc unc write).phys = s.phys := by
  unfold State.touchAt
  split
  · rfl
  · exact State.touch_hit_phys hc a podc unc write

theorem State.noteLanding_plain {s : State} {a : Nat} (hd : (s.seqOf a).ctx.det = false) (va : Word) (pa : Nat) (old : CW)
    (mask : BitVec 4) : s.noteLanding a va pa old mask none = s := by
  unfold State.noteLanding
  simp [hd]

/-- A store of a full word by a strand whose launch is not deterministic, to a sector of this module's ordinary memory that the
cache holds: no WINDOW range, no pod sector, no format window, no read-only field is in its way. -/
structure OrdinaryWord (s : State) (a : Nat) (st : Store) : Prop where
  full : st.mask = 15
  plain : st.podc = false
  here : s.homedHere st.pa = true
  inRange : s.homeRangeOk a st.pa = true
  windows : s.windows = []
  lines : s.fabric.lines = []
  fwins : s.fwins = []
  det : (s.seqOf a).ctx.det = false
  writable : s.roBits st.pa = 0
  cached : (s.cache.find (st.pa / 64)).isSome = true

section
variable {s : State} {a : Nat} {st : Store} (h : OrdinaryWord s a st)
include h

theorem OrdinaryWord.land_phys : (s.land a st none).phys = s.phys.put false st.pa ⟨st.data, st.code⟩ := by
  unfold State.land
  simp only [h.full, State.yieldMask_plain h.det, mergeWord_full, State.noteLanding_plain h.det, h.plain]
  rw [if_neg (by simp [State.elsewhere])]
  generalize hu : s.overrides (detTract (s.seqOf a).ctx a) st.pa 15 = u
  have hput : u.homePut (s.seqOf a).ctx.launch (u.asidOf a) (vaNum st.va) st.pa ⟨st.data, st.code⟩ =
      u.putMemory st.pa ⟨st.data, st.code⟩ :=
    State.homePut_here (hu ▸ h.windows) (hu ▸ h.lines) (hu ▸ h.here) _ _ _ _
  obtain ⟨c, hmem⟩ : ∃ c, u.putMemory st.pa ⟨st.data, st.code⟩ =
      { u with phys := u.phys.put false st.pa ⟨st.data, st.code⟩, sched := c } :=
    State.putMemory_writes (hu ▸ h.fwins) (hu ▸ h.writable) _
  simp only [Bool.false_eq_true, if_false, hput, hmem]
  refine (State.touchAt_hit_phys ?hit _ _ _ _ _).trans ?_
  case hit => exact hu ▸ h.cached
  rw [← hu]
  rfl

/-- A publication that covers this store alone leaves it at its home, with its code. -/
theorem OrdinaryWord.publish_phys {r : Release} (hr : r.episode = none) (alone : (s.view a).chosen r.ids = [st]) :
    (s.publish a r).phys = s.phys.put false st.pa ⟨st.data, st.code⟩ := by
  rw [State.publish_phys]
  unfold State.performStores State.performStore
  rw [alone, List.foldl_cons, List.foldl_nil, if_pos h.inRange, hr]
  exact h.land_phys

end

theorem Phys.second_congr (p : Phys) (hidden : Bool) {a b : Nat} (h : b / 65536 = a / 65536) : p.second hidden b = p.second hidden a := by
  unfold Phys.second
  rw [h]

/-- A word written on a face is what is read there, by whichever of its bytes it is named. -/
theorem Phys.word_put (p : Phys) (hidden : Bool) (a b : Nat) (w : CW) :
    (p.put hidden a w).word hidden b = if b / 4 = a / 4 then w else p.word hidden b := by
  split
  · rename_i h
    unfold Phys.word
    rw [Phys.second_put, p.second_congr hidden (show b / 65536 = a / 65536 by omega)]
    unfold Phys.put
    split <;> exact Mem.word_put_same _ _ h w
  · exact p.word_put_ne hidden ‹_› w hidden

theorem State.physByte_put {s t : State} {a : Nat} {w : CW} (h : t.phys = s.phys.put false a w) (b : Nat) :
    t.physByte b = if b / 4 = a / 4 then byteOf w.v (b % 4) else s.physByte b := by
  unfold State.physByte
  rw [h, Phys.word_put]
  split <;> rfl

/-! ### The statement -/

/-- Settles O34: an acquire keeps exactly the unpublished stores (`State.filter_keptStore`), a publication leaves none of those
that it covered (`Store.after_uncovered`), since what performs them leaves the views as they are, and a full word that meets
nothing on its way is written as it is (`OrdinaryWord.publish_phys`). -/
theorem boundariesPublishAndRefresh : Obligations.BoundariesPublishAndRefresh := by
  unfold Obligations.BoundariesPublishAndRefresh
  intro x s ids ready acq
  refine ⟨rfl, ?snapshot, ?unpublished, ?others, rfl, ?count, ?done, ?begins, ?publication⟩
  case snapshot =>
    show ((s.acquire s.cur).view s.cur).snap = _
    rw [State.view_acquire, if_pos rfl]
  case unpublished => exact s.unpublished_acquire s.cur
  case others =>
    intro c hc
    show (s.acquire s.cur).view c = _
    rw [State.view_acquire, if_neg (Ne.symm hc)]
  case count =>
    show (s.acquire s.cur).countAcquire.seq.phaseAcq = _
    unfold State.countAcquire
    rw [State.seq_modSeq]
    exact congrArg (· + 1) (s.phaseAcq_acquire s.cur)
  case done =>
    intro hr
    refine ⟨?_, ?_, ?_⟩
    · rw [exec_phaseRel, State.releaseAt_done hr]
      rfl
    · unfold State.countRelease
      rw [State.seq_modSeq]
    · rw [exec_phaseAr, State.releaseAt_done hr]
      rfl
  case begins =>
    intro hn hr hc w
    refine ⟨?_, ?_⟩
    · rw [exec_phaseRel, State.releaseAt_begins hn hr hc]
      rfl
    · rw [exec_phaseAr, State.releaseAt_begins hn hr hc]
      rfl
  case publication =>
    intro r u a hr hu hp
    refine ⟨_, exec_publication_performs hr hu hp, rfl, State.unpublished_publish, ?_, fun hq => State.released_publish hq u a, ?_⟩
    · rw [State.view_publish]
    · intro st alone full plain here inRange windows lines fwins det noEpisode writable cached
      have hus : u = s := State.storesReach_ordinary windows det (by rw [alone]; simpa using plain) hu
      subst hus
      have hphys := OrdinaryWord.publish_phys ⟨full, plain, here, inRange, windows, lines, fwins, det, writable, cached⟩ noEpisode alone
      exact ⟨by rw [hphys, Phys.word_put_same], State.physByte_put hphys⟩

end Sys2Proof.Machine
end

section
/-! PROOF. FENCE, PUBLISH and its flip; O35 (R107, R110, R111, R154, R156). -/

namespace Sys2Proof.Machine

/-! ### FENCE (R107, R154) -/

/-- With two sides: the agent's stores are shown to its engines where it names stores before streams or engines. -/
def State.showStores (s : State) (early late : Nat) : State :=
  if early.testBit 1 ∧ 8 ≤ late then
    s.setView s.cur { s.view s.cur with stores := (s.view s.cur).stores.map fun st => { st with fenced := true } } else s

theorem exec_fence_empty (x : SM) (s : State) (h : bits x.off 0 6 = 0 ∨ bits x.off 8 6 = 0) :
    exec (.fence x) s = .next s.retire := by
  show execFence x s = _
  unfold execFence
  simp [h]

section
variable {x : SM} {s : State} (he : bits x.off 0 6 ≠ 0) (hl : bits x.off 8 6 ≠ 0)
include he hl

theorem exec_fence_waits (hp : (s.plot s.cur).fencePending (s.plot s.cur).nextId (bits x.off 0 6) = true)
    (hm : bits x.off 8 6 % 8 ≠ 0) : exec (.fence x) s = .next s.stalledAt := by
  show execFence x s = _
  unfold execFence
  simp [he, hl, hp, hm, stall]

theorem exec_fence_idle (hp : (s.plot s.cur).fencePending (s.plot s.cur).nextId (bits x.off 0 6) = false) :
    exec (.fence x) s = .next (s.showStores (bits x.off 0 6) (bits x.off 8 6)).retire := by
  show execFence x s = _
  unfold execFence State.showStores
  simp [he, hl, hp]

theorem exec_fence_marks (hp : (s.plot s.cur).fencePending (s.plot s.cur).nextId (bits x.off 0 6) = true)
    (hm : bits x.off 8 6 % 8 = 0) : exec (.fence x) s =
      .next ((s.showStores (bits x.off 0 6) (bits x.off 8 6)).modPlot s.cur fun p =>
        p.issue { id := 0, instr := .fence x, pc := s.seq.pc }).retire := by
  show execFence x s = _
  unfold execFence State.showStores
  simp only [he, hl, hp, hm]
  by_cases h : (bits x.off 0 6).testBit 1 = true ∧ 8 ≤ bits x.off 8 6 <;> simp [h]

end

/-! ### PUBLISH (R110, R156) -/

theorem mapM_map_ok {α β γ : Type} {f : β → Res γ} {h : α → β} {g : α → γ} {l : List α} (ok : ∀ a ∈ l, f (h a) = .ok (g a)) :
    (l.map h).mapM f = .ok (l.map g) := by
  induction l with
  | nil => rfl
  | cons a l ih =>
    rw [List.map_cons, List.mapM_cons, ok a (by simp), bind_ok, ih fun b hb => ok b (by simp [hb])]
    rfl

/-- The first address of frame k of the buffer that a PUBLISH names. -/
def State.publishVa (s : State) (x : SM) (k : Nat) : Word := s.addr x + BitVec.ofNat 64 (65536 * k)

/-- The number of frames of that buffer. -/
def State.publishCount (s : State) (x : SM) : Nat := (s.reg x.rd).toNat / 65536

/-- What PUBLISH asks of a buffer whose frame k is translated by `ts k` (R110, R156). -/
structure Publishable (s : State) (x : SM) (ts : Nat → Tlb) : Prop where
  aligned : (s.addr x).toNat % 65536 = 0
  whole : (s.reg x.rd).toNat % 65536 = 0
  nonempty : (s.reg x.rd).toNat ≠ 0
  pages : ∀ k < s.publishCount x, s.translate s.cur 0 (s.publishVa x k) 1 = .ok (ts k) ∧
    (s.popKind ((ts k).pa (s.publishVa x k)) = 1 ∨ s.popKind ((ts k).pa (s.publishVa x k)) = 2) ∧ ptePub (ts k).pte = true ∧
    (ptePodc (ts k).pte = true → s.homedHere ((ts k).pa (s.publishVa x k)) = true)
  readable : Readable s [x.sa, x.rd]
  unwritten : (s.plot s.cur).writing (vaNum (s.addr x)) (s.reg x.rd).toNat = false
  settled : ∀ f ∈ s.flips, ∀ k < s.publishCount x, frameOf ((ts k).pa (s.publishVa x k)) ∉ f.frames

/-- The frames of the buffer. -/
def State.publishFrames (s : State) (x : SM) (ts : Nat → Tlb) : List Nat :=
  (List.range (s.publishCount x)).map fun k => frameOf ((ts k).pa (s.publishVa x k))

/-- The tick of the flip (R111). -/
def State.publishTick (s : State) (x : SM) (ts : Nat → Tlb) : Word :=
  s.tempo + if (List.range (s.publishCount x)).any (fun k => ptePodc (ts k).pte) then 2000 else 1000

section
variable {s : State} {x : SM} {ts : Nat → Tlb} (h : Publishable s x ts)
include h

theorem Publishable.translations : ((List.range (s.publishCount x)).map (s.publishVa x)).mapM (fun va => s.translate s.cur 0 va 1) =
    .ok ((List.range (s.publishCount x)).map ts) :=
  mapM_map_ok fun k hk => by
    obtain ⟨htranslated, -⟩ := h.pages k (List.mem_range.mp hk)
    exact htranslated

theorem Publishable.no_hole : ((List.range (s.publishCount x)).map fun k => (s.publishVa x k, ts k)).find?
    (fun y => s.popKind (y.2.pa y.1) = 0) = none := by
  refine List.find?_eq_none.mpr fun y hy => ?_
  obtain ⟨k, hk, rfl⟩ := List.mem_map.mp hy
  obtain ⟨-, hpop, -⟩ := h.pages k (List.mem_range.mp hk)
  simp only [decide_eq_true_eq]
  omega

theorem Publishable.none_refused : ((List.range (s.publishCount x)).map fun k => (s.publishVa x k, ts k)).find?
    (fun y => !ptePub y.2.pte || s.popKind (y.2.pa y.1) = 3 || (ptePodc y.2.pte && s.podHome (y.2.pa y.1) != s.fabric.podIndex)) =
      none := by
  refine List.find?_eq_none.mpr fun y hy => ?_
  obtain ⟨k, hk, rfl⟩ := List.mem_map.mp hy
  obtain ⟨-, hpop, hpub, hhome⟩ := h.pages k (List.mem_range.mp hk)
  have hhub : s.popKind ((ts k).pa (s.publishVa x k)) ≠ 3 := by omega
  unfold State.homedHere at hhome
  cases hc : ptePodc (ts k).pte with
  | false => simp [hpub, hhub]
  | true => simpa [hpub, hhub, hc] using hhome hc

theorem Publishable.no_flip : (s.flips.any fun f => f.frames.any (s.publishFrames x ts).contains) = false := by
  refine List.any_eq_false.mpr fun f hf => ?_
  simp only [List.any_eq_true, List.contains_iff_mem, State.publishFrames, List.mem_map, List.mem_range, not_exists, not_and]
  rintro _ hmem k hk rfl
  exact h.settled f hf k hk hmem

theorem Publishable.exec_publish : exec (.publish x) s = .next (({ s with flips := s.flips ++
    [{ frames := s.publishFrames x ts, tick := s.publishTick x ts, agent := s.cur, cid := none }] } : State).setReg x.rd
      (s.publishTick x ts)).retire := by
  show execPublish x s = _
  unfold execPublish
  have hvas : (List.range ((s.reg x.rd).toNat / 65536)).map (fun k => s.addr x + w64 (65536 * k)) =
    (List.range (s.publishCount x)).map (s.publishVa x) := rfl
  have hframes : ((List.range (s.publishCount x)).map fun k => (s.publishVa x k, ts k)).map (fun y => frameOf (y.2.pa y.1)) =
    s.publishFrames x ts := List.map_map
  dsimp only
  rw [need_ok (by simp [h.aligned, h.whole]), need_ok (by simpa using h.nonempty)]
  simp only [bind_ok, hvas, h.translations, List.zip_map', h.no_hole, h.none_refused, State.sources_ok h.readable, hframes,
    h.unwritten, h.no_flip, Bool.or_self, Bool.false_eq_true, if_false, List.any_map]
  rfl

end

/-! ### The flip (R111) -/

theorem Phys.word_flip_eq (p : Phys) (f : Nat) (x : Bool) (b : Nat) :
    (p.flip f).word x b = if f = b / 65536 then p.word (!x) b else p.word x b := by
  split
  · exact p.word_flip f x b (Eq.symm ‹_›)
  · exact p.word_flip_ne f x b (Ne.symm ‹_›)

/-- A frame that is named an odd number of times shows its other face. -/
theorem Phys.word_flips (frames : List Nat) (p : Phys) (x : Bool) (b : Nat) : (frames.foldl Phys.flip p).word x b =
    if (frames.filter (· = b / 65536)).length % 2 = 1 then p.word (!x) b else p.word x b := by
  induction frames generalizing p with
  | nil => rfl
  | cons f frames ih =>
    rw [List.foldl_cons, ih, Phys.word_flip_eq, Phys.word_flip_eq, List.filter_cons]
    by_cases h : f = b / 65536
    · simp only [h, if_true, decide_true, List.length_cons, Bool.not_not]
      rcases Nat.mod_two_eq_zero_or_one (frames.filter (· = b / 65536)).length with hm | hm <;> simp [hm, Nat.add_mod]
    · simp [h]

theorem State.endPart_frame (s : State) (p : CollPart) : (s.endPart p).phys = s.phys ∧ (s.endPart p).views = s.views ∧
    (s.endPart p).flips = s.flips := by
  unfold State.endPart State.finishOp
  split <;> exact ⟨rfl, rfl, rfl⟩

theorem State.makeFlip_frame (s : State) (i : Nat) (f : Flip) : (s.makeFlip i f).phys = f.frames.foldl Phys.flip s.phys ∧
    (s.makeFlip i f).views = s.views ∧ (s.makeFlip i f).flips = s.flips.eraseIdx i := by
  unfold State.makeFlip
  extract_lets t
  split
  · exact ⟨rfl, rfl, rfl⟩
  · split
    · exact ⟨rfl, rfl, rfl⟩
    · rename_i p _
      exact t.endPart_frame p

theorem State.makeFlip_publish (s : State) (i : Nat) {f : Flip} (h : f.cid = none) :
    s.makeFlip i f = { s with phys := f.frames.foldl Phys.flip s.phys, flips := s.flips.eraseIdx i } := by
  unfold State.makeFlip
  simp only [h, Option.bind_none]

theorem exec_publishFlip_at {s : State} {f : Flip} (h : s.flips[s.evt.a]? = some f) :
    exec .publishFlip s = .next (if s.tempo.toNat < f.tick.toNat then s else s.makeFlip s.evt.a f) := by
  show execPublishFlip s = _
  unfold execPublishFlip
  simp only [h]

/-! ### The statement -/

/-- Settles O35: FENCE by what is at work of its earlier kinds, PUBLISH by the checks that its buffer passes
(`Publishable.exec_publish`), the flip by how often each frame is named (`Phys.word_flips`). -/
theorem fencesAndPublish : Obligations.FencesAndPublish := by
  unfold Obligations.FencesAndPublish
  intro x s early late pend
  refine ⟨exec_fence_empty x s, ?fence, ?publish, ?flip⟩
  case fence =>
    intro he hl u
    exact ⟨exec_fence_idle he hl, exec_fence_marks he hl, exec_fence_waits he hl⟩
  case publish =>
    intro ts a len n va pa aligned whole nonempty pages readable unwritten settled T
    exact Publishable.exec_publish ⟨aligned, whole, nonempty, pages, readable, unwritten, settled⟩
  case flip =>
    intro f hf
    refine ⟨fun early => by rw [exec_publishFlip_at hf, if_pos early], fun due => ?_⟩
    obtain ⟨hphys, hviews, hflips⟩ := s.makeFlip_frame s.evt.a f
    refine ⟨s.makeFlip s.evt.a f, ?_, hflips, hviews, fun x b => ?_, fun hc => ?_⟩
    · rw [exec_publishFlip_at hf, if_neg (Nat.not_lt.mpr due)]
    · rw [hphys, Phys.word_flips]
    · rw [hphys, State.makeFlip_publish s s.evt.a hc]

end Sys2Proof.Machine
end

section
/-! PROOF. Encoding and decoding are inverse to each other; O1 and O2 (R115, R117 to R124, R129, R131). -/

namespace Sys2Proof.Laws.ReadsBack

/-- The decoder finds every well-formed instruction that has a word in that word: the lemma of each constructor. -/
theorem statement_holds : ∀ i : Instr, Statement i
  | .add x => add x | .sub x => sub x | .mul x => mul x | .mulh x => mulh x | .mulhu x => mulhu x | .div x => div x
  | .divu x => divu x | .mod x => mod x | .modu x => modu x | .and x => and x | .or x => or x | .xor x => xor x
  | .andn x => andn x | .shl x => shl x | .shr x => shr x | .sra x => sra x | .rol x => rol x | .min x => min x | .max x => max x
  | .minu x => minu x | .maxu x => maxu x | .slt x => slt x | .sltu x => sltu x | .seq x => seq x | .sel x => sel x
  | .madd x => madd x | .addsh x => addsh x | .clz x => clz x | .ctz x => ctz x | .popc x => popc x | .brev x => brev x
  | .sext x => sext x | .zext x => zext x | .bfx x => bfx x | .bfi x => bfi x | .movm x => movm x | .addi x => addi x
  | .muli x => muli x | .andi x => andi x | .ori x => ori x | .xori x => xori x | .shli x => shli x | .shri x => shri x
  | .srai x => srai x | .slti x => slti x | .sltiu x => sltiu x | .seqi x => seqi x | .li x => li x | .lih x => lih x
  | .lea x => lea x | .ldb x => ldb x | .ldbu x => ldbu x | .ldh x => ldh x | .ldhu x => ldhu x | .ldw x => ldw x
  | .ldwu x => ldwu x | .ldd x => ldd x | .stb x => stb x | .sth x => sth x | .stw x => stw x | .std x => std x | .ldm x => ldm x
  | .stm x => stm x | .pref x => pref x | .clean x => clean x | .aadd x => aadd x | .aand x => aand x | .aor x => aor x
  | .axor x => axor x | .amin x => amin x | .amax x => amax x | .aminu x => aminu x | .amaxu x => amaxu x | .aswp x => aswp x
  | .acas x => acas x | .afadd x => afadd x | .fence x => fence x | .phaseAcq x => phaseAcq x | .phaseRel x => phaseRel x
  | .phaseAr x => phaseAr x | .publish x => publish x | .beq x => beq x | .bne x => bne x | .blt x => blt x | .bge x => bge x
  | .bltu x => bltu x | .bgeu x => bgeu x | .j x => j x | .jal x => jal x | .jalr x => jalr x | .loop x => loop x
  | .progress x => progress x | .srd x => srd x | .swr x => swr x | .tagwaitany x => tagwaitany x | .tagwaitall x => tagwaitall x
  | .tagff x => tagff x | .tagclr x => tagclr x | .cbwait x => cbwait x | .bararv x => bararv x | .barwait x => barwait x
  | .bar x => bar x | .evsig x => evsig x | .evwait x => evwait x | .evrst x => evrst x | .evalloc x => evalloc x
  | .launch x => launch x | .seed x => seed x | .stashdecl x => stashdecl x | .carryx x => carryx x | .carryi x => carryi x
  | .trap x => trap x | .trapBrkpt x => trapBrkpt x | .srdp x => srdp x | .swrp x => swrp x | .genbump x => genbump x
  | .scrub x => scrub x | .tmask x => tmask x | .drainmk x => drainmk x | .ctxsave x => ctxsave x | .ctxload x => ctxload x
  | .relink x => relink x | .lnkctlQuiesce x => lnkctlQuiesce x | .lnkctlRemap x => lnkctlRemap x
  | .lnkctlRetrain x => lnkctlRetrain x | .lnkctlResume x => lnkctlResume x | .lnkctlMargin x => lnkctlMargin x
  | .lnkst x => lnkst x | .dirq x => dirq x | .dirreclaim x => dirreclaim x | .jrnlrd x => jrnlrd x | .tlbinv x => tlbinv x
  | .tempostop x => tempostop x | .gambit x => gambit x | .gambitStop x => gambitStop x | .mbox x => mbox x | .vadd x => vadd x
  | .vsub x => vsub x | .vmul x => vmul x | .vfma x => vfma x | .vfms x => vfms x | .vfnma x => vfnma x | .vdiv x => vdiv x
  | .vsqrt x => vsqrt x | .vrcp x => vrcp x | .vrsq x => vrsq x | .vexp2 x => vexp2 x | .vlog2 x => vlog2 x | .vmin x => vmin x
  | .vmax x => vmax x | .vabs x => vabs x | .vneg x => vneg x | .vclamp x => vclamp x | .vand x => vand x | .vor x => vor x
  | .vxor x => vxor x | .vshl x => vshl x | .vshr x => vshr x | .vsra x => vsra x | .vcmpeq x => vcmpeq x | .vcmplt x => vcmplt x
  | .vcmple x => vcmple x | .vsel x => vsel x | .vmov x => vmov x | .viota x => viota x | .vrng x => vrng x
  | .vscale x => vscale x | .vcvt x => vcvt x | .vqmx x => vqmx x | .vdqmx x => vdqmx x | .vpack x => vpack x
  | .vunpack x => vunpack x | .vshuf x => vshuf x | .vbcast x => vbcast x | .vredadd x => vredadd x | .vredmax x => vredmax x
  | .vredmin x => vredmin x | .vacc x => vacc x | .varst x => varst x | .vaout x => vaout x | .vscan x => vscan x
  | .vtos x => vtos x | .vsteer x => vsteer x | .vmerge x => vmerge x | .pand x => pand x | .por x => por x | .pnot x => pnot x
  | .pgen x => pgen x | .pfrom x => pfrom x | .pdrop x => pdrop x | .agbase x => agbase x | .agloop x => agloop x
  | .sloop x => sloop x | .agidx x => agidx x | .srst x => srst x | .sld x => sld x | .sst x => sst x | .sgath x => sgath x
  | .sscat x => sscat x | .sfill x => sfill x | .sbar x => sbar x | .btgive x => btgive x | .bttake x => bttake x
  | .tdset x => tdset x | .tld x => tld x | .tlda x => tlda x | .tst x => tst x | .tadd x => tadd x | .tcpy x => tcpy x
  | .cpy x => cpy x | .cpymm x => cpymm x | .coll x => coll x | .mma x => mma x | .mmaz x => mmaz x | .azero x => azero x
  | .adrain x => adrain x | .arel x => arel x | .wld x => wld x | .wrel x => wrel x | .cbld x => cbld x | .amirror x => amirror x
  | .aspill x => aspill x | .icfg x => icfg x | .iset x => iset x | .iwire x => iwire x | .iunwire x => iunwire x
  | .istep x => istep x | .isample x => isample x | .istream x => istream x | .iinject x => iinject x
  | .iinjectPort x => iinjectPort x | .iflags x => iflags x | .isave x => isave x | .iload x => iload x
  | .iloadImage x => iloadImage x | .routeLocal x => routeLocal x | .routeRemote x => routeRemote x | .routeRank x => routeRank x
  | .routeFile x => routeFile x | .routeHold x => routeHold x | .routeExpect x => routeExpect x | .rtab x => rtab x
  | .cfgblk x => cfgblk x | .actrate x => actrate x | .undefinedWord w => undefinedWord w | .halt => halt | .nop => nop
  | .yield => yield | .cbclose => cbclose | .tret => tret | .istreamOff => istreamOff
  | .actorFiring | .streamBeat | .beatReplay | .matrixStep | .drainFiring | .accumulatorSpill | .matrixMarkerEffect
  | .weightFillComplete | .istepFiring | .bankMarkerEffect | .tokenSend | .tokenDelivery | .tilePerform | .copyPerform
  | .followOnMmaStart | .publication | .publishFlip | .windowFill | .bankTokenSend | .bankTokenArrival | .pageWalk
  | .backgroundScrub | .barrierCompletion | .supervisorResume | .schedulerDecision | .agingStep | .strandRelease | .rankStart
  | .launchRetirement | .headlandScrub | .boundaryException | .timer | .timecmpWrite | .formatWindowWrite | .agRecordWrite
  | .watchdogExpiry | .preemptionEscalation | .actorPark | .drainComplete | .residentSwitch | .energySample | .quotaPeriodBoundary
  | .gyordHello | .gyordLaunch | .gyordCopy | .gyordEventSig | .gyordEventWait | .gyordEventRead | .gyordQueryLaunch
  | .gyordQueryRcb | .gyordManagement | .neterr | .knabryTraining | .flitRequest | .flitResponse | .flitSnoop | .flitSnoopReply
  | .flitContribution | .flitResult | .flitHold | .flitRelease | .flitCredit | .flitCrcRetry | .directoryRds | .directoryRdx
  | .directoryWrh | .directoryEvict | .dirtyNotice | .invalidationTimeout | .snoopTimeout | .ownerReachable | .snptmoWrite
  | .podRangeWrite | .collPathWrite | .collectiveSuccess | .collectiveTimeout | .ucieRetryThreshold | .ucieFlitFail
  | .quiesceTimeout | .ucieRetryConfigWrite | .scopeCheckControlWrite | .traceRingWrite | .journalSubmit | .journalAppend
  | .hubRegisterWrite | .fatalDump | .gambitWindowSwitch | .gambitTrialEnd | .tempostopWarning | .tempoStop | .podTempoAlign
  | .powerOnReset | .acrePowerUp | .linkMemoryTraining | .moduleReady | .dieWarm | .acreHot | .dieOvertemp | .powerCapSet
  | .operatingPointChange | .dbghalt | .debugResume | .debuggerAccess | .ctxrst | .dumpreq | .managementRead | .recoveryFlashImage
  | .extint | .entropyBitsReady | .managementAcknowledge | .holdchildRelease | .ethernetLinkUp => of_wordless rfl

end Sys2Proof.Laws.ReadsBack

namespace Sys2Proof

/-! ### From an instruction to its word and back -/

/-- A word that names no fixed word is decoded by its opcode's entry, and the form checks let a well-formed one through. -/
theorem decodeWord_of_opcodeOf {w : BitVec 64} {i : Instr} (hf : fixedWord w = none) (ho : opcodeOf w = some i)
    (hi : WellFormed i = true) : decodeWord w = .ok i := by
  have hform : formFault i = none := Option.isNone_iff_eq_none.mp hi
  simp [decodeWord, hf, ho, hform]

theorem decodeWord_of_fixedWord {w : BitVec 64} {i : Instr} (hf : fixedWord w = some (w, i)) : decodeWord w = .ok i := by
  simp [decodeWord, hf]

theorem decodeWord_encode {i : Instr} (hi : WellFormed i = true) (hw : hasWord i = true) : decodeWord (encode i) = .ok i := by
  rcases Laws.ReadsBack.statement_holds i hi hw with fixed | ⟨notFixed, entry⟩
  · exact decodeWord_of_fixedWord fixed
  · exact decodeWord_of_opcodeOf notFixed entry hi

/-! ### A word and its eight bytes (R115) -/

/-- One byte more in front of the bits above it. -/
theorem byte_below (w : BitVec 64) (k : Nat) : (w >>> (k + 8)) <<< 8 ||| (fieldAt k 8 w).setWidth 64 = w >>> k := by
  ext i hi
  by_cases h : i < 8
  · simp [fieldAt, h]
  · have hk : k + 8 + (i - 8) = k + i := by omega
    simp [fieldAt, h, hk]

/-- The bytes of a word are read as that word. -/
theorem bytesWord_wordBytes (w : BitVec 64) : bytesWord (wordBytes w) = w := by
  have top : w >>> 64 = 0 := BitVec.ushiftRight_eq_zero (Nat.le_refl 64)
  have bytes : wordBytes w = [fieldAt 0 8 w, fieldAt 8 8 w, fieldAt 16 8 w, fieldAt 24 8 w, fieldAt 32 8 w, fieldAt 40 8 w,
    fieldAt 48 8 w, fieldAt 56 8 w] := rfl
  simp only [bytes, bytesWord, ← top, byte_below]
  exact w.ushiftRight_zero

theorem decodeTableWord_encode {i : Instr} (hi : WellFormed i = true) (hw : hasWord i = true) :
    decodeTableWord 64 (encode i).toNat = some i := by
  simp [decodeTableWord, bytesWord_wordBytes, decodeWord_encode hi hw]

/-! ### From a word to its instruction and back -/

/-- Two fields side by side are one field. -/
theorem fieldAt_append {hi lo m : Nat} (h : hi = lo + m) (n : Nat) (w : BitVec 64) :
    fieldAt hi n w ++ fieldAt lo m w = fieldAt lo (n + m) w :=
  BitVec.extractLsb'_append_extractLsb'_eq_extractLsb' h

theorem fieldAt_all (w : BitVec 64) : fieldAt 0 64 w = w := BitVec.extractLsb'_eq_self

theorem S3.word_of {w : BitVec 64} {c : BitVec 4} (hc : (fieldAt 60 4 w).toNat = c.toNat) :
    (S3.of w).word c (fieldAt 52 8 w) = w := by
  obtain rfl := BitVec.eq_of_toNat_eq hc
  unfold S3.word S3.of
  simp (disch := decide) only [fieldAt_append]
  exact fieldAt_all w

theorem SI.word_of {w : BitVec 64} {c : BitVec 4} (hc : (fieldAt 60 4 w).toNat = c.toNat) :
    (SI.of w).word c (fieldAt 52 8 w) = w := by
  obtain rfl := BitVec.eq_of_toNat_eq hc
  unfold SI.word SI.of
  simp (disch := decide) only [fieldAt_append]
  exact fieldAt_all w

theorem SM.word_of {w : BitVec 64} {c : BitVec 4} (hc : (fieldAt 60 4 w).toNat = c.toNat) :
    (SM.of w).word c (fieldAt 52 6 w) = w := by
  obtain rfl := BitVec.eq_of_toNat_eq hc
  unfold SM.word SM.of
  simp (disch := decide) only [fieldAt_append]
  exact fieldAt_all w

theorem SB.word_of {w : BitVec 64} {c : BitVec 4} (hc : (fieldAt 60 4 w).toNat = c.toNat) :
    (SB.of w).word c (fieldAt 52 8 w) = w := by
  obtain rfl := BitVec.eq_of_toNat_eq hc
  unfold SB.word SB.of
  simp (disch := decide) only [fieldAt_append]
  exact fieldAt_all w

theorem SC.word_of {w : BitVec 64} {c : BitVec 4} (hc : (fieldAt 60 4 w).toNat = c.toNat) :
    (SC.of w).word c (fieldAt 52 8 w) = w := by
  obtain rfl := BitVec.eq_of_toNat_eq hc
  unfold SC.word SC.of
  simp (disch := decide) only [fieldAt_append]
  exact fieldAt_all w

theorem V.word_of {w : BitVec 64} {c : BitVec 4} (hc : (fieldAt 60 4 w).toNat = c.toNat) :
    (V.of w).word c (fieldAt 52 8 w) = w := by
  obtain rfl := BitVec.eq_of_toNat_eq hc
  unfold V.word V.of
  simp (disch := decide) only [fieldAt_append]
  exact fieldAt_all w

theorem D.word_of {w : BitVec 64} {c : BitVec 4} (hc : (fieldAt 60 4 w).toNat = c.toNat) :
    (D.of w).word c (fieldAt 52 8 w) = w := by
  obtain rfl := BitVec.eq_of_toNat_eq hc
  unfold D.word D.of
  simp (disch := decide) only [fieldAt_append]
  exact fieldAt_all w

/-- The instruction is encoded as the word, and counts as having a word unless that is the all-zero one (R131). -/
def CodedAs (i : Instr) (w : BitVec 64) : Prop := encode i = w ∧ hasWord i = (w != 0)

theorem CodedAs.ite {c : Prop} [Decidable c] {i j : Instr} {w : BitVec 64} (hi : CodedAs i w) (hj : CodedAs j w) :
    CodedAs (if c then i else j) w := by
  split
  · exact hi
  · exact hj

/-- The entries of a class's table are encoded as words of the class under their own opcodes, whatever their fields. -/
def Encodes {α : Type} {n : Nat} (t : List (Nat × (α → Instr))) (word : BitVec n → α → BitVec 64) : Prop :=
  ∀ p ∈ t, ∀ x, CodedAs (p.2 x) (word (BitVec.ofNat n p.1) x)

theorem Encodes.nil {α : Type} {n : Nat} {word : BitVec n → α → BitVec 64} : Encodes [] word := fun _ h => nomatch h

theorem Encodes.cons {α : Type} {n op : Nat} {f : α → Instr} {t : List (Nat × (α → Instr))} {word : BitVec n → α → BitVec 64}
    (hf : ∀ x, CodedAs (f x) (word (BitVec.ofNat n op) x)) (ht : Encodes t word) : Encodes ((op, f) :: t) word := by
  intro p hp
  rcases List.mem_cons.mp hp with rfl | hp
  · exact hf
  · exact ht p hp

theorem mem_of_pick {α : Type} {t : List (Nat × (α → Instr))} {op : Nat} {x : α} {i : Instr} (h : pick t op x = some i) :
    ∃ f, (op, f) ∈ t ∧ f x = i := by
  induction t with
  | nil => cases h
  | cons p t ih =>
    obtain ⟨n, f⟩ := p
    by_cases hn : n = op
    · subst hn
      exact ⟨f, List.mem_cons_self, Option.some.inj ((if_pos rfl).symm.trans h)⟩
    · obtain ⟨g, hg, hi⟩ := ih ((if_neg hn).symm.trans h)
      exact ⟨g, List.mem_cons_of_mem _ hg, hi⟩

/-- What a class's table names for a word is encoded as that word. -/
theorem Encodes.of_pick {α : Type} {n : Nat} {t : List (Nat × (α → Instr))} {word : BitVec n → α → BitVec 64}
    (ht : Encodes t word) {op : BitVec n} {x : α} {i : Instr} {w : BitVec 64} (hp : pick t op.toNat x = some i)
    (hw : word op x = w) : CodedAs i w := by
  obtain ⟨f, hf, rfl⟩ := mem_of_pick hp
  have := ht _ hf x
  rwa [BitVec.ofNat_toNat, BitVec.setWidth_eq, hw] at this

/-! Where one opcode stands for several instructions (PHASE, TRAP, LNKCTL, GAMBIT, IINJECT, ILOAD, ROUTE), each branch of the entry is
encoded under that opcode. -/

theorem class0_encodes : Encodes class0 (fun op x => S3.word 0x0 op x) := by
  repeat refine .cons (fun _ => ⟨rfl, rfl⟩) ?_
  exact .nil

theorem class1_encodes : Encodes class1 (fun op x => SI.word 0x1 op x) := by
  repeat refine .cons (fun _ => ⟨rfl, rfl⟩) ?_
  exact .nil

theorem class2_encodes : Encodes class2 (fun op x => SM.word 0x2 op x) := by
  repeat refine .cons (fun _ => ⟨rfl, rfl⟩) ?_
  exact .nil

theorem class3_encodes : Encodes class3 (fun op x => SM.word 0x3 op x) := by
  repeat refine .cons (fun _ => ⟨rfl, rfl⟩) ?_
  refine .cons (fun _ => .ite ⟨rfl, rfl⟩ (.ite ⟨rfl, rfl⟩ ⟨rfl, rfl⟩)) ?_
  repeat refine .cons (fun _ => ⟨rfl, rfl⟩) ?_
  exact .nil

theorem class4_encodes : Encodes class4 (fun op x => SB.word 0x4 op x) := by
  repeat refine .cons (fun _ => ⟨rfl, rfl⟩) ?_
  exact .nil

theorem class5_encodes : Encodes class5 (fun op x => SC.word 0x5 op x) := by
  repeat refine .cons (fun _ => ⟨rfl, rfl⟩) ?_
  exact .nil

theorem class6_encodes : Encodes class6 (fun op x => SC.word 0x6 op x) := by
  refine .cons (fun _ => .ite ⟨rfl, rfl⟩ ⟨rfl, rfl⟩) ?_
  repeat refine .cons (fun _ => ⟨rfl, rfl⟩) ?_
  refine .cons (fun _ => .ite ⟨rfl, rfl⟩ (.ite ⟨rfl, rfl⟩ (.ite ⟨rfl, rfl⟩ (.ite ⟨rfl, rfl⟩ ⟨rfl, rfl⟩)))) ?_
  repeat refine .cons (fun _ => ⟨rfl, rfl⟩) ?_
  refine .cons (fun _ => .ite ⟨rfl, rfl⟩ ⟨rfl, rfl⟩) ?_
  repeat refine .cons (fun _ => ⟨rfl, rfl⟩) ?_
  exact .nil

theorem class8_encodes : Encodes class8 (fun op x => V.word 0x8 op x) := by
  repeat refine .cons (fun _ => ⟨rfl, rfl⟩) ?_
  exact .nil

theorem class9_encodes : Encodes class9 (fun op x => V.word 0x9 op x) := by
  repeat refine .cons (fun _ => ⟨rfl, rfl⟩) ?_
  exact .nil

theorem classA_encodes : Encodes classA (fun op x => V.word 0xA op x) := by
  repeat refine .cons (fun _ => ⟨rfl, rfl⟩) ?_
  exact .nil

theorem classB_encodes : Encodes classB (fun op x => D.word 0xB op x) := by
  repeat refine .cons (fun _ => ⟨rfl, rfl⟩) ?_
  exact .nil

theorem classC_encodes : Encodes classC (fun op x => D.word 0xC op x) := by
  repeat refine .cons (fun _ => ⟨rfl, rfl⟩) ?_
  exact .nil

theorem classD_encodes : Encodes classD (fun op x => D.word 0xD op x) := by
  repeat refine .cons (fun _ => ⟨rfl, rfl⟩) ?_
  exact .nil

theorem classE_encodes : Encodes classE (fun op x => D.word 0xE op x) := by
  repeat refine .cons (fun _ => ⟨rfl, rfl⟩) ?_
  refine .cons (fun _ => .ite ⟨rfl, rfl⟩ ⟨rfl, rfl⟩) ?_
  repeat refine .cons (fun _ => ⟨rfl, rfl⟩) ?_
  refine .cons (fun _ => .ite ⟨rfl, rfl⟩ ⟨rfl, rfl⟩) ?_
  exact .nil

theorem classF_encodes : Encodes classF (fun op x => D.word 0xF op x) := by
  refine .cons (fun x => ?_) ?_
  · split <;> exact ⟨rfl, rfl⟩
  repeat refine .cons (fun _ => ⟨rfl, rfl⟩) ?_
  exact .nil

/-- Whatever instruction a word's class and opcode name, its encoding is that word. -/
theorem codedAs_of_opcodeOf {w : BitVec 64} {i : Instr} (h : opcodeOf w = some i) : CodedAs i w := by
  unfold opcodeOf at h
  split at h <;> rename_i hcls
  · exact class0_encodes.of_pick h (S3.word_of hcls)
  · exact class1_encodes.of_pick h (SI.word_of hcls)
  · exact class2_encodes.of_pick h (SM.word_of hcls)
  · exact class3_encodes.of_pick h (SM.word_of hcls)
  · exact class4_encodes.of_pick h (SB.word_of hcls)
  · exact class5_encodes.of_pick h (SC.word_of hcls)
  · exact class6_encodes.of_pick h (SC.word_of hcls)
  · exact class8_encodes.of_pick h (V.word_of hcls)
  · exact class9_encodes.of_pick h (V.word_of hcls)
  · exact classA_encodes.of_pick h (V.word_of hcls)
  · exact classB_encodes.of_pick h (D.word_of hcls)
  · exact classC_encodes.of_pick h (D.word_of hcls)
  · exact classD_encodes.of_pick h (D.word_of hcls)
  · exact classE_encodes.of_pick h (D.word_of hcls)
  · exact classF_encodes.of_pick h (D.word_of hcls)
  · cases h

/-- A fixed word is the word of its instruction, which has no field to check. -/
theorem of_fixedWord {w u : BitVec 64} {i : Instr} (h : fixedWord w = some (u, i)) :
    WellFormed i = true ∧ hasWord i = true ∧ encode i = u := by
  unfold fixedWord at h
  split at h
  case h_6 =>
    split at h
    · cases h; exact ⟨rfl, rfl, rfl⟩
    · cases h
  case h_7 => cases h
  all_goals cases h; exact ⟨rfl, rfl, rfl⟩

theorem opcodeOf_zero : opcodeOf 0 = none := rfl

/-- What the decoder accepts: a fixed word, or an opcode's entry whose fields pass the form checks. -/
theorem decodeWord_ok {w : BitVec 64} {i : Instr} (h : decodeWord w = .ok i) :
    fixedWord w = some (w, i) ∨ opcodeOf w = some i ∧ WellFormed i = true := by
  unfold decodeWord at h
  split at h
  case h_1 u j hf =>
    split at h
    case isTrue hu => cases h; exact .inl (hu ▸ hf)
    case isFalse => cases h
  case h_2 =>
    split at h
    case h_1 => cases h
    case h_2 j ho =>
      split at h
      case h_1 => cases h
      case h_2 hform => cases h; exact .inr ⟨ho, Option.isNone_iff_eq_none.mpr hform⟩

/-- Settles O1, from the lemma of each constructor and the eight bytes of a word. -/
theorem decodeInvertsEncode : Obligations.DecodeInvertsEncode := by
  unfold Obligations.DecodeInvertsEncode
  exact fun i hi hw => ⟨decodeWord_encode hi hw, decodeTableWord_encode hi hw⟩

/-- Settles O2: every entry of a class's table is encoded under its own class and opcode, and a word is made of its fields. -/
theorem encodeInvertsDecode : Obligations.EncodeInvertsDecode := by
  unfold Obligations.EncodeInvertsDecode
  intro w i h
  rcases decodeWord_ok h with fixed | ⟨entry, wellFormed⟩
  · exact of_fixedWord fixed
  · obtain ⟨code, word⟩ := codedAs_of_opcodeOf entry
    have nonzero : w ≠ 0 := by
      rintro rfl
      rw [opcodeOf_zero] at entry
      cases entry
    exact ⟨wellFormed, by rw [word]; exact bne_iff_ne.mpr nonzero, code⟩

end Sys2Proof
end

section
/-! PROOF. The trap of a word that is no instruction, and what a step fetches and runs; O4 and O5 (R115, R131, R132, R283). -/

namespace Sys2Proof.Machine

/-! ### The checks of a word, in their order (R131) -/

theorem fieldAt_class (w : Word) : (fieldAt 60 4 w).toNat = w.toNat / 2 ^ 60 := by
  have := w.isLt
  simp only [fieldAt, BitVec.extractLsb'_toNat, Nat.shiftRight_eq_div_pow]
  omega

theorem traps_of_wordFault {s : State} {w : Word} {c : Cause} (h : s.wordFault w = some c) : Traps (exec (.undefinedWord w) s) s c w := by
  show execUndefinedWord w s = _
  simp only [execUndefinedWord, h]

section
variable {s : State} {w : Word}

theorem State.wordFault_class7 (h : (fieldAt 60 4 w).toNat = 7) : s.wordFault w = some .illop := by
  simp [State.wordFault, h]

theorem State.wordFault_hub (h : 8 ≤ (fieldAt 60 4 w).toNat) (hub : isHub s.cur = true) : s.wordFault w = some .nodp := by
  have h7 : (fieldAt 60 4 w).toNat ≠ 7 := by omega
  simp [State.wordFault, h, h7, hub]

theorem State.wordFault_mode (h : 8 ≤ (fieldAt 60 4 w).toNat) (plot : isHub s.cur = false) (mode : s.seq.mode ≠ 0) :
    s.wordFault w = some .portprot := by
  have h7 : (fieldAt 60 4 w).toNat ≠ 7 := by omega
  simp [State.wordFault, h, h7, plot, mode]

/-- Orders 3 and 4 of R131 let the word pass: its class is not 0x7, and a datapath word is met on a plot in user mode. -/
structure PassesClass (s : State) (w : Word) : Prop where
  assigned : (fieldAt 60 4 w).toNat ≠ 7
  datapath : 8 ≤ (fieldAt 60 4 w).toNat → isHub s.cur = false ∧ s.seq.mode = 0

theorem PassesClass.noHubFault (h : PassesClass s w) : (decide (8 ≤ (fieldAt 60 4 w).toNat) && isHub s.cur) = false := by
  by_cases h8 : 8 ≤ (fieldAt 60 4 w).toNat
  · simp [h.datapath h8]
  · simp [h8]

theorem PassesClass.noModeFault (h : PassesClass s w) : (decide (8 ≤ (fieldAt 60 4 w).toNat) && s.seq.mode != 0) = false := by
  by_cases h8 : 8 ≤ (fieldAt 60 4 w).toNat
  · simp [h.datapath h8]
  · simp [h8]

theorem PassesClass.wordFault_unassigned (h : PassesClass s w) (hd : decodeWord w = .error .unassigned) :
    s.wordFault w = some .illop := by
  simp [State.wordFault, h.assigned, h.noHubFault, h.noModeFault, hd]

theorem PassesClass.wordFault_ok {i : Instr} (h : PassesClass s w) (hd : decodeWord w = .ok i) :
    s.wordFault w = if s.mayRun i = true then none else some .priv := by
  cases hr : s.mayRun i <;> simp [State.wordFault, h.assigned, h.noHubFault, h.noModeFault, hd, hr]

/-- The instruction that a word names, its fields unchecked, by its fixed bits or its class and opcode (order 5 of R131). -/
def Names (w : Word) (i : Instr) : Prop := (∃ u, fixedWord w = some (u, i)) ∨ fixedWord w = none ∧ opcodeOf w = some i

theorem PassesClass.wordFault_form {c : Cause} {i : Instr} (h : PassesClass s w) (hd : decodeWord w = .error (.form c)) (hi : Names w i) :
    s.wordFault w = some (if s.userPriv i = true then .priv else c) := by
  rcases hi with ⟨u, fixed⟩ | ⟨notFixed, entry⟩
  · cases hp : s.userPriv i <;> simp [State.wordFault, h.assigned, h.noHubFault, h.noModeFault, hd, fixed, hp]
  · cases hp : s.userPriv i <;> simp [State.wordFault, h.assigned, h.noHubFault, h.noModeFault, hd, notFixed, entry, hp]

end

/-- Settles O4: the word's class first, then what it decodes to; each cause is the one that `State.wordFault` finds first. -/
theorem invalidWordsTrap : Obligations.InvalidWordsTrap := by
  unfold Obligations.InvalidWordsTrap
  intro w s
  simp only [← fieldAt_class]
  refine ⟨fun h => traps_of_wordFault (State.wordFault_class7 h), fun h hub => traps_of_wordFault (State.wordFault_hub h hub),
    fun h plot mode => traps_of_wordFault (State.wordFault_mode h plot mode), fun h7 hdp => ?_⟩
  have pass : PassesClass s w := ⟨h7, hdp⟩
  refine ⟨fun hd => traps_of_wordFault (pass.wordFault_unassigned hd), fun i hd barred => traps_of_wordFault ?_,
    fun i hd runs => ?_, fun c i hd hi => traps_of_wordFault (pass.wordFault_form hd hi)⟩
  · rw [pass.wordFault_ok hd, barred]; rfl
  · rw [pass.wordFault_ok hd, if_pos runs]

/-! ### Fetch (R115, R131 orders 1 and 2) -/

section
variable {s : State}

theorem State.fetch_misaligned (h : s.seq.pc.toNat % 8 ≠ 0) : s.fetch = trap .ialign s.seq.pc := by
  simp [State.fetch, h, trap]

theorem State.fetch_plot (plot : isHub s.cur = false) (aligned : s.seq.pc.toNat % 8 = 0) :
    s.fetch = need (s.seq.pc.toNat < (s.plot s.cur).codeLen && !(s.plot s.cur).codeBad.contains (s.seq.pc.toNat / 8)) .ifetch s.seq.pc >>=
      fun _ => .ok ((s.plot s.cur).code.get 0 (s.seq.pc.toNat / 8)) := by
  simp [State.fetch, plot, aligned, pure, Except.pure]

theorem State.fetch_outside (plot : isHub s.cur = false) (aligned : s.seq.pc.toNat % 8 = 0)
    (h : (s.plot s.cur).codeLen ≤ s.seq.pc.toNat ∨ (s.plot s.cur).codeBad.contains (s.seq.pc.toNat / 8) = true) :
    s.fetch = trap .ifetch s.seq.pc := by
  rw [State.fetch_plot plot aligned]
  rcases h with beyond | bad
  · simp [Nat.not_lt.mpr beyond, trap]
  · simp only [bad, Bool.not_true, Bool.and_false, need_false, bind_error, trap]

theorem State.fetch_inside (plot : isHub s.cur = false) (aligned : s.seq.pc.toNat % 8 = 0)
    (inside : s.seq.pc.toNat < (s.plot s.cur).codeLen) (good : (s.plot s.cur).codeBad.contains (s.seq.pc.toNat / 8) = false) :
    s.fetch = .ok ((s.plot s.cur).code.get 0 (s.seq.pc.toNat / 8)) := by
  rw [State.fetch_plot plot aligned]
  simp only [inside, good, decide_true, Bool.not_false, Bool.and_true, need_true, bind_ok]

/-! ### Executing what was fetched -/

theorem State.execute_trap {c : Cause} {t0 : Word} (h : s.fetch = trap c t0) : Traps s.execute s c t0 := by
  unfold State.execute
  rw [h]
  rfl

theorem State.execute_decoded {w : Word} {i : Instr} (hw : s.fetch = .ok w) (hd : decodeWord w = .ok i) :
    s.execute = if s.mayRun i = true then exec i s else exec (.undefinedWord w) s := by
  simp only [State.execute, hw, hd]
  rfl

theorem State.execute_undecoded {w : Word} {e : DecodeError} (hw : s.fetch = .ok w) (hd : decodeWord w = .error e) :
    s.execute = exec (.undefinedWord w) s := by
  simp only [State.execute, hw, hd]
  rfl

/-- A sequencer outside debug mode with nothing asked of it and nothing pending executes. -/
theorem State.runAgent_execute (run : s.seq.run = .running) (mode : s.seq.mode ≠ 2) (req : s.seq.req.pending = false)
    (pend : s.seq.hasPending = false) : s.runAgent = s.execute := by
  simp [State.runAgent, run, mode, req, pend]

/-- The step of a module that is not stopped, before or after its tick, is what the move named by the schedule does. -/
theorem step_of_agenda {m : Move} {ms : List Move} (h : s.agenda = m :: ms) (on : s.stopped = false)
    (on' : (({ s with agenda := ms } : State).tick 1).stopped = false) : step s = (({ s with agenda := ms } : State).tick 1).act m := by
  have hs : ({ s with agenda := ms } : State).stopped = false := on
  simp [step, h, State.takes, on, State.move, hs, on']

end

/-- Settles O5: the step is the agent's own, which executes; then by cases of what the fetch answers. -/
theorem stepRunsDecoded : Obligations.StepRunsDecoded := by
  unfold Obligations.StepRunsDecoded
  intro s a ms agenda on r t on' run mode req pend
  have hstep : step s = t.execute := (step_of_agenda agenda on on').trans (State.runAgent_execute run mode req pend)
  rw [hstep]
  refine ⟨fun w hw => ⟨fun i hd runs => ?_, fun i hd barred => ?_, fun e hd => State.execute_undecoded hw hd⟩, fun plot => ?_⟩
  · rw [State.execute_decoded hw hd, if_pos runs]
  · rw [State.execute_decoded hw hd, barred]; rfl
  · exact ⟨fun h => State.execute_trap (State.fetch_misaligned h), fun h out => State.execute_trap (State.fetch_outside plot h out),
      State.fetch_inside plot⟩

end Sys2Proof.Machine
end
